-- ==== Sys2Proof/Word.lean ====
section
/-! DEFINITION. The words of the part: bytes, times, numbers of stands, links, entries, points and kinds, the plainest
arithmetic (R4), and the operands that commands carry (the fields of every request payload, section 11.3.8). -/

namespace Sys2Proof

/-- One byte of any link. -/
abbrev Byte := BitVec 8

/-- Device time: a 32-bit count of microseconds (R5). -/
abbrev Micros := BitVec 32

/-- Log timestamps: a 32-bit count of milliseconds (R5). -/
abbrev Millis := BitVec 32

/-- Segment numbers are 32-bit (R45). -/
abbrev SegNo := BitVec 32

/-- The coil counter is a 16-bit number (R66). -/
abbrev CoilNo := BitVec 16

/-- Stand k of the manual (1 to 6) is index k - 1; actuator links carry the same numbers. -/
abbrev Stand := Fin 6

/-- Interstand j of the manual (1 to 5) is index j - 1. -/
abbrev Interstand := Fin 5

/-- Sensor links 0 to 7. -/
abbrev LinkNo := Fin 8

/-- Channel entries 0 to 31. -/
abbrev EntryNo := Fin 32

/-- The nine tracking points in rolling order, numbered as in section 11.1: X0 B1 X1 B2 B3 B4 B5 B6 X6. -/
abbrev PointNo := Fin 9

/-- The 22 fault kinds, numbered 0 to 21 (R132). -/
abbrev Kind := Fin 22

/-- Logs 1 to 5 are index 0 to 4 (log 0, the directory, is a view). -/
abbrev LogNo := Fin 5

/-- R4: every division rounds half away from zero. The divisor is positive. -/
def roundDiv (n d : Int) : Int :=
  if 0 ≤ n then (2 * n + d) / (2 * d) else -((2 * (-n) + d) / (2 * d))

/-- R4: the greatest integer not above the quotient. The divisor is positive. -/
def floorDiv (n d : Int) : Int := Int.fdiv n d

/-- Section 5.2: x limited to the range lo to hi. -/
def clampInt (x lo hi : Int) : Int := max lo (min x hi)

/-- A saturating counter: add `k` and hold at `top`. -/
def satAdd (n k top : Nat) : Nat := min (n + k) top

/-- The fields of a CONFIGURE_CHANNEL payload (section 11.3.8). -/
structure ChannelPayload where
  entry : Byte
  binding : Option (Byte × Byte)
  role : Byte
  place : Option Byte
  start : Byte
  length : Byte
  signed : Bool
  gain : BitVec 32
  offset : BitVec 32
  stale : BitVec 32
deriving DecidableEq, Repr

/-- The fields of a CONFIGURE_STAND payload (section 11.3.8). -/
structure StandPayload where
  stand : Byte
  modulus : BitVec 16
  zeroForce : BitVec 32
  offset : BitVec 32
  gfb : BitVec 16
  gff : BitVec 16
  gm : Byte
  trimLimit : BitVec 16
  stepLimit : BitVec 16
  deadband : Byte
  moveBand : BitVec 16
  posTimeout : BitVec 16
  bite : BitVec 32
  limitValue : Byte
  limitScale : Byte
  unload : BitVec 16
  openGap : BitVec 32
deriving DecidableEq, Repr

/-- The fields of a CONFIGURE_LINE payload (section 11.3.8). -/
structure LinePayload where
  segLen : BitVec 32
  linkTimeout : BitVec 16
  openTimeout : BitVec 16
  breakThreshold : BitVec 16
  breakConfirm : Byte
  breakMinSpeed : BitVec 16
  runLength : Byte
deriving DecidableEq, Repr

/-- One stand block of a SCHEDULE_LOAD payload (section 11.3.2). -/
structure StandBlock where
  h : BitVec 32
  sset : BitVec 32
  smin : BitVec 32
  smax : BitVec 32
  q : BitVec 16
  f : Byte
deriving DecidableEq, Repr

/-- The fields of a SCHEDULE_LOAD payload but the take mode (section 11.3.2). -/
structure SchedulePayload where
  tag : Byte
  h0 : BitVec 32
  stands : Vector StandBlock 6
  ramp : Byte
  tol : BitVec 16
  bin : Byte
  mark : Byte
deriving DecidableEq, Repr

/-- The 27 requests of section 10.5 with the fields of their payloads (section 11.3.8). -/
inductive Request where
  | configureChannel (p : ChannelPayload)
  | configureStand (p : StandPayload)
  | configureLine (p : LinePayload)
  | commitConfig
  | configOpen
  | thread
  | run
  | stop
  | tripReset
  | restart
  | scheduleLoad (take : Byte) (p : SchedulePayload)
  | scheduleWithdraw (tag : Byte)
  | scheduleQuery (tag : Byte)
  | faultPolicy (kind : Byte) (enable : Bool) (severity : Byte)
  | faultClear (kinds : BitVec 24)
  | countReset (kinds : BitVec 24)
  | faultQuery (kind : Byte)
  | segmentQuery (selector : Byte) (arg : BitVec 32)
  | segmentMark (first : BitVec 32) (count : BitVec 16) (action mode : Byte)
  | channelRead (entry : Byte)
  | linkStatus (link : Byte)
  | linkControl (link action : Byte)
  | logRead (log : Byte) (first : BitVec 32) (count : BitVec 16)
  | logWrite (log : Byte) (text : List Byte)
  | logClear (log : Byte)
  | status
  | identify
deriving DecidableEq, Repr

/-- The order in which the three units that read one FORCE sample take it (R39; R117 gives the outcome of each order):
g the Gap Computation Unit, t the Tracking Unit, p the Protection Unit. -/
inductive ForceOrder where
  | gtp | gpt | tgp | tpg | pgt | ptg
deriving DecidableEq, Repr

/-- The manual leaves the order in which several units take one sample open ("either may be taken first"); a frame's
arrival carries the order that happened: for a FORCE sample (R117), for a GAP_POS sample (R131, whether the Actuator Link
Unit takes it before the stand controller), and for a sample that arrives together with a change of its stand's actuator
(R124, R131: whether the stand takes the sample before the actuator's report has reached it). DESIGN CHOICE,
notes/assumptions/8 and 33. -/
structure ReaderOrder where
  force : ForceOrder
  actuatorFirst : Bool
  beforeReport : Bool
deriving DecidableEq, Repr

end Sys2Proof
end

