-- ==== Sys2Proof/Syntax.lean ====
section
/-! DEFINITION. The commands the part takes: one constructor per row of spec/opcode_table.json. -/

namespace Sys2Proof

/-- The commands. Those of the supervisor carry the request number `n` and the fields of the request's payload; a request
command is the arrival of a good supervisor frame that carries the request (R179 to R182). Field events carry the
number of the link, entry, stand or interstand they happen at; frames carry their bytes as received. -/
inductive Instr where
  /-- POWER_ON (R2): power-on, or assertion of the RESET pin. -/
  | powerOn
  /-- SUPERVISOR_FRAME (R179): bytes that the supervisor receiver is given. -/
  | supervisorFrame (bytes : List Byte)
  /-- FRAME_SENT (R185): the transmitter completes the frame it is sending. -/
  | frameSent
  /-- CONFIGURE_CHANNEL (R32). -/
  | configureChannel (n : Byte) (p : ChannelPayload)
  /-- CONFIGURE_STAND (R95). -/
  | configureStand (n : Byte) (p : StandPayload)
  /-- CONFIGURE_LINE (R70). -/
  | configureLine (n : Byte) (p : LinePayload)
  /-- COMMIT_CONFIG (R7). -/
  | commitConfig (n : Byte)
  /-- CONFIG_OPEN (R8). -/
  | configOpen (n : Byte)
  /-- THREAD (R9). -/
  | thread (n : Byte)
  /-- RUN (R10). -/
  | run (n : Byte)
  /-- STOP (R11). -/
  | stop (n : Byte)
  /-- TRIP_RESET (R13). -/
  | tripReset (n : Byte)
  /-- RESTART (R14). -/
  | restart (n : Byte)
  /-- SCHEDULE_LOAD with take mode NOW (R77). -/
  | scheduleLoadNow (n : Byte) (p : SchedulePayload)
  /-- SCHEDULE_LOAD with take mode AT_WELD (R77). -/
  | scheduleLoadAtWeld (n : Byte) (p : SchedulePayload)
  /-- SCHEDULE_WITHDRAW (R78). -/
  | scheduleWithdraw (n tag : Byte)
  /-- SCHEDULE_QUERY (R79). -/
  | scheduleQuery (n tag : Byte)
  /-- FAULT_POLICY (R145). -/
  | faultPolicy (n kind : Byte) (enable : Bool) (severity : Byte)
  /-- FAULT_CLEAR (R146). -/
  | faultClear (n : Byte) (kinds : BitVec 24)
  /-- COUNT_RESET (R147). -/
  | countReset (n : Byte) (kinds : BitVec 24)
  /-- FAULT_QUERY (R148). -/
  | faultQuery (n kind : Byte)
  /-- SEGMENT_QUERY (R69). -/
  | segmentQuery (n selector : Byte) (arg : BitVec 32)
  /-- SEGMENT_MARK with action SET (R163). -/
  | segmentMarkSet (n : Byte) (first : BitVec 32) (count : BitVec 16) (mode : Byte)
  /-- SEGMENT_MARK with action CLEAR (R163). -/
  | segmentMarkClear (n : Byte) (first : BitVec 32) (count : BitVec 16) (mode : Byte)
  /-- CHANNEL_READ (R188). -/
  | channelRead (n entry : Byte)
  /-- LINK_STATUS (R189). -/
  | linkStatus (n link : Byte)
  /-- LINK_CONTROL with action RETRAIN (R28). -/
  | retrain (n link : Byte)
  /-- LINK_CONTROL with action DISABLE (R27). -/
  | disable (n link : Byte)
  /-- LINK_CONTROL with action ENABLE (R27). -/
  | enable (n link : Byte)
  /-- LINK_CONTROL with action CLEAR_COUNTERS (R22). -/
  | clearCounters (n link : Byte)
  /-- LOG_READ (R175). -/
  | logRead (n log : Byte) (first : BitVec 32) (count : BitVec 16)
  /-- LOG_WRITE (R176). -/
  | logWrite (n log : Byte) (text : List Byte)
  /-- LOG_CLEAR (R177). -/
  | logClear (n log : Byte)
  /-- STATUS (R187). -/
  | status (n : Byte)
  /-- IDENTIFY (R190). -/
  | identify (n : Byte)
  /-- SENSOR_FRAME (R19): bytes that the receiver of a sensor link is given, and the order in which the readers of a
  sample took it. -/
  | sensorFrame (l : LinkNo) (bytes : List Byte) (order : ReaderOrder)
  /-- FRAME_TIMER_EXPIRY (R20). -/
  | frameTimerExpiry (l : LinkNo)
  /-- STALE_EXPIRY (R40). -/
  | staleExpiry (e : EntryNo)
  /-- INVALID_EXPIRY (R40). -/
  | invalidExpiry (e : EntryNo)
  /-- WELD_DETECT (R64). -/
  | weldDetect
  /-- UNLOAD_TIMER_EXPIRY (R103). -/
  | unloadTimerExpiry (k : Stand)
  /-- ACK (R121): an ACK status frame on an actuator link. -/
  | ack (k : Stand) (ready : Bool)
  /-- FAULT_STATUS (R123): a FAULT status frame on an actuator link. -/
  | faultStatus (k : Stand) (code : Byte)
  /-- OPEN_CONFIRMED (R128): an OPEN_CONFIRMED status frame on an actuator link. -/
  | openConfirmed (k : Stand)
  /-- ACTUATOR_BAD_FRAME (R193): bytes on an actuator link that make a frame that fails its check. -/
  | actuatorBadFrame (k : Stand) (bytes : List Byte)
  /-- REPLY_TIMER_EXPIRY (R122). -/
  | replyTimerExpiry (k : Stand)
  /-- KEEP_ALIVE (R119). -/
  | keepAlive (k : Stand)
  /-- POSITIONING_TIMER_EXPIRY (R126). -/
  | positioningTimerExpiry (k : Stand)
  /-- OPEN_TIMER_EXPIRY (R129). -/
  | openTimerExpiry
  /-- EXTERNAL_STOP_ASSERTED (R139). -/
  | externalStopAsserted
  /-- EXTERNAL_STOP_RELEASED (R139). -/
  | externalStopReleased
  /-- BREAK_TIMER_EXPIRY (R142). -/
  | breakTimerExpiry (j : Interstand)
deriving DecidableEq, Repr

end Sys2Proof
end

