-- ==== Sys2Proof/Decode.lean ====
section
/-! DEFINITION. The host's question "which command does a word of the table spell": spec/opcode_table.json gives no row any
bits (98_reader.md: n_rows_with_fixed 0, n_rows_with_fields 0), so no word spells a command. The requests' own encoding on
the supervisor link is in Machine/Operands.lean. -/

namespace Sys2Proof

/-- No row of the table gives bits, so no word spells a command. -/
def decodeTableWord (_nbits _w : Nat) : Option Instr := none

end Sys2Proof
end

