-- ==== Sys2Proof/Config.lean ====
section
/-! DEFINITION. What the part fixes once and for all, capacities (R190) and limits, and the free values the manual leaves
open. -/

namespace Sys2Proof.Config

/-- FREE VALUE (no body): the next-sequence field of a LOG_READ reply for log 0. Section 11.3.5 gives every LOG_READ reply
the field and R173 gives log 0 no sequence counter, so the manual states no value. It is applied to a plain counter of
the state. See notes/assumptions/3. -/
opaque directoryNextSequence : Nat → BitVec 32

/-- R45: the segment ring's capacity. -/
def ringCapacity : Nat := 256

/-- R74: the pending queue's capacity. -/
def queueCapacity : Nat := 8

/-- R74: the in-force table's capacity. -/
def tableCapacity : Nat := 3

/-- R85: the most ACTIVE transition records. -/
def transitionCapacity : Nat := 2

/-- R156: the most open coil reports. -/
def reportCapacity : Nat := 4

/-- R180: the receive queue's capacity. -/
def rxCapacity : Nat := 4

/-- R183: the notice queue's capacity. -/
def noticeCapacity : Nat := 32

/-- R179: the largest payload. -/
def maxPayload : Nat := 240

/-- R118: silence is 10 ms. -/
def replyTimeout : Nat := 10000

/-- R119: keep-alive commands are paced at 100 ms. -/
def keepAlive : Nat := 100000

/-- Every 16-bit saturating counter stops here. -/
def top16 : Nat := 65535

/-- Section 11.3.9: the part code of the TSC-6. -/
def partCode : BitVec 16 := 0x7C06

/-- R170: the capacity of each of logs 1 to 5. -/
def logCapacity : Vector Nat 5 := #v[128, 64, 16, 32, 32]

/-- R173: the reply limit of each of logs 1 to 5. -/
def logReplyLimit : Vector Nat 5 := #v[8, 8, 1, 8, 5]

end Sys2Proof.Config
end

