-- ==== Sys2Proof/Machine/Operands.lean ====
section
/-! DEFINITION. Bytes on the links: byte order and presence bytes (R192), the two CRC procedures (R193), the receivers' hunt
for frames (R19, R179, R193), and the payload of every request in both directions (section 11.3.8). -/

namespace Sys2Proof.Machine

/-! ### Fields, low byte first (R192) -/

/-- The two bytes of a 16-bit field, low byte first. -/
def bytes16 (x : BitVec 16) : List Byte := [x.extractLsb' 0 8, x.extractLsb' 8 8]

/-- The three bytes of a 24-bit field, low byte first. -/
def bytes24 (x : BitVec 24) : List Byte := [x.extractLsb' 0 8, x.extractLsb' 8 8, x.extractLsb' 16 8]

/-- The four bytes of a 32-bit field, low byte first. -/
def bytes32 (x : BitVec 32) : List Byte :=
  [x.extractLsb' 0 8, x.extractLsb' 8 8, x.extractLsb' 16 8, x.extractLsb' 24 8]

/-- A 16-bit field from its bytes, low byte first. -/
def word16 (b0 b1 : Byte) : BitVec 16 := b1 ++ b0

/-- A 24-bit field from its bytes, low byte first. -/
def word24 (b0 b1 b2 : Byte) : BitVec 24 := b2 ++ (b1 ++ b0)

/-- A 32-bit field from its bytes, low byte first. -/
def word32 (b0 b1 b2 b3 : Byte) : BitVec 32 := b3 ++ (b2 ++ (b1 ++ b0))

/-- The byte at an offset of a payload whose length has been checked. -/
def byteAt (p : List Byte) (i : Nat) : Byte := p.getD i 0

/-- The 16-bit field at an offset. -/
def at16 (p : List Byte) (i : Nat) : BitVec 16 := word16 (byteAt p i) (byteAt p (i + 1))

/-- The 24-bit field at an offset. -/
def at24 (p : List Byte) (i : Nat) : BitVec 24 := word24 (byteAt p i) (byteAt p (i + 1)) (byteAt p (i + 2))

/-- The 32-bit field at an offset. -/
def at32 (p : List Byte) (i : Nat) : BitVec 32 :=
  word32 (byteAt p i) (byteAt p (i + 1)) (byteAt p (i + 2)) (byteAt p (i + 3))

/-- One byte holding a count or a number. -/
def nat8 (n : Nat) : List Byte := [BitVec.ofNat 8 n]

/-- A count or a number in two bytes. -/
def nat16 (n : Nat) : List Byte := bytes16 (BitVec.ofNat 16 n)

/-- A count or a number in four bytes. -/
def nat32 (n : Nat) : List Byte := bytes32 (BitVec.ofNat 32 n)

/-- A signed quantity in two bytes, two's complement. -/
def int16 (n : Int) : List Byte := bytes16 (BitVec.ofInt 16 n)

/-- A signed quantity in three bytes, two's complement. -/
def int24 (n : Int) : List Byte := bytes24 (BitVec.ofInt 24 n)

/-- A signed quantity in four bytes, two's complement. -/
def int32 (n : Int) : List Byte := bytes32 (BitVec.ofInt 32 n)

/-- A flag is bit 0 of its byte. -/
def flag8 (b : Bool) : List Byte := [if b then 1 else 0]

/-- An optional field: a presence byte, and the value bytes when it is 1 (R192). -/
def optional {α : Type} (f : α → List Byte) : Option α → List Byte
  | none => [0]
  | some a => 1 :: f a

/-- A set of stands in one byte: bit k - 1 stands for stand k. -/
def standSet (v : Vector Bool 6) : List Byte :=
  nat8 ((List.finRange 6).foldl (fun acc k => if v[k] then acc + 2 ^ k.val else acc) 0)

/-! ### The CRC procedures (R193) -/

/-- One bit of the CRC-8 with polynomial 07h. -/
def crc8Bit (c : Byte) : Byte := if c.msb then (c <<< 1) ^^^ 0x07 else c <<< 1

/-- CRC-8 with initial value 00h, most significant bit first. -/
def crc8 (bs : List Byte) : Byte := bs.foldl (fun c b => Nat.iterate crc8Bit 8 (c ^^^ b)) 0

/-- One bit of the CRC-16 with polynomial 1021h. -/
def crc16Bit (c : BitVec 16) : BitVec 16 := if c.msb then (c <<< 1) ^^^ 0x1021 else c <<< 1

/-- CRC-16 with initial value FFFFh, most significant bit first, no reflection and no final inversion. -/
def crc16 (bs : List Byte) : BitVec 16 :=
  bs.foldl (fun c b => Nat.iterate crc16Bit 8 (c ^^^ ((b.zeroExtend 16 : BitVec 16) <<< 8))) 0xFFFF

/-! ### Frames -/

/-- The bytes of a supervisor frame (section 11.2.1). -/
def supervisorFrameBytes (typ num : Byte) (payload : List Byte) : List Byte :=
  let covered := BitVec.ofNat 8 payload.length :: typ :: num :: payload
  0xA5 :: 0x5A :: (covered ++ bytes16 (crc16 covered))

/-- What the supervisor receiver makes of the bytes it hunts through. -/
inductive RxEvent where
  /-- A length field above 240. -/
  | lengthError
  /-- A frame whose CRC-16 does not check. -/
  | crcError
  /-- A good frame. -/
  | good (typ num : Byte) (payload : List Byte)
deriving DecidableEq, Repr

/-- R179: hunt for A5h 5Ah, read the length, collect and check; after an error hunting resumes at the byte after the A5h.
Answers what was found, in order, and the bytes still being collected. The first argument bounds the bytes looked at. -/
def huntSupervisor : Nat → List Byte → List RxEvent × List Byte
  | 0, buf => ([], buf)
  | _ + 1, [] => ([], [])
  | fuel + 1, b :: rest =>
    if b ≠ 0xA5 then huntSupervisor fuel rest
    else match rest with
      | [] => ([], [b])
      | b1 :: rest1 =>
        if b1 ≠ 0x5A then huntSupervisor fuel rest
        else match rest1 with
          | [] => ([], [b, b1])
          | len :: rest2 =>
            if Config.maxPayload < len.toNat then
              let r := huntSupervisor fuel rest
              (.lengthError :: r.1, r.2)
            else if rest2.length < len.toNat + 4 then ([], b :: rest)
            else
              let covered := len :: rest2.take (len.toNat + 2)
              if at16 rest2 (len.toNat + 2) = crc16 covered then
                let r := huntSupervisor fuel (rest2.drop (len.toNat + 4))
                (.good (byteAt rest2 0) (byteAt rest2 1) ((rest2.drop 2).take len.toNat) :: r.1, r.2)
              else
                let r := huntSupervisor fuel rest
                (.crcError :: r.1, r.2)

/-- R19, R193: the hunt of a sensor or actuator receiver for frames of `n` bytes that begin with `sync` and end with a
CRC-8 over the bytes between. `some body` is a frame whose CRC checks, `none` a CRC error, after which hunting resumes
at the byte after the sync it had taken. Every frame whose CRC checks is consumed whole, a status frame whose code or
argument is bad among them (DEDUCED, notes/assumptions/32). -/
def huntFixed (sync : Byte) (n : Nat) : Nat → List Byte → List (Option (List Byte)) × List Byte
  | 0, buf => ([], buf)
  | _ + 1, [] => ([], [])
  | fuel + 1, b :: rest =>
    if b ≠ sync then huntFixed sync n fuel rest
    else if rest.length < n - 1 then ([], b :: rest)
    else
      let body := rest.take (n - 2)
      if crc8 body = byteAt rest (n - 2) then
        let r := huntFixed sync n fuel (rest.drop (n - 1))
        (some body :: r.1, r.2)
      else
        let r := huntFixed sync n fuel rest
        (none :: r.1, r.2)

/-- The fields of a sensor frame (section 11.2.2). -/
structure SensorFields where
  slot : Fin 4
  headFault : Bool
  strip : Bool
  seq : BitVec 4
  raw : BitVec 32
deriving DecidableEq, Repr

/-- The fields of the five covered bytes of a sensor frame (section 11.2.2). -/
def sensorFields (body : List Byte) : SensorFields :=
  let b := byteAt body 0
  { slot := ⟨(b.extractLsb' 0 2).toNat, (b.extractLsb' 0 2).isLt⟩
    headFault := b.getLsbD 2
    strip := b.getLsbD 3
    seq := b.extractLsb' 4 4
    raw := at32 body 1 }

/-- The seven bytes of a good sensor frame (section 11.2.2). -/
def sensorFrameBytes (f : SensorFields) : List Byte :=
  let b1 : Byte := f.seq ++ (BitVec.ofBool f.strip ++ (BitVec.ofBool f.headFault ++ BitVec.ofNat 2 f.slot.val))
  let body := b1 :: bytes32 f.raw
  0xC3 :: (body ++ [crc8 body])

/-- The four bytes of an actuator status frame (section 11.2.2). -/
def statusFrameBytes (code arg : Byte) : List Byte := [0x3C, code, arg, crc8 [code, arg]]

/-- A status of an actuator, taken from a frame that passes its check. -/
inductive Status where
  | ack (ready : Bool)
  | fault (code : Byte)
  | openConfirmed
deriving DecidableEq, Repr

/-- R193: the status of the two covered bytes of an actuator status frame whose CRC matches; `none` for the frames that the
part treats as bad all the same. -/
def statusOf (body : List Byte) : Option Status :=
  let code := byteAt body 0
  let arg := byteAt body 1
  if code = 0x81 then
    if arg = 0 then some (.ack false) else if arg = 1 then some (.ack true) else none
  else if code = 0x82 then
    if arg = 0 ∨ arg = 0xFE ∨ arg = 0xFF then none else some (.fault arg)
  else if code = 0x83 then
    if arg = 0 then some .openConfirmed else none
  else none

/-- A command on an actuator link (section 6.1). -/
inductive Command where
  | gapSet (reference : Int)
  | openGap
  | poll
deriving DecidableEq, Repr

/-- The seven bytes of an actuator command frame (section 11.2.2). -/
def commandFrameBytes (c : Command) : List Byte :=
  let body : List Byte := match c with
    | .gapSet r => 0x01 :: int32 r
    | .openGap => 0x02 :: int32 0
    | .poll => 0x03 :: int32 0
  0x3C :: (body ++ [crc8 body])

/-! ### Request payloads (section 11.3.8) -/

/-- The length of a LOG_WRITE text fits its length byte. -/
def textBytes (t : List Byte) : List Byte := nat8 t.length ++ t

/-- The payload of a stand block, 19 bytes. -/
def standBlockBytes (b : StandBlock) : List Byte :=
  bytes32 b.h ++ (bytes32 b.sset ++ (bytes32 b.smin ++ (bytes32 b.smax ++ (bytes16 b.q ++ [b.f]))))

/-- A stand block at an offset of a SCHEDULE_LOAD payload. -/
def standBlockAt (p : List Byte) (i : Nat) : StandBlock :=
  { h := at32 p i, sset := at32 p (i + 4), smin := at32 p (i + 8), smax := at32 p (i + 12),
    q := at16 p (i + 16), f := byteAt p (i + 18) }

/-- A SCHEDULE_LOAD payload, 125 bytes (section 11.3.2). -/
def scheduleBytes (take : Byte) (p : SchedulePayload) : List Byte :=
  p.tag :: take :: (bytes32 p.h0 ++
    (standBlockBytes p.stands[0] ++ (standBlockBytes p.stands[1] ++ (standBlockBytes p.stands[2] ++
    (standBlockBytes p.stands[3] ++ (standBlockBytes p.stands[4] ++ (standBlockBytes p.stands[5] ++
    (p.ramp :: (bytes16 p.tol ++ [p.bin, p.mark])))))))))

/-- The schedule record of a SCHEDULE_LOAD payload. -/
def scheduleAt (p : List Byte) : SchedulePayload :=
  { tag := byteAt p 0, h0 := at32 p 2,
    stands := #v[standBlockAt p 6, standBlockAt p 25, standBlockAt p 44, standBlockAt p 63, standBlockAt p 82,
      standBlockAt p 101],
    ramp := byteAt p 120, tol := at16 p 121, bin := byteAt p 123, mark := byteAt p 124 }

/-- A CONFIGURE_STAND payload, 37 bytes. -/
def standBytes (p : StandPayload) : List Byte :=
  p.stand :: (bytes16 p.modulus ++ (bytes32 p.zeroForce ++ (bytes32 p.offset ++ (bytes16 p.gfb ++ (bytes16 p.gff ++
    (p.gm :: (bytes16 p.trimLimit ++ (bytes16 p.stepLimit ++ (p.deadband :: (bytes16 p.moveBand ++
    (bytes16 p.posTimeout ++ (bytes32 p.bite ++ (p.limitValue :: p.limitScale :: (bytes16 p.unload ++
    bytes32 p.openGap))))))))))))))

/-- The fields of a CONFIGURE_STAND payload. -/
def standAt (p : List Byte) : StandPayload :=
  { stand := byteAt p 0, modulus := at16 p 1, zeroForce := at32 p 3, offset := at32 p 7, gfb := at16 p 11,
    gff := at16 p 13, gm := byteAt p 15, trimLimit := at16 p 16, stepLimit := at16 p 18, deadband := byteAt p 20,
    moveBand := at16 p 21, posTimeout := at16 p 23, bite := at32 p 25, limitValue := byteAt p 29,
    limitScale := byteAt p 30, unload := at16 p 31, openGap := at32 p 33 }

/-- A CONFIGURE_LINE payload, 14 bytes. -/
def lineBytes (p : LinePayload) : List Byte :=
  bytes32 p.segLen ++ (bytes16 p.linkTimeout ++ (bytes16 p.openTimeout ++ (bytes16 p.breakThreshold ++
    (p.breakConfirm :: (bytes16 p.breakMinSpeed ++ [p.runLength])))))

/-- The fields of a CONFIGURE_LINE payload. -/
def lineAt (p : List Byte) : LinePayload :=
  { segLen := at32 p 0, linkTimeout := at16 p 4, openTimeout := at16 p 6, breakThreshold := at16 p 8,
    breakConfirm := byteAt p 10, breakMinSpeed := at16 p 11, runLength := byteAt p 13 }

/-- The part of a channel configuration behind the place, 15 bytes. -/
def channelTailBytes (p : ChannelPayload) : List Byte :=
  p.start :: p.length :: (flag8 p.signed ++ (bytes32 p.gain ++ (bytes32 p.offset ++ bytes32 p.stale)))

/-- The configuration of a channel as CONFIGURE_CHANNEL sends it after its entry byte. -/
def channelConfigBytes (p : ChannelPayload) : List Byte :=
  optional (fun b => [b.1, b.2]) p.binding ++ (p.role :: (optional (fun b => [b]) p.place ++ channelTailBytes p))

/-- A CONFIGURE_CHANNEL payload, 19 to 22 bytes. -/
def channelBytes (p : ChannelPayload) : List Byte := p.entry :: channelConfigBytes p

/-- The fields of a CONFIGURE_CHANNEL payload. The presence bytes fix the one length allowed; one other than 0 or 1, or
another length, makes it malformed (R192). -/
def channelAt (p : List Byte) : Option ChannelPayload :=
  let tail (e : Byte) (bind : Option (Byte × Byte)) (role : Byte) (place : Option Byte) (t : List Byte) :
      Option ChannelPayload :=
    if t.length = 15 then
      some { entry := e, binding := bind, role := role, place := place, start := byteAt t 0, length := byteAt t 1,
             signed := (byteAt t 2).getLsbD 0, gain := at32 t 3, offset := at32 t 7, stale := at32 t 11 }
    else none
  let mid (e : Byte) (bind : Option (Byte × Byte)) (t : List Byte) : Option ChannelPayload :=
    match t with
    | role :: pp :: u =>
      if pp = 0 then tail e bind role none u
      else if pp = 1 then
        match u with
        | pl :: v => tail e bind role (some pl) v
        | [] => none
      else none
    | _ => none
  match p with
  | e :: pb :: t =>
    if pb = 0 then mid e none t
    else if pb = 1 then
      match t with
      | l :: sl :: u => mid e (some (l, sl)) u
      | _ => none
    else none
  | _ => none

/-- The type of a request (section 11.2.1). -/
def requestType : Request → Byte
  | .configureChannel _ => 0x01
  | .configureStand _ => 0x02
  | .configureLine _ => 0x03
  | .commitConfig => 0x04
  | .configOpen => 0x05
  | .thread => 0x06
  | .run => 0x07
  | .stop => 0x08
  | .tripReset => 0x09
  | .restart => 0x0A
  | .scheduleLoad _ _ => 0x0B
  | .scheduleWithdraw _ => 0x0C
  | .scheduleQuery _ => 0x0D
  | .faultPolicy _ _ _ => 0x0E
  | .faultClear _ => 0x0F
  | .countReset _ => 0x10
  | .faultQuery _ => 0x11
  | .segmentQuery _ _ => 0x12
  | .segmentMark _ _ _ _ => 0x13
  | .channelRead _ => 0x14
  | .linkStatus _ => 0x15
  | .linkControl _ _ => 0x16
  | .logRead _ _ _ => 0x17
  | .logWrite _ _ => 0x18
  | .logClear _ => 0x19
  | .status => 0x1A
  | .identify => 0x1B

/-- The payload of a request (section 11.3.8). -/
def requestPayload : Request → List Byte
  | .configureChannel p => channelBytes p
  | .configureStand p => standBytes p
  | .configureLine p => lineBytes p
  | .commitConfig => []
  | .configOpen => []
  | .thread => []
  | .run => []
  | .stop => []
  | .tripReset => []
  | .restart => []
  | .scheduleLoad take p => scheduleBytes take p
  | .scheduleWithdraw tag => [tag]
  | .scheduleQuery tag => [tag]
  | .faultPolicy k e sv => k :: (flag8 e ++ [sv])
  | .faultClear ks => bytes24 ks
  | .countReset ks => bytes24 ks
  | .faultQuery k => [k]
  | .segmentQuery sel arg => sel :: bytes32 arg
  | .segmentMark f c a m => bytes32 f ++ (bytes16 c ++ [a, m])
  | .channelRead e => [e]
  | .linkStatus l => [l]
  | .linkControl l a => [l, a]
  | .logRead g f c => g :: (bytes32 f ++ bytes16 c)
  | .logWrite g t => g :: textBytes t
  | .logClear g => [g]
  | .status => []
  | .identify => []

/-- What the first two checks of R181 make of a frame. -/
inductive Parsed where
  /-- The type is not one of the requests. -/
  | unknownType
  /-- The payload length does not suit the type. -/
  | malformed
  | request (r : Request)
deriving DecidableEq, Repr

/-- A payload of one allowed length. -/
def exactly (p : List Byte) (n : Nat) (r : Request) : Parsed := if p.length = n then .request r else .malformed

/-- R181 checks 1 and 2: the request that a frame's type and payload spell. -/
def parseRequest (typ : Byte) (p : List Byte) : Parsed :=
  match typ.toNat with
  | 0x01 => match channelAt p with
    | some c => .request (.configureChannel c)
    | none => .malformed
  | 0x02 => exactly p 37 (.configureStand (standAt p))
  | 0x03 => exactly p 14 (.configureLine (lineAt p))
  | 0x04 => exactly p 0 .commitConfig
  | 0x05 => exactly p 0 .configOpen
  | 0x06 => exactly p 0 .thread
  | 0x07 => exactly p 0 .run
  | 0x08 => exactly p 0 .stop
  | 0x09 => exactly p 0 .tripReset
  | 0x0A => exactly p 0 .restart
  | 0x0B => exactly p 125 (.scheduleLoad (byteAt p 1) (scheduleAt p))
  | 0x0C => exactly p 1 (.scheduleWithdraw (byteAt p 0))
  | 0x0D => exactly p 1 (.scheduleQuery (byteAt p 0))
  | 0x0E => exactly p 3 (.faultPolicy (byteAt p 0) ((byteAt p 1).getLsbD 0) (byteAt p 2))
  | 0x0F => exactly p 3 (.faultClear (at24 p 0))
  | 0x10 => exactly p 3 (.countReset (at24 p 0))
  | 0x11 => exactly p 1 (.faultQuery (byteAt p 0))
  | 0x12 => exactly p 5 (.segmentQuery (byteAt p 0) (at32 p 1))
  | 0x13 => exactly p 8 (.segmentMark (at32 p 0) (at16 p 4) (byteAt p 6) (byteAt p 7))
  | 0x14 => exactly p 1 (.channelRead (byteAt p 0))
  | 0x15 => exactly p 1 (.linkStatus (byteAt p 0))
  | 0x16 => exactly p 2 (.linkControl (byteAt p 0) (byteAt p 1))
  | 0x17 => exactly p 7 (.logRead (byteAt p 0) (at32 p 1) (at16 p 5))
  | 0x18 => match p with
    | g :: n :: t => exactly t n.toNat (.logWrite g t)
    | _ => .malformed
  | 0x19 => exactly p 1 (.logClear (byteAt p 0))
  | 0x1A => exactly p 0 .status
  | 0x1B => exactly p 0 .identify
  | _ => .unknownType

end Sys2Proof.Machine
end

