-- ==== Sys2Proof/Machine/State.lean ====
section
/-! DEFINITION. The state of the part, block by block in the order of the manual's section 2.1, and its value right after
reset. Plain data throughout. -/

namespace Sys2Proof.Machine

/-- Why the part would stop with a fault. The manual gives every command an effect in every state ("refused" requests are
answered, ignored events leave no trace), so there is no such reason and no command raises one (DEDUCED,
notes/assumptions/29). -/
inductive Fault where
deriving DecidableEq, Repr

/-- Why a command would be refused. -/
inductive Refusal where
  /-- Raised by an arm of `exec` whose command has no meaning yet (none at present). Safe: the run stops. -/
  | notModelled (mnemonic : String)
deriving DecidableEq, Repr

/-! ### Device (chapter 1) -/

/-- R1: the device mode. -/
inductive Mode where
  | config | ready | thread | run | tripped
deriving DecidableEq, Repr

/-- R1: the cause that a MODE_CHANGED notice carries. -/
inductive ModeCause where
  | powerOn | commitConfig | configOpen | thread | run | stop | trip | tripReset | restart
deriving DecidableEq, Repr

/-! ### Measurement Unit (chapter 2) -/

/-- R18: the state of a sensor link. -/
inductive LinkMode where
  | disabled | down | training | up
deriving DecidableEq, Repr

/-- The cause that a LINK_STATE notice carries (section 2.1.2). -/
inductive LinkCause where
  | frameDetected | trained | autonomousRetrain | requestedRetrain | timeout | disabled | enabled
deriving DecidableEq, Repr

/-- R18: a sensor link. `rx` is the bytes its receiver is still collecting (R19). A link is enabled exactly when its mode
is not DISABLED. -/
structure Link where
  mode : LinkMode
  timer : Option Micros
  training : Nat
  crcRun : Nat
  seqRef : Option (BitVec 4)
  good : Nat
  crcErrors : Nat
  gaps : Nat
  rx : List Byte
deriving DecidableEq, Repr

/-- R31: a role together with its place. Exactly the 27 required roles. -/
inductive Item where
  | entryThick | stand1Thick | exitThick | entryLength
  | force (k : Stand) | gapPos (k : Stand) | rollSpeed (k : Stand) | tension (j : Interstand)
deriving DecidableEq, Repr

/-- R41: why a channel is INVALID. -/
inductive InvalidCause where
  | linkLost | headFault | range | age
deriving DecidableEq, Repr

/-- R31: the state of a channel; the invalid cause is present while INVALID. -/
inductive ChannelState where
  | unbound | noData | valid | stale | invalid (cause : InvalidCause)
deriving DecidableEq, Repr

/-- R31: the configuration of a bound channel entry. -/
structure ChannelConfig where
  link : LinkNo
  slot : Fin 4
  item : Item
  start : Nat
  length : Nat
  signed : Bool
  gain : Int
  offset : Int
  stale : Nat
deriving DecidableEq, Repr

/-- R31: a channel entry. The configuration is absent while the entry is UNBOUND; `held` is the held value with its sample
time. -/
structure Channel where
  config : Option ChannelConfig
  state : ChannelState
  held : Option (Int × Micros)
  rejects : Nat
  consecutive : Nat
  strip : Option Bool
  lengthRef : Option Nat
deriving DecidableEq, Repr

/-- R70: the line parameters. -/
structure LineParams where
  segLen : Nat
  linkTimeout : Nat
  openTimeout : Nat
  breakThreshold : Nat
  breakConfirm : Nat
  breakMinSpeed : Nat
  runLength : Nat
deriving DecidableEq, Repr

/-! ### Tracking Unit (chapter 3) -/

/-- R158, R72: LOGGED or QUIET. -/
inductive MarkMode where
  | logged | quiet
deriving DecidableEq, Repr

/-- R46: one entry of the stand estimate list. -/
structure Estimate where
  stand : Stand
  mean : Option Int
  count : Nat
deriving DecidableEq, Repr

/-- R46: a segment record. A measurement is its mean and count; the off-gauge mark is NONE when absent; a ramp index of NONE
is `none`. -/
structure Segment where
  number : SegNo
  coil : CoilNo
  tag : Nat
  weld : Bool
  entry : Option (Int × Nat)
  estimates : List Estimate
  x1 : Option (Int × Nat)
  x6 : Option (Int × Nat)
  ramp : Option Nat
  offGauge : Option MarkMode
  manual : Bool
  tripMark : Bool
deriving DecidableEq, Repr

/-- R46: the release cause, which travels with a released record. -/
inductive ReleaseCause where
  | passed | forced | discardedStop | discardedTrip
deriving DecidableEq, Repr

/-- R48: a tracking point. `travelled` is in 1/1024 µm; the accumulator is used by X0, X1 and X6. -/
structure Point where
  started : Bool
  cursor : SegNo
  travelled : Nat
  advanced : Option Micros
  sum : Int
  count : Nat
  early : Bool
  clamped : Bool
deriving DecidableEq, Repr

/-! ### Schedule Unit (chapter 4) -/

/-- R72: the take mode of a schedule. -/
inductive TakeMode where
  | now | atWeld
deriving DecidableEq, Repr

/-- R72: the per-stand fields of a schedule record. -/
structure StandTargets where
  h : Int
  sset : Int
  smin : Int
  smax : Int
  q : Int
  slip : Int
deriving DecidableEq, Repr

/-- R72: a schedule record. -/
structure Schedule where
  tag : Nat
  take : TakeMode
  h0 : Int
  stands : Vector StandTargets 6
  ramp : Nat
  tol : Int
  bin : Int
  mark : MarkMode
deriving DecidableEq, Repr

/-- R74, R84: a ramp base: the weld segment, the from-tag and the thirteen from-values. -/
structure RampBase where
  weld : SegNo
  fromTag : Nat
  h0 : Int
  h : Vector Int 6
  sset : Vector Int 6
deriving DecidableEq, Repr

/-- R74: an entry of the in-force table. -/
structure InForce where
  sched : Schedule
  isEntry : Bool
  refs : Nat
  base : Option RampBase
deriving DecidableEq, Repr

/-- R85: an ACTIVE transition record. Its slot is freed in the step that ends it, so the state holds ACTIVE ones only. -/
structure Transition where
  fromTag : Nat
  toTag : Nat
  weld : SegNo
  coil : CoilNo
  switched : Vector Bool 6
deriving DecidableEq, Repr

/-- R92: the event that a TRANSITION notice carries. -/
inductive TransitionEvent where
  | taken | completed | cancelled
deriving DecidableEq, Repr

/-- R92: the cause of a completion. -/
inductive CompletionCause where
  | exitGauge | forced
deriving DecidableEq, Repr

/-- R92: the cause of a WITHDRAWN entry. -/
inductive WithdrawCause where
  | request | configOpen | restart
deriving DecidableEq, Repr

/-- R82: the cause of a DEFERRED entry. -/
inductive DeferCause where
  | tableFull | transitionsBusy
deriving DecidableEq, Repr

/-- R77, R92: where a schedule is held: in force, or pending with its queue position (1 is the head). -/
inductive Place where
  | pending (position : Nat) | inForce
deriving DecidableEq, Repr

/-! ### Gap Computation Unit (chapter 5) -/

/-- R94: a stand parameter record. -/
structure StandParams where
  modulus : Int
  zeroForce : Int
  offset : Int
  gfb : Int
  gff : Int
  gm : Int
  trimLimit : Int
  stepLimit : Int
  deadband : Int
  moveBand : Int
  posTimeout : Nat
  bite : Int
  limitValue : Nat
  limitScale : Nat
  unload : Nat
  openGap : Int
deriving DecidableEq, Repr

/-- R97: the stand modes. `opened` is OPEN. -/
inductive StandMode where
  | off | position | hold | gauge | opened
deriving DecidableEq, Repr

/-- R100: the four hold causes. -/
inductive HoldCause where
  | gapLost | actuatorFaulted | actuatorUnlinked | positioningTimeout
deriving DecidableEq, Repr

/-- R97: the set of hold causes. -/
structure Holds where
  gapLost : Bool
  faulted : Bool
  unlinked : Bool
  posTimeout : Bool
deriving DecidableEq, Repr

/-- An unload timer (R97) or a break timer (R141). -/
inductive Timer where
  | stopped | running (start : Micros) | expired
deriving DecidableEq, Repr

/-- R116: the evaluation counters. -/
structure EvalCounters where
  sent : Nat
  clamped : Nat
  limited : Nat
  guarded : Nat
  blocked : Nat
  suppressed : Nat
deriving DecidableEq, Repr

/-- R94, R97: a stand parameter record with the state of its controller. -/
structure StandCtl where
  params : Option StandParams
  mode : StandMode
  holds : Holds
  lastSent : Option Int
  trim : Int
  bite : Option SegNo
  sum : Int
  count : Nat
  unload : Timer
  counters : EvalCounters
deriving DecidableEq, Repr

/-! ### Actuator Link Unit (chapter 6) -/

/-- R120: the actuator states. `opened` is OPEN. -/
inductive ActMode where
  | unlinked | idle | following | moving | opening | opened | faulted
deriving DecidableEq, Repr

/-- R118, R120: an actuator. The timers hold their start while running. `lastSent` is the time of the last command sent,
absent until the first keep-alive command after power-on (R119). `rx` is the bytes its receiver is still collecting. -/
structure Actuator where
  mode : ActMode
  target : Option Int
  posTimer : Option Micros
  demand : Bool
  openTimer : Option Micros
  readyFlag : Option Bool
  faultCode : Option Byte
  unanswered : Nat
  replyTimer : Option Micros
  lastSent : Option Micros
  commandsSent : Nat
  statuses : Nat
  badFrames : Nat
  silences : Nat
  rx : List Byte
deriving DecidableEq, Repr

/-- A command put on an actuator link, with the bytes of its frame. -/
structure Sent where
  stand : Stand
  command : Command
  frame : List Byte
deriving DecidableEq, Repr

/-! ### Protection Unit (chapter 7) -/

/-- Section 7.5: the trip states. -/
inductive TripState where
  | normal | opening | safe | hardStop
deriving DecidableEq, Repr

/-- R133: the enable flag and severity of a kind; the fixed flag is part of the device. -/
structure Policy where
  enabled : Bool
  tripping : Bool
deriving DecidableEq, Repr

/-- R134: an entry of the fault table. Locations are numbered as in section 11.1; `active` is in increasing order. -/
structure FaultEntry where
  latched : Bool
  active : List Nat
  count : Nat
  first : Option (Nat × Millis)
  last : Option Nat
deriving DecidableEq, Repr

/-- R150: the first-out record. -/
structure FirstOut where
  kind : Kind
  location : Nat
  time : Millis
  mode : Mode
  subsequent : Nat
deriving DecidableEq, Repr

/-- R138: the class of a take. -/
inductive TakeClass where
  | none | firstOut | subsequent
deriving DecidableEq, Repr

/-! ### Quality Unit (chapter 8) -/

/-- R164: the state of a coil report. -/
inductive ReportState where
  | opened | complete | stopped | tripped
deriving DecidableEq, Repr

/-- R164: a coil report. -/
structure CoilReport where
  coil : CoilNo
  tag : Nat
  created : Nat
  bins : Vector Nat 16
  unmeasured : Nat
  forced : Nat
  discarded : Nat
  offCount : Nat
  offLength : Int
  maxDev : Int
  firstOff : Option SegNo
  manualMarked : Nat
  tripMarked : Nat
  state : ReportState
deriving DecidableEq, Repr

/-- R156: the off-gauge run state. -/
structure RunState where
  coil : CoilNo
  first : SegNo
  last : SegNo
  count : Nat
  maxDev : Int
  mark : MarkMode
  raised : Bool
deriving DecidableEq, Repr

/-! ### Log Unit (chapter 9) -/

/-- R172: the content of a log entry. -/
inductive LogContent where
  | fault (kind : Kind) (location count : Nat) (enabled tripping : Bool) (mode : Mode) (trip : TripState) (cls : TakeClass)
  | tripState (trip : TripState) (kind : Kind) (location : Nat) (subsequent : Option Nat)
  | offGauge (coil : CoilNo) (first last : SegNo) (count : Nat) (maxDev : Int)
  | manual (coil : CoilNo) (first last : SegNo) (count : Nat)
  | coil (report : CoilReport)
  | loaded (tag : Nat) (take : TakeMode) (place : Place)
  | withdrawn (tag : Nat) (cause : WithdrawCause) (place : Place)
  | taken (fromTag toTag : Nat) (weld : SegNo) (coil : CoilNo)
  | deferred (tag : Nat) (weld : SegNo) (coil : CoilNo) (cause : DeferCause)
  | standSwitched (toTag : Nat) (stand : Stand) (weld : SegNo) (coil : CoilNo)
  | completed (t : Transition) (cause : CompletionCause)
  | cancelled (t : Transition)
  | note (text : List Byte)
deriving DecidableEq, Repr

/-- R171: a log entry. -/
structure LogEntry where
  seq : BitVec 32
  time : Millis
  content : LogContent
deriving DecidableEq, Repr

/-- R170: one of logs 1 to 5, oldest entry first, with its sequence counter. -/
structure Log where
  entries : List LogEntry
  next : BitVec 32
deriving DecidableEq, Repr

/-! ### Supervisor Port (chapter 10) -/

/-- A good frame in the receive queue (R180). -/
structure Frame where
  typ : Byte
  num : Byte
  payload : List Byte
deriving DecidableEq, Repr

/-- Section 10.2.1: the reply codes. -/
inductive ReplyCode where
  | ok | malformed | unknownType | badValue | mode | notReady | tagInUse | queueFull | noSuchTag | inForce | notTracked
  | readOnly | policyFixed | latched | tripActive
deriving DecidableEq, Repr

/-- R182: a reply: its type, the request number it echoes, its code and the fields after the code. -/
structure Reply where
  typ : Byte
  num : Byte
  code : ReplyCode
  fields : List Byte
deriving DecidableEq, Repr

/-- Section 10.3: the six kinds of notice, with the fields of section 11.3.6. -/
inductive Notice where
  | modeChanged (prev : Option Mode) (new : Mode) (cause : ModeCause)
  | trip (event : TripState) (kind : Kind) (location : Nat) (mode : Mode)
  | fault (kind : Kind) (location count : Nat) (tripping : Bool) (mode : Mode) (trip : TripState) (cls : TakeClass)
  | transition (event : TransitionEvent) (t : Transition) (cause : Option CompletionCause)
  | coilReport (report : CoilReport)
  | linkState (link : LinkNo) (prev new : LinkMode) (cause : LinkCause) (good crcErrors gaps : Nat)
deriving DecidableEq, Repr

/-- R185: the waiting reply, with the number of queued notices that stand ahead of it. -/
structure Waiting where
  reply : Reply
  ahead : Nat
deriving DecidableEq, Repr

/-- R185: the frame being sent: whether it is a reply, and its bytes on the line. -/
structure Sending where
  isReply : Bool
  bytes : List Byte
deriving DecidableEq, Repr

/-- R186: the port's seven counters. -/
structure PortCounters where
  good : Nat
  crcErrors : Nat
  lengthErrors : Nat
  overflow : Nat
  replies : Nat
  notices : Nat
  lost : Nat
deriving DecidableEq, Repr

/-- Chapter 10: the Supervisor Port. `rx` is the bytes the receiver is still collecting. -/
structure Port where
  rx : List Byte
  queue : List Frame
  waiting : Option Waiting
  notices : List Notice
  sending : Option Sending
  counters : PortCounters
deriving DecidableEq, Repr

/-! ### The whole part -/

/-- The state of the part, and the queue of commands that are waiting. The model's own fields are `pending`, `msPhase`,
`heldFrom`, `sent` and `freeIndex` (see INVENTORY.md). -/
structure State where
  mode : Mode
  committed : Bool
  time : Micros
  logTime : Millis
  /-- Microseconds since `logTime` last rose, 0 to 999 (DESIGN CHOICE, notes/assumptions/19). -/
  msPhase : Nat
  externalStop : Bool
  millStop : Bool
  standTrip : Vector Bool 6
  hardStop : Bool
  links : Vector Link 8
  channels : Vector Channel 32
  line : LineParams
  ring : List Segment
  points : Vector Point 9
  coilCounter : CoilNo
  speeds : Vector (Option Int) 6
  queue : List Schedule
  table : List InForce
  transitions : List Transition
  stands : Vector StandCtl 6
  /-- For each stand, the mode from which a report of its actuator has taken it to HOLD in the present microsecond: a sample of
  the same moment may be taken in that mode (R124, R131; DESIGN CHOICE, notes/assumptions/33). -/
  heldFrom : Vector (Option StandMode) 6
  actuators : Vector Actuator 6
  policy : Vector Policy 22
  faults : Vector FaultEntry 22
  breakTimers : Vector Timer 5
  firstOut : Option FirstOut
  trip : TripState
  opened : Vector Bool 6
  reports : List CoilReport
  runState : Option RunState
  logs : Vector Log 5
  port : Port
  /-- The commands put on the actuator links in the last step, in order: the links' outputs. -/
  sent : List Sent
  /-- The next free value that a step may use (Config.directoryNextSequence). -/
  freeIndex : Nat
  /-- The commands that are waiting, first in, first out. -/
  pending : List Instr
deriving DecidableEq, Repr

/-! ### Values after reset -/

/-- R18: a sensor link at power-on. -/
def Link.initial : Link :=
  { mode := .down, timer := none, training := 0, crcRun := 0, seqRef := none, good := 0, crcErrors := 0, gaps := 0, rx := [] }

/-- R31: an UNBOUND channel entry. -/
def Channel.unbound : Channel :=
  { config := none, state := .unbound, held := none, rejects := 0, consecutive := 0, strip := none, lengthRef := none }

/-- R70: the line parameters' defaults. -/
def LineParams.initial : LineParams :=
  { segLen := 500000, linkTimeout := 2000, openTimeout := 800, breakThreshold := 500, breakConfirm := 5,
    breakMinSpeed := 1000, runLength := 20 }

/-- R48: an unstarted point. Its cursor segment and travelled length have no meaning; 0 stands there (DESIGN CHOICE,
notes/assumptions/22). -/
def Point.unstarted : Point :=
  { started := false, cursor := 0, travelled := 0, advanced := none, sum := 0, count := 0, early := false, clamped := false }

/-- R97: the empty set of hold causes. -/
def Holds.empty : Holds := { gapLost := false, faulted := false, unlinked := false, posTimeout := false }

/-- R116: the counters at 0. -/
def EvalCounters.zero : EvalCounters :=
  { sent := 0, clamped := 0, limited := 0, guarded := 0, blocked := 0, suppressed := 0 }

/-- R94, R97: a stand at power-on. -/
def StandCtl.initial : StandCtl :=
  { params := none, mode := .off, holds := .empty, lastSent := none, trim := 0, bite := none, sum := 0, count := 0,
    unload := .stopped, counters := .zero }

/-- R118, R120: an actuator at power-on. -/
def Actuator.initial : Actuator :=
  { mode := .unlinked, target := none, posTimer := none, demand := false, openTimer := none, readyFlag := none,
    faultCode := none, unanswered := 0, replyTimer := none, lastSent := none, commandsSent := 0, statuses := 0,
    badFrames := 0, silences := 0, rx := [] }

/-- R133: the policy table at power-on: every kind enabled, with the default severity of R132 (tripping for
kinds 0, 1, 2, 3, 14, 15 and 16). -/
def Policy.initial : Vector Policy 22 :=
  #v[⟨true, true⟩, ⟨true, true⟩, ⟨true, true⟩, ⟨true, true⟩, ⟨true, false⟩, ⟨true, false⟩, ⟨true, false⟩, ⟨true, false⟩,
    ⟨true, false⟩, ⟨true, false⟩, ⟨true, false⟩, ⟨true, false⟩, ⟨true, false⟩, ⟨true, false⟩, ⟨true, true⟩, ⟨true, true⟩,
    ⟨true, true⟩, ⟨true, false⟩, ⟨true, false⟩, ⟨true, false⟩, ⟨true, false⟩, ⟨true, false⟩]

/-- R134: a fault entry at power-on. -/
def FaultEntry.initial : FaultEntry := { latched := false, active := [], count := 0, first := none, last := none }

/-- R170: an empty log. -/
def Log.empty : Log := { entries := [], next := 0 }

/-- R186: the port's counters at 0. -/
def PortCounters.zero : PortCounters :=
  { good := 0, crcErrors := 0, lengthErrors := 0, overflow := 0, replies := 0, notices := 0, lost := 0 }

/-- R2: the port at power-on, holding the one MODE_CHANGED notice queued once the part has been initialised. -/
def Port.initial : Port :=
  { rx := [], queue := [], waiting := none, notices := [.modeChanged none .config .powerOn], sending := none,
    counters := .zero }

/-- R2: the whole part right after reset, the POWER_ON notice queued. The values that no rule gives are those of
notes/assumptions/28 (DESIGN CHOICE). -/
def State.reset : State :=
  { mode := .config
    committed := false
    time := 0
    logTime := 0
    msPhase := 0
    externalStop := false
    millStop := true
    standTrip := Vector.replicate 6 true
    hardStop := false
    links := Vector.replicate 8 .initial
    channels := Vector.replicate 32 .unbound
    line := .initial
    ring := []
    points := Vector.replicate 9 .unstarted
    coilCounter := 0
    speeds := Vector.replicate 6 none
    queue := []
    table := []
    transitions := []
    stands := Vector.replicate 6 .initial
    heldFrom := Vector.replicate 6 none
    actuators := Vector.replicate 6 .initial
    policy := Policy.initial
    faults := Vector.replicate 22 .initial
    breakTimers := Vector.replicate 5 .stopped
    firstOut := none
    trip := .normal
    opened := Vector.replicate 6 false
    reports := []
    runState := none
    logs := Vector.replicate 5 .empty
    port := .initial
    sent := []
    freeIndex := 0
    pending := [] }

end Sys2Proof.Machine
end

