-- ==== Sys2Proof/Machine/Ops.lean ====
section
/-! DEFINITION. The named operations over the state that every block uses: reading and writing one row, time and ages (R5),
the numbers of the enumerations (section 11.1), the notice queue (R183, R184), the logs (R171), the active sets of the
fault table (R134, R135), and the mode with its stop outputs (R1, R3). -/

namespace Sys2Proof.Machine

/-! ### Fault kinds by name (R132) -/

abbrev Kind.externalStop : Kind := 0
abbrev Kind.stripBreak : Kind := 1
abbrev Kind.standUnloaded : Kind := 2
abbrev Kind.forceLimit : Kind := 3
abbrev Kind.forceNearLimit : Kind := 4
abbrev Kind.gapFeedbackLost : Kind := 5
abbrev Kind.forceFeedbackLost : Kind := 6
abbrev Kind.speedFeedbackLost : Kind := 7
abbrev Kind.tensionFeedbackLost : Kind := 8
abbrev Kind.entryGaugeLost : Kind := 9
abbrev Kind.stand1GaugeLost : Kind := 10
abbrev Kind.exitGaugeLost : Kind := 11
abbrev Kind.sensorLinkDown : Kind := 12
abbrev Kind.positioningTimeout : Kind := 13
abbrev Kind.actuatorFault : Kind := 14
abbrev Kind.actuatorSilent : Kind := 15
abbrev Kind.openTimeout : Kind := 16
abbrev Kind.trackOverrun : Kind := 17
abbrev Kind.trackFull : Kind := 18
abbrev Kind.changeDeferred : Kind := 19
abbrev Kind.weldRejected : Kind := 20
abbrev Kind.offGaugeRun : Kind := 21

/-- R133: the fixed flag, part of the device: set for kinds 0, 3 and 16. -/
def fixedKind (k : Kind) : Bool := k == Kind.externalStop || k == Kind.forceLimit || k == Kind.openTimeout

/-- The location number of stand k: 1 to 6. -/
def standLoc (k : Stand) : Nat := k.val + 1

/-- The location number of interstand j: 1 to 5. -/
def interstandLoc (j : Interstand) : Nat := j.val + 1

/-- Logs by name: index 0 to 4 for logs 1 to 5. -/
abbrev LogNo.fault : LogNo := 0
abbrev LogNo.defect : LogNo := 1
abbrev LogNo.coil : LogNo := 2
abbrev LogNo.schedule : LogNo := 3
abbrev LogNo.note : LogNo := 4

/-! ### One row of a table -/

def State.setLink (s : State) (l : LinkNo) (x : Link) : State := { s with links := s.links.set l x }

def State.setChannel (s : State) (e : EntryNo) (x : Channel) : State := { s with channels := s.channels.set e x }

def State.setPoint (s : State) (p : PointNo) (x : Point) : State := { s with points := s.points.set p x }

def State.setSpeed (s : State) (k : Stand) (x : Option Int) : State := { s with speeds := s.speeds.set k x }

def State.setStand (s : State) (k : Stand) (x : StandCtl) : State := { s with stands := s.stands.set k x }

def State.setHeldFrom (s : State) (k : Stand) (x : Option StandMode) : State := { s with heldFrom := s.heldFrom.set k x }

def State.setActuator (s : State) (k : Stand) (x : Actuator) : State := { s with actuators := s.actuators.set k x }

def State.setFault (s : State) (k : Kind) (x : FaultEntry) : State := { s with faults := s.faults.set k x }

def State.setBreak (s : State) (j : Interstand) (x : Timer) : State := { s with breakTimers := s.breakTimers.set j x }

def State.setLog (s : State) (g : LogNo) (x : Log) : State := { s with logs := s.logs.set g x }

/-- Do `f` for each stand in increasing order. -/
def forStands (f : Stand → State → State) (s : State) : State := (List.finRange 6).foldl (fun s k => f k s) s

/-! ### Time (R5) -/

/-- R5: the age of a stored time, modulo 2^32, in µs. -/
def State.age (s : State) (start : Micros) : Nat := (s.time - start).toNat

/-- R5: a running timer has reached its limit (in µs). -/
def State.due (s : State) (start : Option Micros) (limit : Nat) : Bool :=
  match start with
  | some t => limit ≤ s.age t
  | none => false

/-! ### Notices (R183, R184) -/

/-- A TRIP notice. -/
def isTripNotice : Notice → Bool
  | .trip _ _ _ _ => true
  | _ => false

/-- The queue without its newest notice that is not a TRIP notice, and the place that notice held; `none` when every notice
is a TRIP notice. -/
def removeNewestOther : List Notice → Option (Nat × List Notice)
  | [] => none
  | n :: rest =>
    match removeNewestOther rest with
    | some (i, r) => some (i + 1, n :: r)
    | none => if isTripNotice n then none else some (0, rest)

/-- R186: one more notice lost. -/
def Port.lose (p : Port) : Port :=
  { p with counters := { p.counters with lost := satAdd p.counters.lost 1 Config.top16 } }

/-- R183, R184: a notice joins the tail of the queue. At a full queue it is dropped, or, being a TRIP notice, displaces the
newest notice that is not one; a displaced notice that stood ahead of the waiting reply no longer does (R185). -/
def Port.queueNotice (p : Port) (n : Notice) : Port :=
  if p.notices.length < Config.noticeCapacity then { p with notices := p.notices ++ [n] }
  else if isTripNotice n then
    match removeNewestOther p.notices with
    | some (i, rest) =>
      { p.lose with
        notices := rest ++ [n]
        waiting := p.waiting.map fun w => if i < w.ahead then { w with ahead := w.ahead - 1 } else w }
    | none => p.lose
  else p.lose

/-- A block queues a notice. -/
def State.notify (s : State) (n : Notice) : State := { s with port := s.port.queueNotice n }

/-! ### Logs (R171) -/

/-- R171: an entry takes the sequence counter as its number and the newest place; at capacity the oldest entry leaves. -/
def Log.append (g : Log) (capacity : Nat) (t : Millis) (c : LogContent) : Log :=
  { entries := (if g.entries.length < capacity then g.entries else g.entries.drop 1) ++ [⟨g.next, t, c⟩]
    next := g.next + 1 }

/-- R171: append an entry to a log at the current log timestamp. -/
def State.append (s : State) (g : LogNo) (c : LogContent) : State :=
  s.setLog g (s.logs[g].append Config.logCapacity[g] s.logTime c)

/-! ### The active sets (R134, R135) -/

/-- Put a location into an active set, which is kept in increasing order. -/
def insertLoc (x : Nat) : List Nat → List Nat
  | [] => [x]
  | y :: ys => if x < y then x :: y :: ys else if x = y then y :: ys else y :: insertLoc x ys

/-- R135: a condition at one location has become inactive; the latch, count and first and last locations are kept. -/
def State.inactive (s : State) (k : Kind) (loc : Nat) : State :=
  s.setFault k { s.faults[k] with active := s.faults[k].active.filter (· ≠ loc) }

/-- R135: a condition at one location is true; taking it is the Protection Unit's (Machine/Protection.lean). -/
def State.markActive (s : State) (k : Kind) (loc : Nat) : State :=
  s.setFault k { s.faults[k] with active := insertLoc loc s.faults[k].active }

/-- Every location of a kind becomes inactive. -/
def State.allInactive (s : State) (k : Kind) : State := s.setFault k { s.faults[k] with active := [] }

/-- R133: an enabled tripping kind. -/
def State.trips (s : State) (k : Kind) : Bool := s.policy[k].enabled && s.policy[k].tripping

/-- The lowest-numbered enabled tripping kind that is latched (R7, R13, R154). -/
def State.latchedTripping (s : State) : Option Kind :=
  (List.finRange 22).find? fun k => s.trips k && s.faults[k].latched

/-! ### The mode (R1, R3) -/

/-- R3: MILL_STOP and STAND_TRIP[1..6] are asserted exactly in CONFIG and TRIPPED. -/
def stopsAsserted (m : Mode) : Bool := m == .config || m == .tripped

/-- R3: a mode with the stop outputs that go with it. -/
def State.setMode (s : State) (m : Mode) : State :=
  { s with mode := m, millStop := stopsAsserted m, standTrip := Vector.replicate 6 (stopsAsserted m) }

/-- R1: a change of mode and its MODE_CHANGED notice. -/
def State.changeMode (s : State) (m : Mode) (c : ModeCause) : State :=
  (s.setMode m).notify (.modeChanged (some s.mode) m c)

/-- R67: tracking is frozen while the trip state is not NORMAL. -/
def State.frozen (s : State) : Bool := s.trip != .normal

/-- THREAD or RUN. -/
def State.tracking (s : State) : Bool := s.mode == .thread || s.mode == .run

/-! ### Enumerations (section 11.1) -/

def Mode.num : Mode → Nat
  | .config => 0 | .ready => 1 | .thread => 2 | .run => 3 | .tripped => 4

def TripState.num : TripState → Nat
  | .normal => 0 | .opening => 1 | .safe => 2 | .hardStop => 3

def ModeCause.num : ModeCause → Nat
  | .powerOn => 0 | .commitConfig => 1 | .configOpen => 2 | .thread => 3 | .run => 4 | .stop => 5 | .trip => 6
  | .tripReset => 7 | .restart => 8

def StandMode.num : StandMode → Nat
  | .off => 0 | .position => 1 | .hold => 2 | .gauge => 3 | .opened => 4

def Holds.num (h : Holds) : Nat :=
  h.gapLost.toNat + 2 * h.faulted.toNat + 4 * h.unlinked.toNat + 8 * h.posTimeout.toNat

def Timer.num : Timer → Nat
  | .stopped => 0 | .running _ => 1 | .expired => 2

def ActMode.num : ActMode → Nat
  | .unlinked => 0 | .idle => 1 | .following => 2 | .moving => 3 | .opening => 4 | .opened => 5 | .faulted => 6

def LinkMode.num : LinkMode → Nat
  | .disabled => 0 | .down => 1 | .training => 2 | .up => 3

def LinkCause.num : LinkCause → Nat
  | .frameDetected => 0 | .trained => 1 | .autonomousRetrain => 2 | .requestedRetrain => 3 | .timeout => 4
  | .disabled => 5 | .enabled => 6

def ChannelState.num : ChannelState → Nat
  | .unbound => 0 | .noData => 1 | .valid => 2 | .stale => 3 | .invalid _ => 4

def InvalidCause.num : InvalidCause → Nat
  | .linkLost => 0 | .headFault => 1 | .range => 2 | .age => 3

/-- The invalid cause, present while INVALID. -/
def ChannelState.cause : ChannelState → Option InvalidCause
  | .invalid c => some c
  | _ => none

/-- INVALID, by whatever cause. -/
def ChannelState.isInvalid : ChannelState → Bool
  | .invalid _ => true
  | _ => false

/-- R98: VALID or STALE. -/
def ChannelState.isUsable : ChannelState → Bool
  | .valid => true
  | .stale => true
  | _ => false

def ReportState.num : ReportState → Nat
  | .opened => 0 | .complete => 1 | .stopped => 2 | .tripped => 3

def MarkMode.num : MarkMode → Nat
  | .logged => 1 | .quiet => 2

def TakeMode.num : TakeMode → Nat
  | .now => 0 | .atWeld => 1

def TakeClass.num : TakeClass → Nat
  | .none => 0 | .firstOut => 1 | .subsequent => 2

def TransitionEvent.num : TransitionEvent → Nat
  | .taken => 0 | .completed => 1 | .cancelled => 2

def CompletionCause.num : CompletionCause → Nat
  | .exitGauge => 0 | .forced => 1

def WithdrawCause.num : WithdrawCause → Nat
  | .request => 0 | .configOpen => 1 | .restart => 2

def DeferCause.num : DeferCause → Nat
  | .tableFull => 0 | .transitionsBusy => 1

/-- The role number of an item. -/
def Item.role : Item → Nat
  | .entryThick => 0 | .stand1Thick => 1 | .exitThick => 2 | .entryLength => 3 | .force _ => 4 | .gapPos _ => 5
  | .rollSpeed _ => 6 | .tension _ => 7

/-- The place of an item, absent for the roles that have none. -/
def Item.place : Item → Option Nat
  | .force k => some (standLoc k)
  | .gapPos k => some (standLoc k)
  | .rollSpeed k => some (standLoc k)
  | .tension j => some (interstandLoc j)
  | _ => none

/-- R32: the item of a role number and an optional place; `none` where the role is not one of the eight, or its place is
absent, out of range, or given to a role that has none. -/
def itemOf (role : Nat) (place : Option Nat) : Option Item :=
  let stand (f : Stand → Item) : Option Item :=
    match place with
    | some p => if h : 1 ≤ p ∧ p ≤ 6 then some (f ⟨p - 1, by omega⟩) else none
    | none => none
  match role, place with
  | 0, none => some .entryThick
  | 1, none => some .stand1Thick
  | 2, none => some .exitThick
  | 3, none => some .entryLength
  | 4, _ => stand .force
  | 5, _ => stand .gapPos
  | 6, _ => stand .rollSpeed
  | 7, some p => if h : 1 ≤ p ∧ p ≤ 5 then some (.tension ⟨p - 1, by omega⟩) else none
  | _, _ => none

end Sys2Proof.Machine
end

