-- ==== Sys2Proof/Machine/Flags.lean ====
section
/-! DEFINITION. What the blocks read of one another: the channel of a role and its usability (R98), the force levels (R96),
the conditions under which a stand qualifies for GAUGE (R98), a break timer is armed (R141) and X0 runs on its
substitute (R54), and the numbering of the tracking points. -/

namespace Sys2Proof.Machine

/-! ### Channels as readers see them -/

/-- The lowest-numbered entry that binds a role and place. In READY and later it is the only one (R7, R39). -/
def State.entryOf (s : State) (i : Item) : Option EntryNo :=
  (List.finRange 32).find? fun e => match s.channels[e].config with
    | some c => c.item == i
    | none => false

/-- Every entry that binds a role and place, in entry order. -/
def State.entriesOf (s : State) (i : Item) : List EntryNo :=
  (List.finRange 32).filter fun e => match s.channels[e].config with
    | some c => c.item == i
    | none => false

/-- The entries bound to a link, in entry order. -/
def State.boundTo (s : State) (l : LinkNo) : List EntryNo :=
  (List.finRange 32).filter fun e => match s.channels[e].config with
    | some c => c.link == l
    | none => false

/-- The entry bound to a link and slot (R32 keeps it the only one). -/
def State.entryAt (s : State) (l : LinkNo) (slot : Fin 4) : Option EntryNo :=
  (List.finRange 32).find? fun e => match s.channels[e].config with
    | some c => c.link == l && c.slot == slot
    | none => false

/-- The state of the channel of a role and place; UNBOUND where no entry binds it. -/
def State.channelState (s : State) (i : Item) : ChannelState :=
  match s.entryOf i with
  | some e => s.channels[e].state
  | none => .unbound

/-- R98: the channel of a role and place is VALID or STALE. -/
def State.usable (s : State) (i : Item) : Bool := (s.channelState i).isUsable

/-- R41: the held value of a channel whose value may enter a computation. -/
def State.heldOf (s : State) (i : Item) : Option Int :=
  match s.entryOf i with
  | some e => if s.channels[e].state.isUsable then s.channels[e].held.map (·.1) else none
  | none => none

/-- R54: X0 advances on the stand-1 substitute while ENTRY_LENGTH is INVALID or NO_DATA. -/
def State.substitute (s : State) : Bool :=
  let c := s.channelState .entryLength
  c.isInvalid || c == .noData

/-! ### Force levels (R96) -/

/-- R96: zero force + bite-on threshold. -/
def StandParams.loadedLevel (p : StandParams) : Int := p.zeroForce + p.bite

/-- R96: force limit value × 10,000, 1,000, 100 or 10 fu for scale 0 to 3. -/
def StandParams.forceLimit (p : StandParams) : Int := p.limitValue * 10 ^ (4 - p.limitScale)

/-- R96: round(force limit × 19 / 20). -/
def StandParams.nearLevel (p : StandParams) : Int := roundDiv (p.forceLimit * 19) 20

/-- R96: the strict comparison that makes a force sample loaded. -/
def StandParams.loaded (p : StandParams) (force : Int) : Bool := p.loadedLevel < force

/-- R7: a stand can be seen loaded before it nears its limit. -/
def StandParams.consistent (p : StandParams) : Bool := p.loadedLevel < p.forceLimit

/-! ### Stands -/

/-- R100: no hold cause. -/
def Holds.isEmpty (h : Holds) : Bool := !h.gapLost && !h.faulted && !h.unlinked && !h.posTimeout

/-- Add or remove one hold cause. -/
def Holds.put (h : Holds) (c : HoldCause) (b : Bool) : Holds :=
  match c with
  | .gapLost => { h with gapLost := b }
  | .actuatorFaulted => { h with faulted := b }
  | .actuatorUnlinked => { h with unlinked := b }
  | .positioningTimeout => { h with posTimeout := b }

/-- R98: the channels and the actuator of stand k are fit for GAUGE. -/
def State.gaugeFit (s : State) (k : Stand) : Bool :=
  s.usable (.force k) && s.usable (.gapPos k) &&
    (s.actuators[k].mode == .idle || s.actuators[k].mode == .following)

/-- R98: stand k qualifies for GAUGE. -/
def State.qualifies (s : State) (k : Stand) : Bool := s.mode == .run && s.gaugeFit k

/-- R141: the break timer of interstand j is armed. -/
def State.armed (s : State) (j : Interstand) : Bool :=
  s.mode == .run && s.usable (.tension j) &&
    (match s.heldOf (.rollSpeed 5) with
     | some v => decide ((s.line.breakMinSpeed : Int) ≤ v)
     | none => false)

/-! ### Points -/

/-- X0, X1 and X6 (section 11.1). -/
abbrev PointNo.x0 : PointNo := 0
abbrev PointNo.x1 : PointNo := 2
abbrev PointNo.x6 : PointNo := 8

/-- The bite point of a stand: B1 is point 1, B2 to B6 are points 3 to 7. -/
def bitePoint (k : Stand) : PointNo := if k = 0 then 1 else ⟨k.val + 2, by omega⟩

/-- The stand whose bite a point is. -/
def biteOf (p : PointNo) : Option Stand := (List.finRange 6).find? fun k => bitePoint k == p

/-- The stand whose speed and schedule values drive a point's advance (section 3.3): X0 and X1 go with stand 1, X6 with
stand 6. -/
def driverOf (p : PointNo) : Stand :=
  match biteOf p with
  | some k => k
  | none => if p = PointNo.x6 then 5 else 0

/-- The upstream neighbour of a point; X0 has none. -/
def upstream (p : PointNo) : Option PointNo := if p = 0 then none else some ⟨p.val - 1, by omega⟩

/-- The downstream neighbour of a point; X6 has none. -/
def downstream (p : PointNo) : Option PointNo := if h : p.val + 1 < 9 then some ⟨p.val + 1, h⟩ else none

/-! ### The ring -/

/-- The segment of a number, if it is in the ring. -/
def State.segment (s : State) (n : SegNo) : Option Segment := s.ring.find? (·.number == n)

/-- Rewrite the segment of a number. -/
def State.setSegment (s : State) (n : SegNo) (f : Segment → Segment) : State :=
  { s with ring := s.ring.map fun g => if g.number = n then f g else g }

/-- The oldest segment's number. -/
def State.oldest (s : State) : Option SegNo := s.ring.head?.map (·.number)

/-- The open segment (R45: the newest). -/
def State.openSegment (s : State) : Option Segment := s.ring.getLast?

end Sys2Proof.Machine
end

