-- ==== Sys2Proof/Machine/Stands.lean ====
section
/-! DEFINITION. Stand modes and hold causes (R97 to R102): what moves a stand controller from one mode to another. -/

namespace Sys2Proof.Machine

/-- R101, R144: the unload timer is stopped, and STAND_UNLOADED k is not true. -/
def stopUnload (k : Stand) (s : State) : State :=
  (s.setStand k { s.stands[k] with unload := .stopped }).inactive Kind.standUnloaded (standLoc k)

/-- R99: a stand goes to a mode with no hold cause and its unload timer stopped (OFF or OPEN). -/
def enterIdleMode (m : StandMode) (k : Stand) (s : State) : State :=
  stopUnload k (s.setStand k { s.stands[k] with mode := m, holds := .empty })

/-- R124, notes/assumptions/33: the mode that a stand keeps for a sample of the same moment when a cause takes it to HOLD: the
mode it leaves, where the cause is its actuator's report; none, where it is the loss of the gap position itself. -/
def HoldCause.reportedIn (m : StandMode) : HoldCause → Option StandMode
  | .gapLost => none
  | .actuatorFaulted => some m
  | .actuatorUnlinked => some m
  | .positioningTimeout => some m

/-- R100: a stand in POSITION or GAUGE goes to HOLD with the cause that has arisen. -/
def goesToHold (c : HoldCause) (k : Stand) (s : State) : State :=
  let st := s.stands[k]
  (s.setStand k { st with mode := .hold, holds := st.holds.put c true }).setHeldFrom k (c.reportedIn st.mode)

/-- R100: a hold cause arises. A stand in POSITION or GAUGE goes to HOLD; one in HOLD adds the cause (and, where it is the
loss of the gap position, takes no sample in its former mode any more); OFF and OPEN change nothing. -/
def causeArises (c : HoldCause) (k : Stand) (s : State) : State :=
  let st := s.stands[k]
  match st.mode with
  | .off => s
  | .opened => s
  | .position => goesToHold c k s
  | .gauge => goesToHold c k s
  | .hold =>
    (s.setStand k { st with holds := st.holds.put c true }).setHeldFrom k (if c = .gapLost then none else s.heldFrom[k])

/-- R124: the mode that stand k came from, where its actuator's report has taken it from GAUGE or POSITION to HOLD in this
microsecond and the sample is put before the report. -/
def earlierMode (k : Stand) (before : Bool) (s : State) : Option StandMode :=
  if before = true ∧ s.stands[k].mode = .hold then s.heldFrom[k].filter fun m => m == .gauge || m == .position else none

/-- R124, R131: a sample as stand k takes it with `f`. R120 tells the stand of its actuator's change at once; R124 has it
that a sample arriving together with the change may be taken before the change has reached the stand. Where `before` says
so, and the report has taken the stand to HOLD in this microsecond, the sample is taken in the mode the stand came from, and
the stand is in HOLD after it. DESIGN CHOICE, notes/assumptions/33. -/
def takeSample (k : Stand) (before : Bool) (f : State → State) (s : State) : State :=
  match earlierMode k before s with
  | some m =>
    let t := f ((s.setStand k { s.stands[k] with mode := m }).setHeldFrom k none)
    t.setStand k { t.stands[k] with mode := .hold }
  | none => f s

/-- R100: a hold cause is cleared; the stand stays in HOLD until a return point. -/
def causeClears (c : HoldCause) (k : Stand) (s : State) : State :=
  s.setStand k { s.stands[k] with holds := s.stands[k].holds.put c false }

/-- R102: what a return point makes of a stand's mode. -/
def returnMode (s : State) (k : Stand) : StandMode :=
  let st := s.stands[k]
  match s.mode, st.mode with
  | .run, .position => if st.holds.isEmpty && s.gaugeFit k then .gauge else .position
  | .run, .hold =>
    if st.holds.isEmpty && s.gaugeFit k then .gauge else if st.holds.isEmpty then .position else .hold
  | .thread, .hold => if st.holds.isEmpty then .position else .hold
  | _, m => m

/-- R102: a return point of stand k. -/
def returnPoint (k : Stand) (s : State) : State := s.setStand k { s.stands[k] with mode := returnMode s k }

/-- R101: FORCE[k] has become INVALID: a stand in GAUGE whose gap position is usable goes to POSITION, and the unload timer
is stopped. A stand in HOLD has taken its actuator's report by then (notes/assumptions/33). -/
def forceLost (k : Stand) (s : State) : State :=
  let st := s.stands[k]
  let s1 :=
    if st.mode = .gauge ∧ s.usable (.gapPos k) then s.setStand k { st with mode := .position }
    else if st.mode = .hold then s.setHeldFrom k none
    else s
  stopUnload k s1

/-- R113: the estimate accumulator is emptied. -/
def emptyEstimate (k : Stand) (s : State) : State := s.setStand k { s.stands[k] with sum := 0, count := 0 }

/-- R97, R60: the bite segment of stand k becomes the arriving segment, and its accumulator is emptied (R113). -/
def biteArrives (k : Stand) (n : SegNo) (s : State) : State :=
  s.setStand k { s.stands[k] with bite := some n, sum := 0, count := 0 }

/-- R68, R97: at a clearing of tracking the bite segment is absent and the accumulator empty. -/
def biteCleared (k : Stand) (s : State) : State :=
  s.setStand k { s.stands[k] with bite := none, sum := 0, count := 0 }

/-- R10, R99: at RUN a stand that qualifies for GAUGE and holds no hold cause goes to GAUGE. -/
def judgeAtRun (k : Stand) (s : State) : State :=
  let st := s.stands[k]
  if s.qualifies k ∧ st.holds.isEmpty then s.setStand k { st with mode := .gauge } else s

end Sys2Proof.Machine
end

