-- ==== Sys2Proof/Machine/Actuators.lean ====
section
/-! DEFINITION. The Actuator Link Unit's own steps (chapter 6): sending a command, changing an actuator's state with all that
depends on it, taking a GAP_SET or an OPEN, and judging a gap position. Conditions that become active are handed to the
Protection Unit by the callers in Machine/ActuatorLinks.lean. -/

namespace Sys2Proof.Machine

/-- Fault code FEh (section 11.1). -/
def codeNotReady : Byte := 0xFE

/-- Fault code FFh (section 11.1). -/
def codeUncommandedOpen : Byte := 0xFF

/-- R118: send a command: the unanswered count rises, the reply timer starts if the count was 0, and the pace of the
keep-alive commands restarts (R119). -/
def sendCommand (k : Stand) (c : Command) (s : State) : State :=
  let a := s.actuators[k]
  let s1 := s.setActuator k { a with
    unanswered := satAdd a.unanswered 1 Config.top16
    replyTimer := if a.unanswered = 0 then some s.time else a.replyTimer
    lastSent := some s.time
    commandsSent := satAdd a.commandsSent 1 Config.top16 }
  { s1 with sent := s1.sent ++ [⟨k, c, commandFrameBytes c⟩] }

/-- R118: a status that passes its check answers the oldest unanswered command. -/
def answerCommand (k : Stand) (s : State) : State :=
  let a := s.actuators[k]
  s.setActuator k { a with
    unanswered := a.unanswered - 1
    replyTimer := if 1 < a.unanswered then some s.time else none
    statuses := satAdd a.statuses 1 Config.top16 }

/-- R151: actuator k has reached OPEN. With the trip state OPENING and all six in the opened set the trip state becomes
SAFE. The set is empty, and no actuator reaches OPEN, while the trip state is NORMAL. -/
def reachedOpen (k : Stand) (s : State) : State :=
  let s1 := if s.trip = .normal then s else { s with opened := s.opened.set k true }
  if s1.trip = .opening ∧ s1.opened = Vector.replicate 6 true then
    match s1.firstOut with
    | some f =>
      ({ s1 with trip := .safe }.append LogNo.fault (.tripState .safe f.kind f.location (some f.subsequent))).notify
        (.trip .safe f.kind f.location f.mode)
    | none => { s1 with trip := .safe }
  else s1

/-- R120: change the state of actuator k, with all that goes with leaving and entering a state: the positioning timer runs in
MOVING alone; leaving UNLINKED ends ACTUATOR_SILENT k (R121), leaving FAULTED ends ACTUATOR_FAULT k (R123), leaving
FOLLOWING ends POSITIONING_TIMEOUT k (R126); entering OPEN stops the open timer, ends OPEN_TIMEOUT k and is told to the
Protection Unit (R128, R129, R151); the stand controller's hold causes follow at once (R100, R120), and a sample of the same
microsecond may still be taken in the mode the stand had before (R124; DESIGN CHOICE, notes/assumptions/33). -/
def setActMode (k : Stand) (m : ActMode) (s : State) : State :=
  let a := s.actuators[k]
  let old := a.mode
  if old = m then s
  else
    let s := s.setActuator k { a with
      mode := m
      posTimer := if old = .moving then none else a.posTimer
      openTimer := if m = .opened then none else a.openTimer }
    let s := if old = .unlinked then causeClears .actuatorUnlinked k (s.inactive Kind.actuatorSilent (standLoc k)) else s
    let s := if old = .faulted then causeClears .actuatorFaulted k (s.inactive Kind.actuatorFault (standLoc k)) else s
    let s := if old = .following then
        causeClears .positioningTimeout k (s.inactive Kind.positioningTimeout (standLoc k)) else s
    let s := if m = .unlinked then causeArises .actuatorUnlinked k s else s
    let s := if m = .faulted then causeArises .actuatorFaulted k s else s
    if m = .opened then reachedOpen k (s.inactive Kind.openTimeout (standLoc k)) else s

/-- R124: |reference − held GAP_POS[k] value| ≤ move band, with GAP_POS[k] usable. -/
def inBand (s : State) (k : Stand) (reference : Int) : Bool :=
  match s.heldOf (.gapPos k), s.stands[k].params with
  | some v, some p => decide (|reference - v| ≤ p.moveBand)
  | _, _ => false

/-- R124: a GAP_SET handed over by stand controller k. It is taken in the step that hands it over. The last row (not sent) is
met in UNLINKED and FAULTED by a sample that the stand takes before its actuator's report has reached it
(`takeSample`, notes/assumptions/33). -/
def takeGapSet (k : Stand) (reference : Int) (s : State) : State :=
  let a := s.actuators[k]
  let sendTo (s : State) : State :=
    sendCommand k (.gapSet reference) (s.setActuator k { s.actuators[k] with target := some reference })
  match a.mode with
  | .idle =>
    if inBand s k reference then setActMode k .following (sendTo s)
    else
      let s := setActMode k .moving (sendTo s)
      s.setActuator k { s.actuators[k] with posTimer := some s.time }
  | .following =>
    if inBand s k reference then sendTo s
    else
      let s := setActMode k .moving (sendTo s)
      s.setActuator k { s.actuators[k] with posTimer := some s.time }
  | .moving => sendTo s
  | .unlinked => s
  | .opening => s
  | .opened => s
  | .faulted => s

/-- R127: OPEN handed to actuator k. -/
def handOpen (k : Stand) (s : State) : State :=
  let a := s.actuators[k]
  let s := s.setActuator k { a with
    demand := true
    posTimer := none
    openTimer := if a.mode = .opening ∨ a.mode = .opened then a.openTimer else some s.time }
  let s := causeClears .positioningTimeout k (s.inactive Kind.positioningTimeout (standLoc k))
  let s := sendCommand k .openGap s
  if a.mode = .idle ∨ a.mode = .following ∨ a.mode = .moving then setActMode k .opening s else s

/-- R125, R128: an accepted GAP_POS[k] sample as the Actuator Link Unit judges it. -/
def judgeGapSample (k : Stand) (v : Int) (s : State) : State :=
  let a := s.actuators[k]
  match s.stands[k].params with
  | none => s
  | some p =>
    let within : Bool := match a.target with
      | some t => decide (|v - t| ≤ p.moveBand)
      | none => false
    match a.mode with
    | .moving => if within then setActMode k .following s else s
    | .following =>
      if within ∧ standLoc k ∈ s.faults[Kind.positioningTimeout].active then
        causeClears .positioningTimeout k (s.inactive Kind.positioningTimeout (standLoc k))
      else s
    | .opening => if p.openGap - p.moveBand ≤ v then setActMode k .opened s else s
    | .unlinked => s
    | .idle => s
    | .opened => s
    | .faulted => s

/-- R11 step 7, R14 step 3, R130: STOP and warm restart: MOVING and FOLLOWING to IDLE; no open demand remains (R127). -/
def actuatorAtStop (k : Stand) (s : State) : State :=
  let s := if s.actuators[k].mode = .moving ∨ s.actuators[k].mode = .following then setActMode k .idle s else s
  s.setActuator k { s.actuators[k] with demand := false, posTimer := none, openTimer := none }

/-- R13, R130: TRIP_RESET: OPEN, OPENING and FOLLOWING to IDLE, the open demand cleared, the open timer stopped and
OPEN_TIMEOUT k inactive. -/
def actuatorAtTripReset (k : Stand) (s : State) : State :=
  let m := s.actuators[k].mode
  let s := if m = .opened ∨ m = .opening ∨ m = .following then setActMode k .idle s else s
  (s.setActuator k { s.actuators[k] with demand := false, posTimer := none, openTimer := none }).inactive
    Kind.openTimeout (standLoc k)

end Sys2Proof.Machine
end

