-- ==== Sys2Proof/Machine/Protection.lean ====
section
/-! DEFINITION. The Protection Unit (chapter 7): taking a fault (R136, R137), the trip start (R149), HARD_STOP (R152), the
conditions that depend on the mode (R16), and the conditions it judges itself (R140, R142, R143). -/

namespace Sys2Proof.Machine

/-- R160: the run in progress ends: its defect entry if LOGGED, its condition inactive if raised, and no run. -/
def endRun (s : State) : State :=
  match s.runState with
  | none => s
  | some r =>
    let s := match r.mark with
      | .logged => s.append LogNo.defect (.offGauge r.coil r.first r.last r.count r.maxDev)
      | .quiet => s
    let s := if r.raised then s.inactive Kind.offGaugeRun r.coil.toNat else s
    { s with runState := none }

/-! ### The trip start -/

/-- R16, R143: the conditions that exist only in RUN are removed and the break timers stopped. -/
def leaveRun (s : State) : State :=
  ({ s with breakTimers := Vector.replicate 5 .stopped }.allInactive Kind.stripBreak).allInactive Kind.standUnloaded

/-- R149: the trip start, whole, in the order the rule gives. -/
def tripStart (k : Kind) (loc : Nat) (s : State) : State :=
  let m := s.mode
  let s := { s with firstOut := some ⟨k, loc, s.logTime, m, 0⟩ }
  let s := { s with trip := .opening, opened := Vector.replicate 6 false }
  let s := s.append LogNo.fault (.tripState .opening k loc none)
  let s := s.notify (.trip .opening k loc m)
  let s := s.changeMode .tripped .trip
  let s := forStands (enterIdleMode .opened) s
  let s := forStands handOpen s
  let s := { s with ring := s.ring.map fun g => { g with tripMark := true } }
  let s := endRun s
  leaveRun s

/-- R152: OPENING becomes HARD_STOP, which asserts HARD_STOP. -/
def enterHardStop (s : State) : State :=
  let s := { s with trip := .hardStop, hardStop := true }
  match s.firstOut with
  | some f =>
    (s.append LogNo.fault (.tripState .hardStop f.kind f.location (some f.subsequent))).notify
      (.trip .hardStop f.kind f.location f.mode)
  | none => s

/-! ### Taking a fault -/

/-- R136 step 5: a take of an enabled tripping kind starts the trip in READY, THREAD or RUN with the trip state NORMAL. -/
def startsTrip (s : State) (k : Kind) : Bool :=
  s.trips k && s.trip == .normal && (s.mode == .ready || s.mode == .thread || s.mode == .run)

/-- R153: a take of an enabled tripping kind while the trip state is not NORMAL is a subsequent fault. -/
def isSubsequent (s : State) (k : Kind) : Bool := s.trips k && s.trip != .normal

/-- R138: the class of a take. -/
def takeClass (s : State) (k : Kind) : TakeClass :=
  if startsTrip s k then .firstOut else if isSubsequent s k then .subsequent else .none

/-- R136 steps 1 and 2: the fault entry after a take. -/
def FaultEntry.taken (e : FaultEntry) (loc : Nat) (t : Millis) : FaultEntry :=
  { e with
    latched := true
    count := satAdd e.count 1 255
    first := if e.latched then e.first else some (loc, t)
    last := some loc }

/-- R153: one more subsequent fault in the first-out record. -/
def bumpSubsequent (s : State) : State :=
  { s with firstOut := s.firstOut.map fun f => { f with subsequent := satAdd f.subsequent 1 255 } }

/-- R136: a take of kind k at a location. -/
def take (k : Kind) (loc : Nat) (s : State) : State :=
  let pol := s.policy[k]
  let cls := takeClass s k
  let entry := s.faults[k].taken loc s.logTime
  let s1 := s.setFault k entry
  let s2 := s1.append LogNo.fault (.fault k loc entry.count pol.enabled pol.tripping s.mode s.trip cls)
  let s3 := if pol.enabled then s2.notify (.fault k loc entry.count pol.tripping s.mode s.trip cls) else s2
  let s4 := match cls with
    | .firstOut => tripStart k loc s3
    | .subsequent => bumpSubsequent s3
    | .none => s3
  if k = Kind.openTimeout ∧ s.trip = .opening then enterHardStop s4 else s4

/-- R135, R137: mark the conditions of one event that are not yet in their active sets, and answer them. -/
def markFresh : List (Kind × Nat) → State → List (Kind × Nat) × State
  | [], s => ([], s)
  | (k, loc) :: rest, s =>
    if loc ∈ s.faults[k].active then markFresh rest s
    else
      let r := markFresh rest (s.markActive k loc)
      ((k, loc) :: r.1, r.2)

/-- R137: the conditions of one event, given in increasing kind and location order: those that were not active join their
active sets together and are taken one after another (DEDUCED, notes/assumptions/10). -/
def raiseAll (cs : List (Kind × Nat)) (s : State) : State :=
  let r := markFresh cs s
  r.1.foldl (fun s c => take c.1 c.2 s) r.2

/-- One condition becomes active. -/
def raise (k : Kind) (loc : Nat) (s : State) : State := raiseAll [(k, loc)] s

/-- R135: a momentary condition is taken and leaves the active set in the same step. -/
def raiseMomentary (k : Kind) (s : State) : State := (raise k 0 s).inactive k 0

/-! ### Conditions that depend on the mode (R16, R43) -/

/-- R43: the 26 channels that own a loss condition, in increasing kind and location order. -/
def lossItems : List Item :=
  (List.finRange 6).map .gapPos ++ ((List.finRange 6).map .force ++ ((List.finRange 6).map .rollSpeed ++
    ((List.finRange 5).map .tension ++ [.entryThick, .stand1Thick, .exitThick])))

/-- R43: the fault kind and location of an item's loss condition; ENTRY_LENGTH has none. -/
def lossOf : Item → Option (Kind × Nat)
  | .gapPos k => some (Kind.gapFeedbackLost, standLoc k)
  | .force k => some (Kind.forceFeedbackLost, standLoc k)
  | .rollSpeed k => some (Kind.speedFeedbackLost, standLoc k)
  | .tension j => some (Kind.tensionFeedbackLost, interstandLoc j)
  | .entryThick => some (Kind.entryGaugeLost, 0)
  | .stand1Thick => some (Kind.stand1GaugeLost, 0)
  | .exitThick => some (Kind.exitGaugeLost, 0)
  | .entryLength => none

/-- R43: the loss conditions that are true now: the channel is INVALID and the mode is not CONFIG. -/
def State.lossConditions (s : State) : List (Kind × Nat) :=
  if s.mode = .config then []
  else (lossItems.filter fun i => (s.channelState i).isInvalid).filterMap lossOf

/-- R103, R16: the STAND_UNLOADED conditions that are true now: the timer is EXPIRED and the mode is RUN. -/
def State.unloadedConditions (s : State) : List (Kind × Nat) :=
  if s.mode = .run then
    ((List.finRange 6).filter fun k => s.stands[k].unload == .expired).map fun k => (Kind.standUnloaded, standLoc k)
  else []

/-- R43: in CONFIG no loss condition is active. -/
def lossesInactive (s : State) : State :=
  [Kind.gapFeedbackLost, Kind.forceFeedbackLost, Kind.speedFeedbackLost, Kind.tensionFeedbackLost, Kind.entryGaugeLost,
    Kind.stand1GaugeLost, Kind.exitGaugeLost].foldl (fun s k => s.allInactive k) s

/-- R16: the conditions that depend on the mode, evaluated afresh at the end of a step that changed it. -/
def modeConditions (s : State) : State :=
  let s := if s.mode = .run then s else leaveRun s
  let s := if s.mode = .config then lossesInactive s else s
  raiseAll (s.unloadedConditions ++ s.lossConditions) s

/-! ### Conditions judged from samples -/

/-- R140: FORCE_LIMIT k and FORCE_NEAR_LIMIT k become inactive. -/
def forceConditionsEnd (k : Stand) (s : State) : State :=
  (s.inactive Kind.forceLimit (standLoc k)).inactive Kind.forceNearLimit (standLoc k)

/-- R140: an accepted FORCE[k] sample as the Protection Unit judges it, in every mode. -/
def judgeForceLimits (k : Stand) (f : Int) (s : State) : State :=
  match s.stands[k].params with
  | none => s
  | some p =>
    let s := if f < p.forceLimit then s.inactive Kind.forceLimit (standLoc k) else s
    let s := if f < p.nearLevel then s.inactive Kind.forceNearLimit (standLoc k) else s
    raiseAll ((if p.forceLimit ≤ f then [(Kind.forceLimit, standLoc k)] else []) ++
      (if p.nearLevel ≤ f then [(Kind.forceNearLimit, standLoc k)] else [])) s

/-- R142: the break timer of interstand j after an accepted TENSION[j] sample. -/
def breakNext (below armed : Bool) (now : Micros) : Timer → Timer
  | .stopped => if below && armed then .running now else .stopped
  | .running t => if below && armed then .running t else .stopped
  | .expired => if below then .expired else .stopped

/-- R142: an accepted TENSION[j] sample as the Protection Unit judges it. -/
def judgeTension (j : Interstand) (v : Int) (s : State) : State :=
  let below : Bool := decide (v < (s.line.breakThreshold : Int))
  let t := breakNext below (s.armed j) s.time s.breakTimers[j]
  let s := s.setBreak j t
  if below then s else s.inactive Kind.stripBreak (interstandLoc j)

/-- R143: a RUNNING break timer is stopped; an EXPIRED one stays. -/
def breakStopped : Timer → Timer
  | .running _ => .stopped
  | .stopped => .stopped
  | .expired => .expired

/-- R143: every RUNNING break timer is stopped. -/
def stopRunningBreaks (s : State) : State :=
  (List.finRange 5).foldl (fun s j => s.setBreak j (breakStopped s.breakTimers[j])) s

/-- R143: an accepted ROLL_SPEED[6] sample as the Protection Unit judges it. -/
def judgeExitSpeed (v : Int) (s : State) : State :=
  if v < (s.line.breakMinSpeed : Int) then stopRunningBreaks s else s

/-- R143: TENSION[j] has become INVALID. -/
def tensionLost (j : Interstand) (s : State) : State :=
  (s.setBreak j .stopped).inactive Kind.stripBreak (interstandLoc j)

end Sys2Proof.Machine
end

