-- ==== Sys2Proof/Machine/Schedules.lean ====
section
/-! DEFINITION. The Schedule Unit (chapter 4): the tags in use, effective values and ramps (R86), references and removal
(R80, R81), taking at a weld (R82 to R84), and the progress and end of transitions (R88 to R91). -/

namespace Sys2Proof.Machine

/-! ### Where schedules are held -/

/-- R74: the tag-use set: the tags held by the queue or the table. -/
def State.tagInUse (s : State) (t : Nat) : Bool := s.queue.any (·.tag == t) || s.table.any (·.sched.tag == t)

/-- R76: the lowest-numbered tag not in use. -/
def State.freeTag (s : State) : Option Nat := (List.range 32).find? fun t => !s.tagInUse t

/-- The in-force entry of a tag. -/
def State.inForce (s : State) (t : Nat) : Option InForce := s.table.find? (·.sched.tag == t)

/-- R15: the entry schedule's table entry. -/
def State.entrySchedule (s : State) : Option InForce := s.table.find? (·.isEntry)

/-- The in-force entries in tag order (R74). -/
def State.tableByTag (s : State) : List InForce :=
  (List.range 32).flatMap fun t => s.table.filter (·.sched.tag == t)

/-! ### Effective values (R86) -/

/-- R86: the ramp index of segment n under an in-force entry; n − w is reckoned modulo 2^32 (DESIGN CHOICE,
notes/assumptions/23). -/
def InForce.rampIndex (e : InForce) (n : SegNo) : Option Nat :=
  match e.base with
  | some b => if (n - b.weld).toNat < e.sched.ramp then some (n - b.weld).toNat else none
  | none => none

/-- R86: one ramped quantity at ramp index i of a ramp of length W. -/
def ramped (fromV toV : Int) (i w : Nat) : Int := fromV + roundDiv ((toV - fromV) * (i + 1)) (w + 1)

/-- R86: the effective value of a quantity, given its from-value in a ramp base and its record value. -/
def InForce.effective (e : InForce) (n : SegNo) (fromV : RampBase → Int) (toV : Int) : Int :=
  match e.base, e.rampIndex n with
  | some b, some i => ramped (fromV b) toV i e.sched.ramp
  | _, _ => toV

/-- The effective entry target of segment n. -/
def InForce.effH0 (e : InForce) (n : SegNo) : Int := e.effective n (·.h0) e.sched.h0

/-- The effective exit target of stand k for segment n. -/
def InForce.effH (e : InForce) (n : SegNo) (k : Stand) : Int := e.effective n (fun b => b.h[k]) e.sched.stands[k].h

/-- The effective setup gap of stand k for segment n. -/
def InForce.effS (e : InForce) (n : SegNo) (k : Stand) : Int :=
  e.effective n (fun b => b.sset[k]) e.sched.stands[k].sset

/-- The effective target of the strip before stand k: h_(k−1), with h_0 = H0. -/
def InForce.effBefore (e : InForce) (n : SegNo) (k : Stand) : Int :=
  if h : k.val = 0 then e.effH0 n else e.effH n ⟨k.val - 1, by omega⟩

/-- The in-force entry of the schedule that a segment in the ring carries. -/
def State.scheduleOf (s : State) (n : SegNo) : Option InForce :=
  match s.segment n with
  | some g => s.inForce g.tag
  | none => none

/-- R15: the governing schedule of stand k: that of the segment in its bite, otherwise the entry schedule. -/
def State.governing (s : State) (k : Stand) : Option InForce :=
  match s.stands[k].bite with
  | some n => s.scheduleOf n
  | none => s.entrySchedule

/-! ### References and removal -/

/-- R81: entries with no references and no entry flag leave the table. -/
def removeUnreferenced (s : State) : State :=
  { s with table := s.table.filter fun e => e.isEntry || decide (0 < e.refs) }

/-- Rewrite the table entry of a tag. -/
def modifyEntry (t : Nat) (f : InForce → InForce) (s : State) : State :=
  { s with table := s.table.map fun e => if e.sched.tag = t then f e else e }

/-- R80: a segment that carries a tag is opened. -/
def addRef (t : Nat) (s : State) : State := modifyEntry t (fun e => { e with refs := e.refs + 1 }) s

/-- R80, R81: a segment that carries a tag is released, or given another tag. -/
def dropRef (t : Nat) (s : State) : State :=
  removeUnreferenced (modifyEntry t (fun e => { e with refs := e.refs - 1 }) s)

/-! ### Transitions -/

/-- R88: the bite arrival of stand k at an ACTIVE weld segment. -/
def switchStand (k : Stand) (n : SegNo) (s : State) : State :=
  match s.transitions.find? (·.weld == n) with
  | some t =>
    if t.switched[k] then s
    else
      let s := { s with transitions := s.transitions.map fun (u : Transition) =>
        if u.weld = n then { u with switched := u.switched.set k true } else u }
      s.append LogNo.schedule (.standSwitched t.toTag k n t.coil)
  | none => s

/-- R89, R90: the transition of a weld segment, if ACTIVE, is completed and its slot freed. -/
def completeTransition (n : SegNo) (c : CompletionCause) (s : State) : State :=
  match s.transitions.find? (·.weld == n) with
  | some t =>
    let s := s.append LogNo.schedule (.completed t c)
    let s := s.notify (.transition .completed t (some c))
    { s with transitions := s.transitions.filter (·.weld ≠ n) }
  | none => s

/-- R60: the arrival of a point at a segment, as the Schedule Unit takes it: the segment's weld flag must be set. -/
def scheduleArrival (p : PointNo) (n : SegNo) (s : State) : State :=
  match s.segment n with
  | some g =>
    if g.weld then
      match biteOf p with
      | some k => switchStand k n s
      | none => if p = PointNo.x6 then completeTransition n .exitGauge s else s
    else s
  | none => s

/-- Insert a transition before the first of a later weld segment. -/
def insertByWeld (t : Transition) : List Transition → List Transition
  | [] => [t]
  | u :: us => if t.weld.toNat ≤ u.weld.toNat then t :: u :: us else u :: insertByWeld t us

/-- The ACTIVE transitions in increasing order of their weld segment number (R91). -/
def byWeld (ts : List Transition) : List Transition := ts.foldr insertByWeld []

/-- R91 step 1: one transition is cancelled. -/
def cancelTransition (t : Transition) (s : State) : State :=
  (s.append LogNo.schedule (.cancelled t)).notify (.transition .cancelled t none)

/-- R91 step 1: every ACTIVE transition is cancelled, in weld order, and its slot freed. -/
def cancelTransitions (s : State) : State :=
  let s := (byWeld s.transitions).foldl (fun s t => cancelTransition t s) s
  { s with transitions := [] }

/-- R91 steps 2 and 3: the table is reduced to the entry schedule, whose ramp base is discarded. -/
def reduceTable (s : State) : State :=
  { s with table := (s.table.filter (·.isEntry)).map fun e => { e with base := none } }

/-! ### Taking at a weld -/

/-- R84: the from-values: the effective values of segment w − 1 under the schedule it carries, or of segment w itself where
that segment is not in the ring. -/
def fromValues (s : State) (w : SegNo) : Option (InForce × SegNo) :=
  match s.scheduleOf (w - 1) with
  | some e => some (e, w - 1)
  | none => (s.scheduleOf w).map fun e => (e, w)

/-- R84: a ramp base with the from-values of segment n under an in-force entry. -/
def rampBaseFrom (e : InForce) (n w : SegNo) (fromTag : Nat) : RampBase :=
  { weld := w, fromTag := fromTag, h0 := e.effH0 n,
    h := #v[e.effH n 0, e.effH n 1, e.effH n 2, e.effH n 3, e.effH n 4, e.effH n 5],
    sset := #v[e.effS n 0, e.effS n 1, e.effS n 2, e.effS n 3, e.effS n 4, e.effS n 5] }

/-- R83 steps 1 to 5: the head schedule is taken at the open segment. -/
def takeSchedule (head : Schedule) (rest : List Schedule) (g : Segment) (coil : CoilNo) (s : State) : State :=
  let base := (fromValues s g.number).map fun f => rampBaseFrom f.1 f.2 g.number g.tag
  let new : InForce := { sched := head, isEntry := true, refs := 0, base := base }
  let s := { s with queue := rest, table := s.table.map (fun (e : InForce) => { e with isEntry := false }) ++ [new] }
  let s := s.setSegment g.number fun (x : Segment) => { x with tag := head.tag, ramp := new.rampIndex g.number }
  let s := addRef head.tag s
  let s := dropRef g.tag s
  let t : Transition :=
    { fromTag := g.tag, toTag := head.tag, weld := g.number, coil := coil, switched := Vector.replicate 6 false }
  let s := { s with transitions := s.transitions ++ [t] }
  let s := s.append LogNo.schedule (.taken g.tag head.tag g.number coil)
  s.notify (.transition .taken t none)

/-- R82: the Schedule Unit is asked to take the next schedule at the open segment. -/
def askSchedule (g : Segment) (coil : CoilNo) (s : State) : State :=
  match s.queue with
  | [] => s
  | head :: rest =>
    if Config.tableCapacity ≤ s.table.length then
      raiseMomentary Kind.changeDeferred (s.append LogNo.schedule (.deferred head.tag g.number coil .tableFull))
    else if Config.transitionCapacity ≤ s.transitions.length then
      raiseMomentary Kind.changeDeferred (s.append LogNo.schedule (.deferred head.tag g.number coil .transitionsBusy))
    else takeSchedule head rest g coil s

end Sys2Proof.Machine
end

