-- ==== Sys2Proof/Machine/Quality.lean ====
section
/-! DEFINITION. The Quality Unit (chapter 8): classification at the exit gauge (R157, R158), off-gauge runs (R159, R160),
coil reports and their accounting (R164 to R168), and the release of a segment (R59). -/

namespace Sys2Proof.Machine

/-- R165: a new report, all counts 0. -/
def CoilReport.fresh (coil : CoilNo) (tag created : Nat) : CoilReport :=
  { coil := coil, tag := tag, created := created, bins := Vector.replicate 16 0, unmeasured := 0, forced := 0,
    discarded := 0, offCount := 0, offLength := 0, maxDev := 0, firstOff := none, manualMarked := 0, tripMarked := 0,
    state := .opened }

/-- R164: the sum of the bins, unmeasured, forced and discarded. -/
def CoilReport.accounted (r : CoilReport) : Nat := r.bins.toList.sum + r.unmeasured + r.forced + r.discarded

/-- The open report of a coil. -/
def State.report (s : State) (c : CoilNo) : Option CoilReport := s.reports.find? (·.coil == c)

/-- Rewrite the open report of a coil. -/
def modifyReport (c : CoilNo) (f : CoilReport → CoilReport) (s : State) : State :=
  { s with reports := s.reports.map fun r => if r.coil = c then f r else r }

/-- R157: the deviation and bin of a measured segment. -/
structure Verdict where
  deviation : Int
  bin : Fin 16
  off : Bool
deriving DecidableEq, Repr

/-- R157: the bin of a deviation with bin width w: clamp(floor(d / w) + 8, 0, 15). -/
def binOf (d w : Int) : Fin 16 := ⟨(clampInt (floorDiv d w + 8) 0 15).toNat, by unfold clampInt; omega⟩

/-- R157, R158: the verdict on a segment with X6 mean m, effective exit target, tolerance and bin width. -/
def verdict (m target tol w : Int) : Verdict :=
  { deviation := m - target, bin := binOf (m - target) w, off := decide (tol < |m - target|) }

/-! ### Closing (R168) -/

/-- R168: a report closes: its length worked out, out of the open set, into the coil log, and on to the supervisor. -/
def closeReport (c : CoilNo) (st : ReportState) (s : State) : State :=
  match s.report c with
  | some r =>
    let r := { r with offLength := roundDiv (r.offCount * s.line.segLen) 1000, state := st }
    let s := { s with reports := s.reports.filter (·.coil ≠ c) }
    let s := s.append LogNo.coil (.coil r)
    s.notify (.coilReport r)
  | none => s

/-- R167: the report of a coil is complete: everything accounted, and the coil no longer the newest. -/
def completes (s : State) (c : CoilNo) : Bool :=
  match s.report c with
  | some r => r.accounted == r.created && s.coilCounter != c
  | none => false

/-- R160: the run in progress, if it is of this coil, ends. -/
def endRunOf (c : CoilNo) (s : State) : State :=
  match s.runState with
  | some r => if r.coil = c then endRun s else s
  | none => s

/-- R167: judge a report for completion; a run of its coil ends first. -/
def judgeCompletion (c : CoilNo) (s : State) : State :=
  if completes s c then closeReport c .complete (endRunOf c s) else s

/-! ### Classification (R157 to R159) -/

/-- R159: the run after an off-gauge segment. -/
def runAfter (r : Option RunState) (coil : CoilNo) (n : SegNo) (dev : Int) (mark : MarkMode) : RunState :=
  match r with
  | none => { coil := coil, first := n, last := n, count := 1, maxDev := |dev|, mark := mark, raised := false }
  | some r => { r with last := n, count := satAdd r.count 1 Config.top16, maxDev := max r.maxDev |dev| }

/-- R159: an off-gauge classification begins or joins a run, and raises OFF_GAUGE_RUN at its N-th segment. -/
def joinRun (coil : CoilNo) (n : SegNo) (dev : Int) (mark : MarkMode) (s : State) : State :=
  let r := runAfter s.runState coil n dev mark
  if 1 ≤ s.line.runLength ∧ s.line.runLength ≤ r.count ∧ ¬ r.raised then
    raise Kind.offGaugeRun r.coil.toNat { s with runState := some { r with raised := true } }
  else { s with runState := some r }

/-- R157, R158: the verdict on a segment handed over at X6; `none` is unmeasured. -/
def classify (g : Segment) (s : State) : Option Verdict :=
  match g.x6, s.inForce g.tag with
  | some m, some e => some (verdict m.1 (e.effH g.number 5) e.sched.tol e.sched.bin)
  | _, _ => none

/-- R158 to R160: what a classification does to the segment's mark and to the run. -/
def applyVerdict (g : Segment) (v : Option Verdict) (s : State) : State :=
  match v, s.inForce g.tag with
  | some v, some e =>
    if v.off then
      joinRun g.coil g.number v.deviation e.sched.mark
        (s.setSegment g.number fun (x : Segment) => { x with offGauge := some e.sched.mark })
    else endRun s
  | _, _ => endRun s

/-! ### Accounting (R166) -/

/-- R166: the report of a released segment's coil after it is accounted. -/
def CoilReport.account (r : CoilReport) (g : Segment) (c : ReleaseCause) (v : Option Verdict) : CoilReport :=
  let r := match c with
    | .passed =>
      (match v with
       | some v =>
         { r with
           bins := r.bins.set v.bin (r.bins[v.bin] + 1)
           offCount := if v.off then r.offCount + 1 else r.offCount
           firstOff := if v.off && r.firstOff.isNone then some g.number else r.firstOff
           maxDev := max r.maxDev |v.deviation| }
       | none => { r with unmeasured := r.unmeasured + 1 })
    | .forced => { r with forced := r.forced + 1 }
    | .discardedStop => { r with discarded := r.discarded + 1 }
    | .discardedTrip => { r with discarded := r.discarded + 1 }
  { r with
    manualMarked := if g.manual then r.manualMarked + 1 else r.manualMarked
    tripMarked := if g.tripMark then r.tripMarked + 1 else r.tripMarked }

/-- A release by a clearing of tracking. -/
def ReleaseCause.clears : ReleaseCause → Bool
  | .passed => false
  | .forced => false
  | .discardedStop => true
  | .discardedTrip => true

/-- R59, R160, R166, R80, R90: the oldest segment is released: a run of its coil ends first unless it passed; it is accounted
in its coil's report, which is then judged for completion except in a clearing; and the Schedule Unit drops its reference
and deals with a force-released weld segment. -/
def releaseSegment (g : Segment) (c : ReleaseCause) (v : Option Verdict) (s : State) : State :=
  let s := { s with ring := s.ring.drop 1 }
  let s := if c = .passed then s else endRunOf g.coil s
  let s := modifyReport g.coil (fun r => r.account g c v) s
  let s := if c.clears then s else judgeCompletion g.coil s
  let s := dropRef g.tag s
  if c = .forced then completeTransition g.number .forced s else s

/-- R159, R68: release every segment of the ring, oldest first. -/
def releaseAll (c : ReleaseCause) (s : State) : State := s.ring.foldl (fun s g => releaseSegment g c none s) s

/-- R11 step 2, R168: every open report, oldest coil first, is closed. -/
def closeAllReports (st : ReportState) (s : State) : State :=
  s.reports.foldl (fun s r => closeReport r.coil st s) s

end Sys2Proof.Machine
end

