-- ==== Sys2Proof/Machine/Gap.lean ====
section
/-! DEFINITION. The Gap Computation Unit (chapter 5): the load judgement (R103), gaugemeter thickness (R104), the gauge and
position evaluations (R105 to R112), stand estimates (R113) and monitor trims (R114). -/

namespace Sys2Proof.Machine

/-! ### The formulas -/

/-- R106: Kq = round(256 × (M + Q) / M). -/
def factorKq (m q : Int) : Int := roundDiv (256 * (m + q)) m

/-- R106: Qf = round(256 × Q / M). -/
def factorQf (m q : Int) : Int := roundDiv (256 * q) m

/-- R104: stretch = round((F − F0) × 1000 / M). -/
def stretch (p : StandParams) (f : Int) : Int := roundDiv ((f - p.zeroForce) * 1000) p.modulus

/-- R104: h_gm = clamp(S + stretch + C, 0, 100,000). -/
def gaugemeter (p : StandParams) (f gap : Int) : Int := clampInt (gap + stretch p f + p.offset) 0 100000

/-- R106: the feedback term. -/
def feedback (p : StandParams) (q err : Int) : Int := -roundDiv (p.gfb * err * factorKq p.modulus q) 65536

/-- R107: the feedforward term. -/
def feedforward (p : StandParams) (q dev : Int) : Int := -roundDiv (p.gff * dev * factorQf p.modulus q) 65536

/-- R107: the mean of a stand's entry in the stand estimate list. -/
def estimateMean (g : Segment) (k : Nat) : Option Int :=
  match g.estimates.find? (·.stand.val == k) with
  | some e => e.mean
  | none => none

/-- R107: the incoming thickness of stand k, the first source present. -/
def incoming (g : Segment) (k : Stand) : Option Int :=
  match k.val with
  | 0 => g.entry.map (·.1)
  | 1 => (match g.x1 with
    | some m => some m.1
    | none => estimateMean g 0)
  | j + 1 => estimateMean g j

/-- What steps 8 to 11 of an evaluation make of a raw reference: the counters they raise, and the reference handed over. -/
structure Evaluation where
  clamped : Bool
  limited : Bool
  guarded : Bool
  blocked : Bool
  send : Option Int
deriving DecidableEq, Repr

/-- R110: the change from the last sent reference limited to the step limit. -/
def stepLimited (p : StandParams) (last : Option Int) (x : Int) : Int :=
  match last with
  | some l => clampInt x (l - p.stepLimit) (l + p.stepLimit)
  | none => x

/-- R111: near the force limit the gap may open but not close. -/
def forceGuarded (p : StandParams) (last : Option Int) (force : Option Int) (x : Int) : Int :=
  match last, force with
  | some l, some f => if p.nearLevel ≤ f ∧ x < l then l else x
  | _, _ => x

/-- R112: whether a result differs from the last sent reference by at least the deadband and at least 1 gu. -/
def isSent (p : StandParams) (last : Option Int) (x : Int) : Bool :=
  match last with
  | some l => decide (p.deadband ≤ |x - l| ∧ 1 ≤ |x - l|)
  | none => true

/-- R109 to R112: steps 8 to 11. -/
def guards (p : StandParams) (last : Option Int) (smin smax : Int) (force : Option Int) (raw : Int) : Evaluation :=
  let c := clampInt raw smin smax
  let l := stepLimited p last c
  let g := forceGuarded p last force l
  let blocked := decide (l < smin ∨ smax < l)
  { clamped := c != raw
    limited := l != c
    guarded := !blocked && g != l
    blocked := blocked
    send := if blocked then none else if isSent p last g then some g else none }

/-- R116: raise a counter when its step acted. -/
def count16 (n : Nat) (b : Bool) : Nat := if b then satAdd n 1 Config.top16 else n

/-- R116: the counters after an evaluation. -/
def EvalCounters.after (c : EvalCounters) (e : Evaluation) : EvalCounters :=
  { sent := count16 c.sent e.send.isSome
    clamped := count16 c.clamped e.clamped
    limited := count16 c.limited e.limited
    guarded := count16 c.guarded e.guarded
    blocked := count16 c.blocked e.blocked
    suppressed := count16 c.suppressed (!e.blocked && e.send.isNone) }

/-- R109 to R112: finish an evaluation: the counters, and the hand-over of a reference that is sent, which the
actuator takes in the same step (R124, R131; notes/assumptions/33). -/
def finishEvaluation (k : Stand) (p : StandParams) (t : StandTargets) (force : Option Int) (raw : Int) (s : State) :
    State :=
  let st := s.stands[k]
  let e := guards p st.lastSent t.smin t.smax force raw
  let s := s.setStand k { st with
    counters := st.counters.after e
    lastSent := match e.send with
      | some r => some r
      | none => st.lastSent }
  match e.send with
  | some r => takeGapSet k r s
  | none => s

/-! ### FORCE samples -/

/-- R103: the unload timer after a force sample. -/
def unloadNext (loaded : Bool) (now : Micros) : Timer → Timer
  | .stopped => if loaded then .stopped else .running now
  | .running t => if loaded then .stopped else .running t
  | .expired => if loaded then .stopped else .expired

/-- R103: a stand in POSITION, HOLD or GAUGE, in THREAD or RUN, judges force samples. -/
def judgesLoad (s : State) (k : Stand) : Bool :=
  s.tracking && (match s.stands[k].mode with
    | .position => true
    | .hold => true
    | .gauge => true
    | .off => false
    | .opened => false)

/-- R103: the load judgement. -/
def loadJudgement (k : Stand) (loaded : Bool) (s : State) : State :=
  let s1 := s.setStand k { s.stands[k] with unload := unloadNext loaded s.time s.stands[k].unload }
  if loaded then s1.inactive Kind.standUnloaded (standLoc k) else s1

/-- R104: a gaugemeter thickness is added to the estimate accumulator. -/
def accumulate (k : Stand) (h : Int) (s : State) : State :=
  let st := s.stands[k]
  if st.bite.isSome ∧ ¬ s.frozen then s.setStand k { st with sum := st.sum + h, count := st.count + 1 } else s

/-- R105: the gauge evaluation of stand k at a force sample, with the gaugemeter thickness where the sample is loaded. -/
def gaugeEvaluation (k : Stand) (p : StandParams) (f : Int) (hgm : Option Int) (s : State) : State :=
  match s.stands[k].bite with
  | none => s
  | some n =>
    match s.segment n, s.scheduleOf n with
    | some g, some e =>
      let t := e.sched.stands[k]
      let fb := match hgm with
        | some h => feedback p t.q (h - e.effH n k)
        | none => 0
      let ff := match hgm, incoming g k with
        | some _, some hin => feedforward p t.q (hin - e.effBefore n k)
        | _, _ => 0
      finishEvaluation k p t (some f) (e.effS n k + s.stands[k].trim + fb + ff) s
    | _, _ => s

/-- R103 to R112: an accepted FORCE[k] sample as the Gap Computation Unit takes it. -/
def gapForceSample (k : Stand) (f : Int) (s : State) : State :=
  match s.stands[k].params with
  | none => s
  | some p =>
    if judgesLoad s k then
      let loaded := p.loaded f
      let s := loadJudgement k loaded s
      let hgm : Option Int := if loaded then (s.heldOf (.gapPos k)).map (gaugemeter p f) else none
      let s := match hgm with
        | some h => accumulate k h s
        | none => s
      if s.stands[k].mode = .gauge then gaugeEvaluation k p f hgm s else s
    else s

/-! ### GAP_POS samples -/

/-- R108: the position evaluation of stand k. The force guard uses the most recent accepted FORCE[k] sample while FORCE[k] is
usable (R111). -/
def positionEvaluation (k : Stand) (s : State) : State :=
  match s.stands[k].params, s.governing k with
  | some p, some e =>
    let base := match s.stands[k].bite with
      | some n => e.effS n k
      | none => e.sched.stands[k].sset
    finishEvaluation k p e.sched.stands[k] (s.heldOf (.force k)) (base + s.stands[k].trim) s
  | _, _ => s

/-- R102, R108: an accepted GAP_POS[k] sample as the Gap Computation Unit takes it. A stand that returns at this sample makes
no reference at it. -/
def gapPosSample (k : Stand) (s : State) : State :=
  let s1 := if s.tracking ∧ s.stands[k].mode = .position then positionEvaluation k s else s
  if s1.tracking ∧ s1.stands[k].bite.isNone then returnPoint k s1 else s1

/-! ### THREAD -/

/-- R99, R109: the first reference at THREAD: the setup gap of the entry schedule, clamped, sent without the step limit and
without the deadband. The stand goes from OFF to POSITION with its trim 0. -/
def threadStand (e : InForce) (k : Stand) (s : State) : State :=
  let st := s.stands[k]
  let t := e.sched.stands[k]
  let r := clampInt t.sset t.smin t.smax
  let s := s.setStand k { st with
    mode := .position
    holds := .empty
    trim := 0
    lastSent := some r
    counters := { st.counters with
      sent := count16 st.counters.sent true
      clamped := count16 st.counters.clamped (r != t.sset) } }
  takeGapSet k r s

/-- R99: at the end of the THREAD step a stand whose GAP_POS[k] is not usable takes hold cause GAP_LOST. -/
def threadHold (k : Stand) (s : State) : State := if s.usable (.gapPos k) then s else causeArises .gapLost k s

/-! ### Passages -/

/-- R113: the stand estimate entry for the segment at the bite. -/
def estimateOf (k : Stand) (st : StandCtl) : Estimate :=
  { stand := k, mean := if st.count = 0 then none else some (roundDiv st.sum st.count), count := st.count }

/-- R114: the monitor trim after a passage at the gauge after stand k. -/
def trimNext (p : StandParams) (trim q err : Int) : Int :=
  clampInt (trim - roundDiv (p.gm * err * factorKq p.modulus q) 65536) (-p.trimLimit) p.trimLimit

/-- R114: the monitor trim update of stand 1 at X1, of stand 6 at X6. -/
def monitorTrim (k : Stand) (g : Segment) (mean : Option (Int × Nat)) (s : State) : State :=
  let st := s.stands[k]
  match st.mode, mean, g.ramp, st.params, s.inForce g.tag with
  | .gauge, some m, none, some p, some e =>
    s.setStand k { st with trim := trimNext p st.trim e.sched.stands[k].q (m.1 - e.effH g.number k) }
  | _, _, _, _, _ => s

end Sys2Proof.Machine
end

