-- ==== Sys2Proof/Machine/Tracking.lean ====
section
/-! DEFINITION. The Tracking Unit (chapter 3): arrivals and starts (R49, R50, R60), passages (R55 to R59), the order clamp
(R61), forced release (R62, R63), the advances (R52 to R54), welds (R64, R65) and the clearing of tracking (R68). -/

namespace Sys2Proof.Machine

/-- R55: the travelled length at which a segment passes, L × 1024. -/
def State.full (s : State) : Nat := s.line.segLen * 1024

/-- A gauge or entry mean closed: mean and count, or absent with count 0 (R57, R59). -/
def closedMean (sum : Int) (count : Nat) : Option (Int × Nat) :=
  if count = 0 then none else some (roundDiv sum count, count)

/-! ### Arrivals and starts -/

/-- R60: a point arrives at a segment. -/
def arrive (p : PointNo) (n : SegNo) (s : State) : State :=
  let s := match biteOf p with
    | some k => biteArrives k n s
    | none => s
  scheduleArrival p n s

/-- R50: the upstream neighbour has started: the early start flag of a point is cleared with its condition. -/
def clearEarly (p : PointNo) (s : State) : State :=
  if s.points[p].early then
    (s.setPoint p { s.points[p] with early := false }).inactive Kind.trackOverrun p.val
  else s

/-- R49: a point starts on the oldest segment in the ring. -/
def startPoint (p : PointNo) (t : Micros) (s : State) : State :=
  match s.oldest with
  | none => s
  | some n =>
    let s := s.setPoint p { s.points[p] with
      started := true, cursor := n, travelled := 0, advanced := some t, sum := 0, count := 0 }
    let s := match downstream p with
      | some q => clearEarly q s
      | none => s
    let s := arrive p n s
    match biteOf p with
    | some k => returnPoint k s
    | none => s

/-- R50: the first starting event that finds the upstream neighbour unstarted. -/
def earlyStart (p : PointNo) (s : State) : State :=
  if s.points[p].early then s
  else raise Kind.trackOverrun p.val (s.setPoint p { s.points[p] with early := true })

/-- R49, R50: a starting event for B_k, X1 or X6 at time t. -/
def startingEvent (p : PointNo) (t : Micros) (s : State) : State :=
  if s.tracking ∧ ¬ s.frozen ∧ ¬ s.points[p].started then
    match upstream p with
    | some u => if s.points[u].started then startPoint p t s else earlyStart p s
    | none => s
  else s

/-! ### Forced release and opening -/

/-- R62 step 1: a point whose cursor is on the oldest segment moves to the next newer one. -/
def moveOff (n : SegNo) (p : PointNo) (s : State) : State :=
  let pt := s.points[p]
  if pt.started ∧ pt.cursor = n then
    let s := s.setPoint p { pt with cursor := n + 1, travelled := 0, sum := 0, count := 0, clamped := false }
    let s := if pt.clamped then s.inactive Kind.trackOverrun p.val else s
    arrive p (n + 1) s
  else s

/-- R62, R63: the oldest segment is force-released and TRACK_FULL raised. Several points on it move and arrive in point order
(DESIGN CHOICE, notes/assumptions/34). -/
def forceRelease (s : State) : State :=
  match s.ring with
  | [] => s
  | g :: _ =>
    let s := (List.finRange 9).foldl (fun s p => moveOff g.number p s) s
    raise Kind.trackFull 0 (releaseSegment g .forced none s)

/-- R47: the record of a segment opened under the entry schedule. -/
def newSegment (e : InForce) (n : SegNo) (coil : CoilNo) : Segment :=
  { number := n, coil := coil, tag := e.sched.tag, weld := false, entry := none, estimates := [], x1 := none, x6 := none,
    ramp := e.rampIndex n, offGauge := none, manual := false, tripMark := false }

/-- R47, R80, R165: segment n joins the ring: it carries the entry schedule's tag and the coil counter's number. -/
def addSegment (n : SegNo) (s : State) : State :=
  match s.entrySchedule with
  | none => s
  | some e =>
    let s := { s with ring := s.ring ++ [newSegment e n s.coilCounter] }
    let s := addRef e.sched.tag s
    modifyReport s.coilCounter (fun r => { r with created := r.created + 1 }) s

/-- R47: segment n is opened; at a full ring the oldest is force-released first. -/
def openNext (n : SegNo) (s : State) : State :=
  addSegment n (if Config.ringCapacity ≤ s.ring.length then forceRelease s else s)

/-! ### Passages -/

/-- R57: the passage of the open segment n at X0. -/
def passX0 (n : SegNo) (s : State) : State :=
  let pt := s.points[PointNo.x0]
  openNext (n + 1) (s.setSegment n fun (g : Segment) => { g with entry := closedMean pt.sum pt.count })

/-- R58, R113, R102: the passage of segment n at B_k: its stand estimate, then a return point. -/
def passBite (k : Stand) (n : SegNo) (s : State) : State :=
  let est := estimateOf k s.stands[k]
  let s := s.setSegment n fun (g : Segment) => { g with estimates := g.estimates ++ [est] }
  returnPoint k (emptyEstimate k s)

/-- R59, R114: the passage of segment n at X1. -/
def passX1 (n : SegNo) (s : State) : State :=
  let pt := s.points[PointNo.x1]
  let m := closedMean pt.sum pt.count
  let s := s.setSegment n fun (g : Segment) => { g with x1 := m }
  match s.segment n with
  | some g => monitorTrim 0 g m s
  | none => s

/-- R59, section 8.2: the passage of segment n at X6: its measurement closed, the trim of stand 6, classification, and the
release PASSED, at which TRACK_FULL becomes inactive (R63). -/
def passX6 (n : SegNo) (s : State) : State :=
  let pt := s.points[PointNo.x6]
  let m := closedMean pt.sum pt.count
  let s := s.setSegment n fun (g : Segment) => { g with x6 := m }
  match s.segment n with
  | none => s
  | some g =>
    let s := monitorTrim 5 g m s
    let v := classify g s
    let s := applyVerdict g v s
    match s.segment n with
    | none => s
    | some g => (releaseSegment g .passed v s).inactive Kind.trackFull 0

/-- R57 to R59: the passage actions of a point. -/
def passageActions (p : PointNo) (n : SegNo) (s : State) : State :=
  match biteOf p with
  | some k => passBite k n s
  | none => if p = PointNo.x0 then passX0 n s else if p = PointNo.x1 then passX1 n s else passX6 n s

/-- R61: the upstream neighbour has passed segment n and moved on: a point clamped on it is free. -/
def unclamp (p : PointNo) (n : SegNo) (s : State) : State :=
  let pt := s.points[p]
  if pt.started ∧ pt.clamped ∧ pt.cursor = n then
    (s.setPoint p { pt with clamped := false }).inactive Kind.trackOverrun p.val
  else s

/-- R55: one passage at a point: the passage actions, the cursor onto the next newer segment with the excess, arrival. -/
def passage (p : PointNo) (s : State) : State :=
  let pt := s.points[p]
  let n := pt.cursor
  let excess := pt.travelled - s.full
  let s := passageActions p n s
  let s := s.setPoint p { s.points[p] with cursor := n + 1, travelled := excess, sum := 0, count := 0 }
  let s := match downstream p with
    | some q => unclamp q n s
    | none => s
  arrive p (n + 1) s

/-- R61: the point is on the same segment as its upstream neighbour. -/
def blocked (p : PointNo) (s : State) : Bool :=
  match upstream p with
  | some u => s.points[u].started && s.points[u].cursor == s.points[p].cursor
  | none => false

/-- R61: the order clamp holds a point at L × 1024 − 1 and discards the rest of the advance. -/
def clampPoint (p : PointNo) (s : State) : State :=
  let pt := s.points[p]
  let s1 := s.setPoint p { pt with travelled := s.full - 1, clamped := true }
  if pt.clamped then s1 else raise Kind.trackOverrun p.val s1

/-- R55, R61: the passages of one advance, each after the order clamp has been judged. A trip that an earlier passage of the
advance started freezes tracking: the rest of the advance is discarded (DEDUCED, notes/assumptions/9). The first argument bounds the passages. -/
def passages : Nat → PointNo → State → State
  | 0, _, s => s
  | fuel + 1, p, s =>
    if s.points[p].travelled < s.full then s
    else if s.frozen then s.setPoint p { s.points[p] with travelled := s.full - 1 }
    else if blocked p s then clampPoint p s
    else passages fuel p (passage p s)

/-- R55: raise a point's travelled length and judge passage. -/
def advanceBy (p : PointNo) (d : Nat) (s : State) : State :=
  let travelled := s.points[p].travelled + d
  passages (travelled / s.full + 1) p (s.setPoint p { s.points[p] with travelled := travelled })

/-! ### Advances -/

/-- R52: round(v × Δt × (1000 + f) × h × 1024 / (10^6 × H0)), in 1/1024 µm. -/
def advanceLength (v : Int) (dt : Nat) (slip h h0 : Int) : Nat :=
  (roundDiv (v * dt * (1000 + slip) * h * 1024) (1000000 * h0)).toNat

/-- R52 steps 1 and 2: one started point advances on the speed in force, and its advance time becomes t, also where its own
advance has started a trip (DEDUCED, notes/assumptions/9). -/
def speedAdvance (p : PointNo) (t : Micros) (s : State) : State :=
  let pt := s.points[p]
  let k := driverOf p
  let s := match s.speeds[k], pt.advanced, s.scheduleOf pt.cursor with
    | some v, some t0, some e =>
      advanceBy p (advanceLength v (t - t0).toNat e.sched.stands[k].slip (e.effH pt.cursor k) (e.effH0 pt.cursor)) s
    | _, _, _ => s
  s.setPoint p { s.points[p] with advanced := some t }

/-- R52: whether a speed sample of stand k advances a point: it is driven by stand k, and X0 only on its substitute. -/
def drives (s : State) (k : Stand) (p : PointNo) : Bool := driverOf p == k && (p != PointNo.x0 || s.substitute)

/-- R51, R52: an accepted ROLL_SPEED[k] sample as the Tracking Unit takes it: the started points it drives advance in rolling
order, then the speed in force becomes its value. -/
def speedSample (k : Stand) (v : Int) (t : Micros) (s : State) : State :=
  let s := ((List.finRange 9).filter (drives s k)).foldl
    (fun s p => if s.points[p].started ∧ ¬ s.frozen then speedAdvance p t s else s) s
  s.setSpeed k (some v)

/-- R53: an ENTRY_LENGTH increment (in µm) delivered to Tracking; X0's advance time becomes t, also where the advance itself has
started a trip (DEDUCED, notes/assumptions/9). -/
def lengthSample (inc : Int) (t : Micros) (s : State) : State :=
  if s.points[PointNo.x0].started ∧ ¬ s.frozen then
    let s := advanceBy PointNo.x0 (inc.toNat * 1024) s
    s.setPoint PointNo.x0 { s.points[PointNo.x0] with advanced := some t }
  else s

/-- R54: ENTRY_LENGTH has become VALID: X0's closing advance on the substitute. -/
def closingAdvance (t : Micros) (s : State) : State :=
  if s.points[PointNo.x0].started ∧ ¬ s.frozen then speedAdvance PointNo.x0 t s else s

/-- R56: a reading that qualifies enters the mean accumulator of X0, X1 or X6. -/
def gaugeReading (p : PointNo) (v : Int) (s : State) : State :=
  let pt := s.points[p]
  if pt.started ∧ ¬ s.frozen then s.setPoint p { pt with sum := pt.sum + v, count := pt.count + 1 } else s

/-- R49, R117: an accepted FORCE[k] sample as the Tracking Unit takes it: bite-on above the loaded level. -/
def trackForceSample (k : Stand) (f : Int) (s : State) : State :=
  match s.stands[k].params with
  | some p => if p.loaded f then startingEvent (bitePoint k) s.time s else s
  | none => s

/-! ### Welds (R64, R65) -/

/-- R60, R64 step 4: the arrivals at the weld segment already made by B1 and the points beyond it, in point order. -/
def arrivalsMade (n : SegNo) (s : State) : State :=
  (List.finRange 9).foldl
    (fun s p => if p ≠ PointNo.x0 ∧ s.points[p].started ∧ s.points[p].cursor = n then scheduleArrival p n s else s) s

/-- R64: an accepted weld on the open segment g; the order of its parts is DEDUCED, notes/assumptions/11. -/
def acceptWeld (g : Segment) (s : State) : State :=
  let coil := s.coilCounter + 1
  let s := { s with coilCounter := coil }
  let s := s.setSegment g.number fun (x : Segment) => { x with weld := true, coil := coil }
  let s := modifyReport g.coil (fun r => { r with created := r.created - 1 }) s
  let s := { s with reports := s.reports ++ [CoilReport.fresh coil g.tag 1] }
  let s := judgeCompletion g.coil s
  let s := askSchedule { g with weld := true, coil := coil } coil s
  let s := arrivalsMade g.number s
  match s.segment g.number with
  | some x => modifyReport coil (fun r => { r with tag := x.tag }) s
  | none => s

/-- R64, R65: a pulse on WELD_DETECT. -/
def weldPulse (s : State) : State :=
  if s.tracking ∧ ¬ s.frozen then
    match s.openSegment with
    | none => s
    | some g =>
      if g.weld ∨ Config.reportCapacity ≤ s.reports.length then raiseMomentary Kind.weldRejected s
      else acceptWeld g s
  else s

/-! ### The clearing of tracking (R11 steps 1 to 5, R68) -/

/-- R68, R11 step 5: the points unstarted, the bites absent, the ring's conditions inactive, the coil counter raised. -/
def unstartPoints (s : State) : State :=
  let s := { s with points := Vector.replicate 9 .unstarted, coilCounter := s.coilCounter + 1 }
  let s := forStands biteCleared s
  ((s.allInactive Kind.trackOverrun).allInactive Kind.trackFull).allInactive Kind.offGaugeRun

/-- R11 steps 1 to 5: the clearing of tracking, with the release cause and the closing state of the reports. -/
def clearTracking (c : ReleaseCause) (st : ReportState) (s : State) : State :=
  unstartPoints (reduceTable (cancelTransitions (closeAllReports st (releaseAll c s))))

end Sys2Proof.Machine
end

