-- ==== Sys2Proof/Machine/Measurement.lean ====
section
/-! DEFINITION. The Measurement Unit (chapter 2): extraction (R35), scaling (R36, R37), range checks (R38), acceptance and
delivery (R39), the loss of channels (R41, R43), and the sensor links with their frames, timers and states (R19 to R30). -/

namespace Sys2Proof.Machine

/-! ### From raw word to value (R35 to R38) -/

/-- R35: the field's bits as an unsigned number; positions above raw word bit 31 read as zero. -/
def fieldBits (raw : BitVec 32) (start len : Nat) : Nat := raw.toNat / 2 ^ start % 2 ^ len

/-- R35: the field read as signed where the flag is set and the length is at least 1. -/
def fieldValue (raw : BitVec 32) (start len : Nat) (signed : Bool) : Int :=
  let u := fieldBits raw start len
  if signed ∧ 1 ≤ len ∧ 2 ^ (len - 1) ≤ u then (u : Int) - 2 ^ len else u

/-- R36: round(field × gain / 65536) + offset. -/
def scaled (c : ChannelConfig) (raw : BitVec 32) : Int :=
  roundDiv (fieldValue raw c.start c.length c.signed * c.gain) 65536 + c.offset

/-- R37: (field − reference) modulo 2^length. -/
def lengthDifference (field reference len : Nat) : Nat := (field + 2 ^ len - reference) % 2 ^ len

/-- R37: round(difference × gain / 65536) µm. -/
def lengthIncrement (c : ChannelConfig) (field reference : Nat) : Int :=
  roundDiv (lengthDifference field reference c.length * c.gain) 65536

/-- R38: the range of a role, both ends included. -/
def roleRange : Item → Int × Int
  | .entryThick => (0, 100000)
  | .stand1Thick => (0, 100000)
  | .exitThick => (0, 100000)
  | .force _ => (-10000, 500000)
  | .gapPos _ => (-300000, 400000)
  | .rollSpeed _ => (0, 40000)
  | .tension _ => (0, 50000)
  | .entryLength => (0, 1000000)

/-- R38: a value passes the range check. -/
def inRange (i : Item) (v : Int) : Bool := decide ((roleRange i).1 ≤ v ∧ v ≤ (roleRange i).2)

/-- R31: the three thickness roles, with the point that each feeds. -/
def gaugePoint : Item → Option PointNo
  | .entryThick => some PointNo.x0
  | .stand1Thick => some PointNo.x1
  | .exitThick => some PointNo.x6
  | _ => none

/-! ### Readers -/

/-- R39, R41: what the readers of a role do when its channel changes to INVALID: R51 for speeds, R101 and R140 for force,
R100 for gap position, R143 for tension and the speed of stand 6. -/
def readersLose (i : Item) (s : State) : State :=
  match i with
  | .rollSpeed k =>
    let s := s.setSpeed k none
    if k = 5 then stopRunningBreaks s else s
  | .force k => forceConditionsEnd k (forceLost k s)
  | .gapPos k => causeArises .gapLost k s
  | .tension j => tensionLost j s
  | .entryThick => s
  | .stand1Thick => s
  | .exitThick => s
  | .entryLength => s

/-- R100, R54: what the readers of a role do when its channel becomes VALID from INVALID or NO_DATA. -/
def readersRegain (i : Item) (s : State) : State :=
  match i with
  | .gapPos k => causeClears .gapLost k s
  | .entryLength => closingAdvance s.time s
  | .force _ => s
  | .rollSpeed _ => s
  | .tension _ => s
  | .entryThick => s
  | .stand1Thick => s
  | .exitThick => s

/-- R39: the three readers of a FORCE[k] sample, in the order in which they took it; `before` says whether the stand takes it
before a report of its actuator (`takeSample`). -/
def deliverForce (k : Stand) (v : Int) (o : ForceOrder) (before : Bool) (s : State) : State :=
  let g := takeSample k before (gapForceSample k v)
  let t := trackForceSample k v
  let p := judgeForceLimits k v
  match o with
  | .gtp => p (t (g s))
  | .gpt => t (p (g s))
  | .tgp => p (g (t s))
  | .tpg => g (p (t s))
  | .pgt => t (g (p s))
  | .ptg => g (t (p s))

/-- R39: one sample event delivered to the readers of its role. `strip` is the strip-present flag of the frame (R56). -/
def deliver (i : Item) (v : Int) (strip : Bool) (o : ReaderOrder) (s : State) : State :=
  match i with
  | .entryThick => if strip then gaugeReading PointNo.x0 v s else s
  | .stand1Thick => if strip then gaugeReading PointNo.x1 v s else s
  | .exitThick => if strip then gaugeReading PointNo.x6 v s else s
  | .entryLength => lengthSample v s.time s
  | .rollSpeed k =>
    let s := speedSample k v s.time s
    if k = 5 then judgeExitSpeed v s else s
  | .force k => deliverForce k v o.force o.beforeReport s
  | .gapPos k =>
    let stand := takeSample k o.beforeReport (gapPosSample k)
    if o.actuatorFirst then stand (judgeGapSample k v s) else judgeGapSample k v (stand s)
  | .tension j => judgeTension j v s

/-! ### Channel states -/

/-- R41, R37: an entry enters INVALID, or, being INVALID already, takes a new cause; the length reference becomes absent. -/
def markInvalid (e : EntryNo) (c : InvalidCause) (s : State) : State :=
  let ch := s.channels[e]
  match ch.state with
  | .unbound => s
  | _ => s.setChannel e { ch with state := .invalid c, lengthRef := none }

/-- R43: the loss condition of an item, where it has one and the mode is not CONFIG. -/
def lossCondition (s : State) (i : Item) : List (Kind × Nat) :=
  if s.mode = .config then [] else (lossOf i).toList

/-- R41, R43: one entry becomes INVALID by HEAD_FAULT, RANGE or AGE: its readers are told, and its loss condition is taken.
An entry that was INVALID already takes the new cause and nothing more. -/
def loseChannel (e : EntryNo) (c : InvalidCause) (s : State) : State :=
  let ch := s.channels[e]
  let s := markInvalid e c s
  match ch.config with
  | some cfg =>
    if ch.state.isInvalid then s
    else raiseAll (lossCondition s cfg.item) (readersLose cfg.item s)
  | none => s

/-- R39: an accepted sample makes its entry VALID and restarts its age; the loss condition of an entry that was INVALID
becomes inactive, and readers that had lost the channel are told. -/
def acceptSample (e : EntryNo) (cfg : ChannelConfig) (v : Int) (s : State) : State :=
  let ch := s.channels[e]
  let s := s.setChannel e { ch with state := .valid, held := some (v, s.time), consecutive := 0 }
  let s := if ch.state.isInvalid then
      (match lossOf cfg.item with
       | some (k, loc) => s.inactive k loc
       | none => s)
    else s
  if ch.state.isInvalid ∨ ch.state = .noData then readersRegain cfg.item s else s

/-- R38: a rejected value: the reject count rises, and the third consecutive reject makes the entry INVALID with cause
RANGE. -/
def rejectSample (e : EntryNo) (s : State) : State :=
  let ch := s.channels[e]
  let n := min (ch.consecutive + 1) 3
  let s := s.setChannel e { ch with rejects := satAdd ch.rejects 1 Config.top16, consecutive := n }
  if n = 3 ∧ ¬ ch.state.isInvalid then loseChannel e .range s else s

/-- R37: a frame for an ENTRY_LENGTH entry. The sample that sets the reference delivers no increment. -/
def takeLength (e : EntryNo) (cfg : ChannelConfig) (raw : BitVec 32) (o : ReaderOrder) (s : State) : State :=
  let field := fieldBits raw cfg.start cfg.length
  let setRef (s : State) : State := s.setChannel e { s.channels[e] with lengthRef := some field }
  match s.channels[e].lengthRef with
  | none => acceptSample e cfg 0 (setRef s)
  | some r =>
    let inc := lengthIncrement cfg field r
    if inRange .entryLength inc then deliver .entryLength inc false o (acceptSample e cfg inc (setRef s))
    else rejectSample e s

/-- R36, R38, R39: a frame for an entry of any other role. -/
def takeValue (e : EntryNo) (cfg : ChannelConfig) (f : SensorFields) (o : ReaderOrder) (s : State) : State :=
  let v := scaled cfg f.raw
  if inRange cfg.item v then deliver cfg.item v f.strip o (acceptSample e cfg v s) else rejectSample e s

/-- R42, R49: the strip-present flag of a frame for a thickness role is recorded and delivered: set, it is the starting event
of X1 and X6 (X0 is not started by it). -/
def takeStrip (e : EntryNo) (i : Item) (strip : Bool) (s : State) : State :=
  match gaugePoint i with
  | none => s
  | some p =>
    let s := s.setChannel e { s.channels[e] with strip := some strip }
    if strip ∧ p ≠ PointNo.x0 then startingEvent p s.time s else s

/-- R34: a good frame taken in UP, handed to the entry bound to its link and slot. The strip-present flag of a frame with head
fault set is neither delivered nor recorded (DEDUCED, notes/assumptions/31). -/
def routeFrame (l : LinkNo) (f : SensorFields) (o : ReaderOrder) (s : State) : State :=
  match s.entryAt l f.slot with
  | none => s
  | some e =>
    match s.channels[e].config with
    | none => s
    | some cfg =>
      if f.headFault then loseChannel e .headFault s
      else
        let s := takeStrip e cfg.item f.strip s
        if cfg.item = .entryLength then takeLength e cfg f.raw o s else takeValue e cfg f o s

/-! ### Links -/

/-- R29: the LINK_STATE notice of a change, with the counters as they stand after it. -/
def notifyLink (l : LinkNo) (prev : LinkMode) (c : LinkCause) (s : State) : State :=
  let k := s.links[l]
  s.notify (.linkState l prev k.mode c k.good k.crcErrors k.gaps)

/-- R26: the entries of a link that are not UNBOUND become INVALID with cause LINK_LOST. -/
def markLinkLost (l : LinkNo) (s : State) : State := (s.boundTo l).foldl (fun s e => markInvalid e .linkLost s) s

/-- The items of some entries whose channels were not INVALID in a state. -/
def freshlyLost (s : State) (es : List EntryNo) : List Item :=
  es.filterMap fun e => match s.channels[e].config with
    | some c => if s.channels[e].state.isInvalid then none else some c.item
    | none => none

/-- R26: entry to DOWN or DISABLED, in one step: the link, its channels and their readers, the conditions as one event in
increasing kind and location order (R137), and the LINK_STATE notice. That DISABLED drops the bytes the receiver had
collected is DEDUCED, notes/assumptions/7. -/
def linkLost (l : LinkNo) (m : LinkMode) (c : LinkCause) (s : State) : State :=
  let k := s.links[l]
  let items := freshlyLost s (s.boundTo l)
  let s := s.setLink l { k with
    mode := m, timer := none, training := 0, crcRun := 0, seqRef := none
    rx := if m = .disabled then [] else k.rx }
  let s := if k.mode = .down then s.inactive Kind.sensorLinkDown l.val else s
  let s := markLinkLost l s
  let s := items.foldl (fun s i => readersLose i s) s
  let losses := if s.mode = .config then [] else (lossItems.filter (· ∈ items)).filterMap lossOf
  let down := if m = .down ∧ s.boundTo l ≠ [] then [(Kind.sensorLinkDown, l.val)] else []
  notifyLink l k.mode c (raiseAll (losses ++ down) s)

/-- R25: UP to TRAINING with a training count of 0. -/
def retrainLink (l : LinkNo) (c : LinkCause) (s : State) : State :=
  notifyLink l .up c (s.setLink l { s.links[l] with mode := .training, training := 0 })

/-- R21: the frames missed before one with this sequence. -/
def missedFrames (reference : Option (BitVec 4)) (seq : BitVec 4) : Nat :=
  match reference with
  | some r => (seq - r - 1).toNat
  | none => 0

/-- R21, R22: a good frame counted and its sequence checked. -/
def countGood (seq : BitVec 4) (k : Link) : Link :=
  { k with
    good := satAdd k.good 1 Config.top16
    gaps := satAdd k.gaps (missedFrames k.seqRef seq) Config.top16
    seqRef := some seq }

/-- R23 to R25: a good frame taken in the link's state. The training count is left at 8 in UP, where no rule changes it until
R25 or R26 empties it (DEDUCED, notes/assumptions/30). -/
def takeGoodFrame (l : LinkNo) (f : SensorFields) (o : ReaderOrder) (s : State) : State :=
  let k := countGood f.seq { s.links[l] with timer := some s.time }
  match k.mode with
  | .disabled => s
  | .down =>
    let s := s.setLink l { k with mode := .training, training := 1 }
    notifyLink l .down .frameDetected (s.inactive Kind.sensorLinkDown l.val)
  | .training =>
    if 8 ≤ k.training + 1 then
      notifyLink l .training .trained (s.setLink l { k with mode := .up, training := 8, crcRun := 0 })
    else s.setLink l { k with training := k.training + 1 }
  | .up => routeFrame l f o (s.setLink l { k with crcRun := 0 })

/-- R23 to R25: a CRC error taken in the link's state. The count of errors in a row stays 3 after the retrain (DEDUCED,
notes/assumptions/15). -/
def takeCrcError (l : LinkNo) (s : State) : State :=
  let k0 := s.links[l]
  let k := { k0 with timer := some s.time, crcErrors := satAdd k0.crcErrors 1 Config.top16 }
  match k.mode with
  | .disabled => s
  | .down => s.setLink l k
  | .training => s.setLink l { k with training := 0 }
  | .up =>
    let s := s.setLink l { k with crcRun := min (k.crcRun + 1) 3 }
    if 3 ≤ k.crcRun + 1 then retrainLink l .autonomousRetrain s else s

/-- R19: what one complete frame does. -/
def takeSensorFrame (l : LinkNo) (o : ReaderOrder) (f : Option (List Byte)) (s : State) : State :=
  match f with
  | some body => takeGoodFrame l (sensorFields body) o s
  | none => takeCrcError l s

/-- R19: bytes arrive on a sensor link: the receiver hunts through them and each complete frame is taken. On a disabled link
they are ignored. -/
def sensorBytes (l : LinkNo) (bytes : List Byte) (o : ReaderOrder) (s : State) : State :=
  let k := s.links[l]
  if k.mode = .disabled then s
  else
    let buf := k.rx ++ bytes
    let r := huntFixed 0xC3 7 buf.length buf
    r.1.foldl (fun s f => takeSensorFrame l o f s) (s.setLink l { k with rx := r.2 })

/-! ### Timers -/

/-- R20: the frame timer of a link expires. -/
def frameTimerExpires (l : LinkNo) (s : State) : State :=
  let k := s.links[l]
  if s.due k.timer s.line.linkTimeout then
    match k.mode with
    | .disabled => s
    | .down => s.setLink l { k with timer := none }
    | .training => linkLost l .down .timeout s
    | .up => linkLost l .down .timeout s
  else s

/-- R40: the age of an entry's last accepted sample has reached `times` × its stale limit. -/
def ageReached (s : State) (ch : Channel) (times : Nat) : Bool :=
  match ch.config, ch.held with
  | some c, some h => decide (times * c.stale ≤ s.age h.2)
  | _, _ => false

/-- R40: a VALID entry's age reaches its stale limit. -/
def staleExpires (e : EntryNo) (s : State) : State :=
  let ch := s.channels[e]
  if ch.state = .valid ∧ ageReached s ch 1 then s.setChannel e { ch with state := .stale } else s

/-- R40: a VALID or STALE entry's age reaches four times its stale limit. -/
def invalidExpires (e : EntryNo) (s : State) : State :=
  let ch := s.channels[e]
  if ch.state.isUsable ∧ ageReached s ch 4 then loseChannel e .age s else s

end Sys2Proof.Machine
end

