-- ==== Sys2Proof/Machine/ActuatorLinks.lean ====
section
/-! DEFINITION. The actuator links (chapter 6): the receiver and the statuses (R118, R121, R123, R128), silence and keep-alive
commands (R119, R122), and the timers that move the part on by themselves: positioning (R126), open (R129), unload (R103)
and break (R142). -/

namespace Sys2Proof.Machine

/-! ### Statuses -/

/-- R123: actuator k goes to FAULTED with a fault code, and ACTUATOR_FAULT k is taken. -/
def faultActuator (k : Stand) (code : Byte) (s : State) : State :=
  let s := s.setActuator k { s.actuators[k] with faultCode := some code }
  raise Kind.actuatorFault (standLoc k) (setActMode k .faulted s)

/-- R120, R121, R123: an ACK taken for its content. -/
def takeAck (k : Stand) (ready : Bool) (s : State) : State :=
  let s := s.setActuator k { s.actuators[k] with readyFlag := some ready }
  let demand := s.actuators[k].demand
  match s.actuators[k].mode with
  | .unlinked =>
    if demand then setActMode k .opening s
    else if ready then setActMode k .idle s
    else faultActuator k codeNotReady s
  | .idle => if ready then s else faultActuator k codeNotReady s
  | .following => if ready then s else faultActuator k codeNotReady s
  | .moving => if ready then s else faultActuator k codeNotReady s
  | .opening => s
  | .opened => s
  | .faulted => if ready then setActMode k (if demand then .opening else .idle) s else s

/-- R123: a FAULT taken for its content. -/
def takeFault (k : Stand) (code : Byte) (s : State) : State :=
  if s.actuators[k].mode = .faulted then s.setActuator k { s.actuators[k] with faultCode := some code }
  else faultActuator k code s

/-- R121, R123, R128: an OPEN_CONFIRMED taken for its content. -/
def takeOpenConfirmed (k : Stand) (s : State) : State :=
  let demand := s.actuators[k].demand
  match s.actuators[k].mode with
  | .unlinked => if demand then setActMode k .opened s else faultActuator k codeUncommandedOpen s
  | .idle => faultActuator k codeUncommandedOpen s
  | .following => faultActuator k codeUncommandedOpen s
  | .moving => faultActuator k codeUncommandedOpen s
  | .opening => setActMode k .opened s
  | .opened => s
  | .faulted => if demand then setActMode k .opened s else s

/-- R118: a status answers the oldest command and is then taken for its content. -/
def takeStatus (k : Stand) (st : Status) (s : State) : State :=
  let s := answerCommand k s
  match st with
  | .ack ready => takeAck k ready s
  | .fault code => takeFault k code s
  | .openConfirmed => takeOpenConfirmed k s

/-- R118, R193: a frame that fails its check is counted, answers nothing and restarts no timer. -/
def badStatus (k : Stand) (s : State) : State :=
  let a := s.actuators[k]
  s.setActuator k { a with badFrames := satAdd a.badFrames 1 Config.top16 }

/-- R193: what one frame found by the receiver does. A frame with a bad code or argument has been consumed whole by then
(DEDUCED, notes/assumptions/32). -/
def takeStatusFrame (k : Stand) (f : Option (List Byte)) (s : State) : State :=
  match f.bind statusOf with
  | some st => takeStatus k st s
  | none => badStatus k s

/-- R193: bytes arrive on actuator link k: the receiver hunts through them and each frame is taken. -/
def actuatorBytes (k : Stand) (bytes : List Byte) (s : State) : State :=
  let a := s.actuators[k]
  let buf := a.rx ++ bytes
  let r := huntFixed 0x3C 4 buf.length buf
  r.1.foldl (fun s f => takeStatusFrame k f s) (s.setActuator k { a with rx := r.2 })

/-! ### Supervision -/

/-- R118: the reply timer of actuator k has reached 10 ms. -/
def replyDue (s : State) (k : Stand) : Bool := s.due s.actuators[k].replyTimer Config.replyTimeout

/-- R121, R122: silence. In UNLINKED it sets the unanswered count to 0 and raises nothing, the silences
counter included (DEDUCED, notes/assumptions/14). -/
def replyTimerExpires (k : Stand) (s : State) : State :=
  if replyDue s k then
    let a := s.actuators[k]
    let quiet : Actuator := { a with unanswered := 0, replyTimer := none }
    if a.mode = .unlinked then s.setActuator k quiet
    else
      let s := s.setActuator k { quiet with silences := satAdd a.silences 1 Config.top16 }
      raise Kind.actuatorSilent (standLoc k) (setActMode k .unlinked s)
  else s

/-- R119: a keep-alive command is due: none has been sent since power-on (DEDUCED, notes/assumptions/21), or the last
command is 100 ms old. -/
def keepAliveDue (s : State) (k : Stand) : Bool :=
  match s.actuators[k].lastSent with
  | some t => Config.keepAlive ≤ s.age t
  | none => true

/-- R119: POLL, or OPEN to an actuator whose open demand is set and that is not OPEN. -/
def keepAliveCommand (a : Actuator) : Command := if a.demand ∧ a.mode ≠ .opened then .openGap else .poll

/-- R119: the keep-alive command of actuator k. -/
def keepsAlive (k : Stand) (s : State) : State :=
  if keepAliveDue s k then sendCommand k (keepAliveCommand s.actuators[k]) s else s

/-! ### Timers -/

/-- R126: the positioning timer of actuator k, in MOVING, has reached the stand's positioning timeout. -/
def positioningDue (s : State) (k : Stand) : Bool :=
  match s.stands[k].params with
  | some p => s.actuators[k].mode == .moving && s.due s.actuators[k].posTimer (p.posTimeout * 1000)
  | none => false

/-- R126: the positioning timer of actuator k expires. -/
def positioningTimerExpires (k : Stand) (s : State) : State :=
  if positioningDue s k then
    raise Kind.positioningTimeout (standLoc k) (causeArises .positioningTimeout k (setActMode k .following s))
  else s

/-- R129: the open timer of actuator k has reached the line's open timeout. -/
def openDue (s : State) (k : Stand) : Bool := s.due s.actuators[k].openTimer (s.line.openTimeout * 1000)

/-- R129: stop an open timer that has expired. -/
def stopOpenTimer (k : Stand) (s : State) : State := s.setActuator k { s.actuators[k] with openTimer := none }

/-- R129: the open timers expire together; each actuator that is not OPEN raises its own OPEN_TIMEOUT, as one event. -/
def openTimersExpire (s : State) : State :=
  let ks := (List.finRange 6).filter (openDue s)
  let late := ks.filter fun k => s.actuators[k].mode != .opened
  raiseAll (late.map fun k => (Kind.openTimeout, standLoc k)) (ks.foldl (fun s k => stopOpenTimer k s) s)

/-- R103: the unload timer of stand k, RUNNING, has reached the unload time. -/
def unloadDue (s : State) (k : Stand) : Bool :=
  match s.stands[k].unload, s.stands[k].params with
  | .running t, some p => decide (p.unload * 1000 ≤ s.age t)
  | _, _ => false

/-- R103: the unload timer of stand k expires; in RUN it raises STAND_UNLOADED k. -/
def unloadTimerExpires (k : Stand) (s : State) : State :=
  if unloadDue s k then
    let s := s.setStand k { s.stands[k] with unload := .expired }
    if s.mode = .run then raise Kind.standUnloaded (standLoc k) s else s
  else s

/-- R142: the break timer of interstand j, RUNNING, has reached the break confirm time. -/
def breakDue (s : State) (j : Interstand) : Bool :=
  match s.breakTimers[j] with
  | .running t => decide (s.line.breakConfirm * 1000 ≤ s.age t)
  | _ => false

/-- R142: the break timer of interstand j expires and STRIP_BREAK j is taken. -/
def breakTimerExpires (j : Interstand) (s : State) : State :=
  if breakDue s j then raise Kind.stripBreak (interstandLoc j) (s.setBreak j .expired) else s

/-! ### The EXTERNAL_STOP input (R139) -/

/-- R139: the input is asserted. -/
def stopAsserted (s : State) : State := raise Kind.externalStop 0 { s with externalStop := true }

/-- R139: the input is released. -/
def stopReleased (s : State) : State := ({ s with externalStop := false } : State).inactive Kind.externalStop 0

end Sys2Proof.Machine
end

