-- ==== Sys2Proof/Machine/Layout.lean ====
section
/-! DEFINITION. What the part sends on the supervisor link (chapter 11): replies and notices as bytes, with the records they
carry. -/

namespace Sys2Proof.Machine

/-! ### Replies -/

/-- Section 10.2.1: the number of a reply code. -/
def ReplyCode.num : ReplyCode → Nat
  | .ok => 0 | .malformed => 1 | .unknownType => 2 | .badValue => 3 | .mode => 4 | .notReady => 5 | .tagInUse => 6
  | .queueFull => 7 | .noSuchTag => 8 | .inForce => 9 | .notTracked => 10 | .readOnly => 11 | .policyFixed => 12
  | .latched => 13 | .tripActive => 14

/-- R182: a reply code with the fields after it. -/
structure Answer where
  code : ReplyCode
  fields : List Byte
deriving DecidableEq, Repr

/-- A reply OK with its fields. -/
def okWith (fields : List Byte) : Answer := ⟨.ok, fields⟩

/-- A refused reply that carries its code alone. -/
def refuse (c : ReplyCode) : Answer := ⟨c, []⟩

/-- Section 11.3.9: a NOT_READY reply: the reason and its three item bytes. -/
def notReady (reason a b c : Nat) : Answer := ⟨.notReady, nat8 reason ++ (nat8 a ++ (nat8 b ++ nat8 c))⟩

/-- Section 11.2.1: the bytes of a reply frame. -/
def Reply.frame (r : Reply) : List Byte := supervisorFrameBytes r.typ r.num (nat8 r.code.num ++ r.fields)

/-! ### Records -/

/-- Section 11.3.4: a coil report. -/
def reportBytes (r : CoilReport) : List Byte :=
  bytes16 r.coil ++ (nat8 r.tag ++ (nat32 r.created ++ (r.bins.toList.flatMap nat32 ++ (nat32 r.unmeasured ++
    (nat32 r.forced ++ (nat32 r.discarded ++ (nat32 r.offCount ++ (int32 r.offLength ++ (int32 r.maxDev ++
    (optional bytes32 r.firstOff ++ (nat32 r.manualMarked ++ (nat32 r.tripMarked ++ nat8 r.state.num))))))))))))

/-- Section 11.3.1 item 7: a first-out record. -/
def firstOutBytes (f : FirstOut) : List Byte :=
  nat8 (f.kind.val + 32 * f.mode.num) ++ (nat16 f.location ++ (bytes32 f.time ++ nat8 f.subsequent))

/-- The mark byte's off-gauge mark: 0 NONE. -/
def markNum : Option MarkMode → Nat
  | some m => m.num
  | none => 0

/-- A measurement: its mean and count. -/
def meanBytes (m : Int × Nat) : List Byte := int32 m.1 ++ nat32 m.2

/-- Section 11.3.3: an entry of the stand estimate list. -/
def estimateBytes (e : Estimate) : List Byte := nat8 (standLoc e.stand) ++ (optional int32 e.mean ++ nat32 e.count)

/-- Section 11.3.3: a segment record. -/
def segmentBytes (g : Segment) : List Byte :=
  bytes32 g.number ++ (bytes16 g.coil ++ (nat8 g.tag ++
    (nat8 (g.weld.toNat + 2 * g.manual.toNat + 4 * g.tripMark.toNat + 8 * markNum g.offGauge) ++
    (nat8 (g.ramp.getD 0xFF) ++ (optional meanBytes g.entry ++ (optional meanBytes g.x1 ++ (optional meanBytes g.x6 ++
    (nat8 g.estimates.length ++ g.estimates.flatMap estimateBytes))))))))

/-- Section 11.3.2: one stand block of a schedule record. -/
def targetBytes (t : StandTargets) : List Byte :=
  int32 t.h ++ (int32 t.sset ++ (int32 t.smin ++ (int32 t.smax ++ (int16 t.q ++ nat8 t.slip.toNat))))

/-- Section 11.3.2: a schedule record in the form of a SCHEDULE_LOAD payload. -/
def recordBytes (c : Schedule) : List Byte :=
  nat8 c.tag ++ (nat8 c.take.num ++ (int32 c.h0 ++ (c.stands.toList.flatMap targetBytes ++
    (nat8 c.ramp ++ (int16 c.tol ++ (nat8 c.bin.toNat ++ nat8 c.mark.num))))))

/-- Section 11.3.9: a place, with the queue position that SCHEDULE_LOAD replies and log entries carry, 0 if in force. -/
def placeBytes : Place → List Byte
  | .pending p => [0] ++ nat8 p
  | .inForce => [1, 0]

/-- Bit 0 enable, bit 1 tripping (section 11.3.5). -/
def policyNum (enabled tripping : Bool) : Nat := enabled.toNat + 2 * tripping.toNat

/-- Section 11.3.9: the policy byte of FAULT_POLICY and FAULT_QUERY replies, with bit 2 fixed. -/
def policyByte (s : State) (k : Kind) : List Byte :=
  nat8 (policyNum s.policy[k].enabled s.policy[k].tripping + 4 * (fixedKind k).toNat)

/-- A set of kinds in three bytes: bit n stands for kind n. -/
def kindSet (f : Kind → Bool) : List Byte :=
  bytes24 (BitVec.ofNat 24 ((List.finRange 22).foldl (fun acc k => if f k then acc + 2 ^ k.val else acc) 0))

/-- The latched kinds. -/
def State.latchedSet (s : State) : List Byte := kindSet fun k => s.faults[k].latched

/-! ### Log entries (section 11.3.5) -/

/-- The entry type of a log entry. -/
def LogContent.typeCode : LogContent → Nat
  | .fault .. => 0x01
  | .tripState .. => 0x02
  | .offGauge .. => 0x10
  | .manual .. => 0x11
  | .coil _ => 0x20
  | .loaded .. => 0x30
  | .withdrawn .. => 0x31
  | .taken .. => 0x32
  | .deferred .. => 0x33
  | .standSwitched .. => 0x34
  | .completed .. => 0x35
  | .cancelled _ => 0x36
  | .note _ => 0x40

/-- The tags, weld segment, coil and switched set of a transition. -/
def transitionBytes (t : Transition) : List Byte :=
  nat8 t.fromTag ++ (nat8 t.toTag ++ (bytes32 t.weld ++ (bytes16 t.coil ++ standSet t.switched)))

/-- The content of a log entry. -/
def LogContent.bytes : LogContent → List Byte
  | .fault k l c e t m tr cl =>
    nat8 k.val ++ (nat16 l ++ (nat8 c ++ (nat8 (policyNum e t) ++ (nat8 m.num ++ (nat8 tr.num ++ nat8 cl.num)))))
  | .tripState tr k l sub => nat8 tr.num ++ (nat8 k.val ++ (nat16 l ++ optional nat8 sub))
  | .offGauge c f l n d => bytes16 c ++ (bytes32 f ++ (bytes32 l ++ (nat16 n ++ optional int32 (some d))))
  | .manual c f l n => bytes16 c ++ (bytes32 f ++ (bytes32 l ++ (nat16 n ++ optional int32 none)))
  | .coil r => reportBytes r
  | .loaded t m p => nat8 t ++ (nat8 m.num ++ placeBytes p)
  | .withdrawn t c p => nat8 t ++ (nat8 c.num ++ placeBytes p)
  | .taken f t w c => nat8 f ++ (nat8 t ++ (bytes32 w ++ bytes16 c))
  | .deferred t w c cause => nat8 t ++ (bytes32 w ++ (bytes16 c ++ nat8 cause.num))
  | .standSwitched t k w c => nat8 t ++ (nat8 (standLoc k) ++ (bytes32 w ++ bytes16 c))
  | .completed t c => transitionBytes t ++ optional nat8 (some c.num)
  | .cancelled t => transitionBytes t ++ optional nat8 none
  | .note text => textBytes text

/-- An entry with its length byte and header. -/
def LogEntry.bytes (e : LogEntry) : List Byte :=
  let body := bytes32 e.seq ++ (bytes32 e.time ++ (nat8 e.content.typeCode ++ e.content.bytes))
  nat8 body.length ++ body

/-- R173: the directory entry of a log. -/
def directoryEntry (s : State) (g : LogNo) : List Byte :=
  let log := s.logs[g]
  let body := nat8 (g.val + 1) ++ (nat8 Config.logCapacity[g] ++ (nat8 log.entries.length ++
    (optional bytes32 (log.entries.head?.map (·.seq)) ++ (optional bytes32 (log.entries.getLast?.map (·.seq)) ++
    (bytes32 log.next ++ (flag8 (g == LogNo.note) ++ nat8 Config.logReplyLimit[g]))))))
  nat8 body.length ++ body

/-! ### Notices (section 11.3.6) -/

/-- The type of a notice. -/
def Notice.typ : Notice → Byte
  | .modeChanged .. => 0x80
  | .trip .. => 0x81
  | .fault .. => 0x82
  | .transition .. => 0x83
  | .coilReport _ => 0x84
  | .linkState .. => 0x85

/-- The payload of a notice. -/
def Notice.payload : Notice → List Byte
  | .modeChanged p n c => optional (fun (m : Mode) => nat8 m.num) p ++ (nat8 n.num ++ nat8 c.num)
  | .trip e k l m => nat8 e.num ++ (nat8 k.val ++ (nat16 l ++ nat8 m.num))
  | .fault k l c t m tr cl =>
    nat8 k.val ++ (nat16 l ++ (nat8 c ++ (nat8 t.toNat ++ (nat8 m.num ++ (nat8 tr.num ++ nat8 cl.num)))))
  | .transition e t c => nat8 e.num ++ (transitionBytes t ++ optional (fun (c : CompletionCause) => nat8 c.num) c)
  | .coilReport r => reportBytes r
  | .linkState l p n c g e x =>
    nat8 l.val ++ (nat8 p.num ++ (nat8 n.num ++ (nat8 c.num ++ (nat16 g ++ (nat16 e ++ nat16 x)))))

/-- Section 11.2.1: the bytes of a notice frame; every notice carries request number 0. -/
def Notice.frame (n : Notice) : List Byte := supervisorFrameBytes n.typ 0 n.payload

/-! ### Replies that show a state -/

/-- R188: the configuration of an entry in the form of a CONFIGURE_CHANNEL payload after its entry byte; an UNBOUND entry's
fields are zero or absent. -/
def storedConfigBytes : Option ChannelConfig → List Byte
  | some c =>
    [1] ++ (nat8 c.link.val ++ (nat8 c.slot.val ++ (nat8 c.item.role ++ (optional nat8 c.item.place ++
      (nat8 c.start ++ (nat8 c.length ++ (flag8 c.signed ++ (int32 c.gain ++ (int32 c.offset ++ nat32 c.stale)))))))))
  | none => [0, 0, 0, 0, 0, 0] ++ (int32 0 ++ (int32 0 ++ nat32 0))

/-- R188: the fields of a CHANNEL_READ reply. -/
def channelFields (s : State) (e : EntryNo) : List Byte :=
  let c := s.channels[e]
  nat8 e.val ++ (storedConfigBytes c.config ++ (nat8 c.state.num ++
    (optional (fun (x : InvalidCause) => nat8 x.num) c.state.cause ++
    (optional (fun (h : Int × Micros) => int32 h.1 ++ nat32 (s.age h.2)) c.held ++
    (nat16 c.rejects ++ (nat8 c.consecutive ++ (optional flag8 c.strip ++ flag8 c.lengthRef.isSome)))))))

/-- R189: the fields of a LINK_STATUS reply. -/
def linkFields (s : State) (l : LinkNo) : List Byte :=
  let k := s.links[l]
  nat8 l.val ++ (nat8 k.mode.num ++ (flag8 (k.mode != .disabled) ++ (nat8 k.training ++ (nat8 k.crcRun ++
    (optional (fun (q : BitVec 4) => nat8 q.toNat) k.seqRef ++ (optional (fun t => nat32 (s.age t)) k.timer ++
    (nat16 k.good ++ (nat16 k.crcErrors ++ (nat16 k.gaps ++
    (nat8 (s.boundTo l).length ++ (s.boundTo l).flatMap fun e => nat8 e.val))))))))))

/-- R69: the ring summary of a SEGMENT_QUERY reply. -/
def ringFields (s : State) (oldest newest : SegNo) : List Byte :=
  nat16 s.ring.length ++ (bytes32 oldest ++ (bytes32 newest ++ (bytes16 s.coilCounter ++
    nat8 (s.frozen.toNat + 2 * s.substitute.toNat))))

/-- R69: one point in a SEGMENT_QUERY reply. -/
def pointFields (p : Point) : List Byte :=
  nat8 (p.started.toNat + 2 * p.clamped.toNat + 4 * p.early.toNat) ++
    optional (fun (c : SegNo × Nat) => bytes32 c.1 ++ nat32 (c.2 / 1024))
      (if p.started then some (p.cursor, p.travelled) else none)

/-- R148: the break timers in two bytes, 0 for kinds other than 1. -/
def breakFields (s : State) (k : Kind) : List Byte :=
  nat16 (if k = Kind.stripBreak then
    (List.finRange 5).foldl (fun acc j => acc + 4 ^ j.val * s.breakTimers[j].num) 0 else 0)

/-- R148: the fields of a FAULT_QUERY reply. -/
def faultFields (s : State) (k : Kind) : List Byte :=
  let e := s.faults[k]
  nat8 k.val ++ (policyByte s k ++ (flag8 e.latched ++ (nat8 e.active.length ++ (e.active.flatMap nat16 ++
    (nat8 e.count ++ (optional (fun (f : Nat × Millis) => nat16 f.1 ++ bytes32 f.2) e.first ++
    (optional nat16 e.last ++ (breakFields s k ++ (nat8 s.trip.num ++ (standSet s.opened ++
    (optional firstOutBytes s.firstOut ++ s.latchedSet)))))))))))

/-- Section 11.3.9: a ramp base in a SCHEDULE_QUERY reply. -/
def rampBaseBytes (b : RampBase) : List Byte :=
  bytes32 b.weld ++ (nat8 b.fromTag ++ (int32 b.h0 ++ (b.h.toList.flatMap int32 ++ b.sset.toList.flatMap int32)))

/-- R79: the fields of a SCHEDULE_QUERY reply for an in-force schedule. -/
def inForceFields (s : State) (e : InForce) : List Byte :=
  recordBytes e.sched ++ ([1] ++ (nat16 e.refs ++ (flag8 e.isEntry ++ (optional rampBaseBytes e.base ++
    optional (fun (t : Transition) => bytes32 t.weld ++ standSet t.switched)
      (s.transitions.find? (·.toTag == e.sched.tag))))))

/-! ### STATUS (R187, section 11.3.1) -/

/-- One stand block. -/
def standStatus (s : State) (k : Stand) : List Byte :=
  let st := s.stands[k]
  let a := s.actuators[k]
  let c := st.counters
  nat16 (st.mode.num + 8 * st.unload.num + 32 * st.holds.num + 512 * a.mode.num + 4096 * a.demand.toNat) ++
    (optional int24 st.lastSent ++ ((if k = 0 ∨ k = 5 then int16 st.trim else []) ++
    (nat16 c.sent ++ (nat16 c.clamped ++ (nat16 c.limited ++ (nat16 c.guarded ++ (nat16 c.blocked ++
    (nat16 c.suppressed ++ (optional (fun b => [b]) a.faultCode ++
    (nat16 a.commandsSent ++ (nat16 a.statuses ++ (nat16 a.badFrames ++ nat16 a.silences))))))))))))

/-- R22: the sum of one counter over the eight links, saturating. -/
def linkSum (s : State) (f : Link → Nat) : Nat :=
  min ((List.finRange 8).foldl (fun acc l => acc + f s.links[l]) 0) Config.top16

/-- The state of every link in two bytes. -/
def linkStates (s : State) : List Byte :=
  nat16 ((List.finRange 8).foldl (fun acc l => acc + 4 ^ l.val * s.links[l].mode.num) 0)

/-- R186: the seven port counters. -/
def portFields (c : PortCounters) : List Byte :=
  nat16 c.good ++ (nat16 c.crcErrors ++ (nat16 c.lengthErrors ++ (nat16 c.overflow ++ (nat16 c.replies ++
    (nat16 c.notices ++ nat16 c.lost)))))

/-- R187: the fields of a STATUS reply. -/
def statusFields (s : State) : List Byte :=
  nat8 (s.mode.num + 8 * s.trip.num + 32 * s.committed.toNat) ++ (bytes32 s.time ++ (bytes32 s.logTime ++
    (s.latchedSet ++ (kindSet (fun k => !s.faults[k].active.isEmpty) ++ (optional firstOutBytes s.firstOut ++
    ((List.finRange 6).flatMap (standStatus s) ++
    (nat8 (s.table.length + 4 * s.queue.length + 64 * s.transitions.length) ++
    (s.tableByTag.flatMap (fun e => nat8 (e.sched.tag + 128 * e.isEntry.toNat)) ++
    (nat16 (s.ring.length + 4096 * s.reports.length) ++
    ((match s.ring.head?, s.ring.getLast? with
      | some o, some n => [1] ++ (bytes32 o.number ++ bytes32 n.number)
      | _, _ => [0]) ++
    (bytes16 s.coilCounter ++ (linkStates s ++ (nat16 (linkSum s (·.good)) ++ (nat16 (linkSum s (·.crcErrors)) ++
    (nat16 (linkSum s (·.gaps)) ++ portFields s.port.counters)))))))))))))))

/-- R190: the fields of an IDENTIFY reply: part code, revision 1.0 and the capacities. -/
def identityFields : List Byte :=
  bytes16 Config.partCode ++ ([1, 0] ++ (nat8 8 ++ (nat8 4 ++ (nat8 32 ++ (nat8 6 ++ (nat8 6 ++
    (nat16 Config.ringCapacity ++ (nat8 Config.queueCapacity ++ (nat8 Config.tableCapacity ++
    (nat8 Config.transitionCapacity ++ (nat8 32 ++ (nat8 Config.reportCapacity ++ (nat8 22 ++
    (Config.logCapacity.toList.flatMap nat8 ++ (nat8 Config.rxCapacity ++ (nat8 Config.noticeCapacity ++
    nat8 Config.maxPayload))))))))))))))))

end Sys2Proof.Machine
end

