-- ==== Sys2Proof/Machine/ConfigRequests.lean ====
section
/-! DEFINITION. The requests that set the configuration: CONFIGURE_CHANNEL (R32, R33), CONFIGURE_STAND (R95) and
CONFIGURE_LINE (R70). Each answers its reply and the state as the step leaves it (R181). -/

namespace Sys2Proof.Machine

/-! ### CONFIGURE_CHANNEL -/

/-- R32: another entry than e is bound to the link and slot. -/
def slotTaken (s : State) (e : EntryNo) (l : LinkNo) (slot : Fin 4) : Bool :=
  (List.finRange 32).any fun x => x != e && (match s.channels[x].config with
    | some c => c.link == l && c.slot == slot
    | none => false)

/-- R32: the configuration that a payload with a binding gives, where every field lies in its range. -/
def channelConfigOf (p : ChannelPayload) (link slot : Byte) : Option ChannelConfig :=
  if hl : link.toNat < 8 then
    if hs : slot.toNat < 4 then
      match itemOf p.role.toNat (p.place.map (·.toNat)) with
      | some i =>
        if p.start.toNat ≤ 31 ∧ p.length.toNat ≤ 32 ∧ 100 ≤ p.stale.toNat ∧ p.stale.toNat ≤ 100000 then
          some { link := ⟨link.toNat, hl⟩, slot := ⟨slot.toNat, hs⟩, item := i, start := p.start.toNat,
                 length := p.length.toNat, signed := p.signed, gain := p.gain.toInt, offset := p.offset.toInt,
                 stale := p.stale.toNat }
        else none
      | none => none
    else none
  else none

/-- R33: the entry just bound. -/
def Channel.bound (c : ChannelConfig) : Channel :=
  { config := some c, state := .noData, held := none, rejects := 0, consecutive := 0, strip := none, lengthRef := none }

/-- R33: the use of the entry's former channel ends for its readers, and SENSOR_LINK_DOWN ends on its former link if no entry
is bound to that link any more (R30). -/
def leaveBinding (old : Option ChannelConfig) (s : State) : State :=
  match old with
  | none => s
  | some c =>
    let s := readersLose c.item s
    if s.boundTo c.link = [] then s.inactive Kind.sensorLinkDown c.link.val else s

/-- R33: the entry becomes UNBOUND with its running state emptied. -/
def unbindEntry (e : EntryNo) (s : State) : State :=
  leaveBinding s.channels[e].config (s.setChannel e .unbound)

/-- R33, R30: the entry takes its new binding and enters NO_DATA; SENSOR_LINK_DOWN is taken if the link is DOWN. -/
def bindEntry (e : EntryNo) (c : ChannelConfig) (s : State) : State :=
  let s := leaveBinding s.channels[e].config (s.setChannel e (.bound c))
  if s.links[c.link].mode = .down then raise Kind.sensorLinkDown c.link.val s else s

/-- R32, R33: CONFIGURE_CHANNEL. Of a request without a binding only the entry number is judged (DEDUCED,
notes/assumptions/16). -/
def doConfigureChannel (p : ChannelPayload) (s : State) : Answer × State :=
  if s.mode ≠ .config then (refuse .mode, s)
  else if h : p.entry.toNat < 32 then
    let e : EntryNo := ⟨p.entry.toNat, h⟩
    match p.binding with
    | none => (okWith [], unbindEntry e s)
    | some b =>
      match channelConfigOf p b.1 b.2 with
      | some c => if slotTaken s e c.link c.slot then (refuse .badValue, s) else (okWith [], bindEntry e c s)
      | none => (refuse .badValue, s)
  else (refuse .badValue, s)

/-! ### CONFIGURE_STAND -/

/-- R94: the record that a payload for stand k gives, where every parameter lies in its range. -/
def standParamsOf (k : Stand) (p : StandPayload) : Option StandParams :=
  let r : StandParams :=
    { modulus := p.modulus.toNat, zeroForce := p.zeroForce.toNat, offset := p.offset.toInt, gfb := p.gfb.toNat,
      gff := p.gff.toNat, gm := p.gm.toNat, trimLimit := p.trimLimit.toNat, stepLimit := p.stepLimit.toNat,
      deadband := p.deadband.toNat, moveBand := p.moveBand.toNat, posTimeout := p.posTimeout.toNat,
      bite := p.bite.toNat, limitValue := p.limitValue.toNat, limitScale := p.limitScale.toNat,
      unload := p.unload.toNat, openGap := p.openGap.toInt }
  if 1000 ≤ r.modulus ∧ r.modulus ≤ 20000 ∧ r.zeroForce ≤ 100000 ∧ -20000 ≤ r.offset ∧ r.offset ≤ 20000 ∧
      r.gfb ≤ 256 ∧ r.gff ≤ 256 ∧ r.gm ≤ (if k = 0 ∨ k = 5 then 64 else 0) ∧ r.trimLimit ≤ 2000 ∧
      1 ≤ r.stepLimit ∧ r.stepLimit ≤ 2000 ∧ r.deadband ≤ 50 ∧ 1 ≤ r.moveBand ∧ r.moveBand ≤ 500 ∧
      50 ≤ r.posTimeout ∧ r.posTimeout ≤ 5000 ∧ 100 ≤ r.bite ∧ r.bite ≤ 50000 ∧ 1 ≤ r.limitValue ∧
      r.limitScale ≤ 3 ∧ 5 ≤ r.unload ∧ r.unload ≤ 500 ∧ -100000 ≤ r.openGap ∧ r.openGap ≤ 400000 then some r
  else none

/-- R95, R113, R140: an accepted record of stand k. -/
def takeRecord (k : Stand) (r : StandParams) (s : State) : State :=
  let s := s.setStand k { s.stands[k] with
    params := some r, trim := 0, lastSent := none, counters := .zero, sum := 0, count := 0 }
  forceConditionsEnd k s

/-- The stand of a stand number, 1 to 6. -/
def standOf (n : Byte) : Option Stand := if h : 1 ≤ n.toNat ∧ n.toNat ≤ 6 then some ⟨n.toNat - 1, by omega⟩ else none

/-- R95: CONFIGURE_STAND. -/
def doConfigureStand (p : StandPayload) (s : State) : Answer × State :=
  if s.mode ≠ .config then (refuse .mode, s)
  else match standOf p.stand with
    | none => (refuse .badValue, s)
    | some k => match standParamsOf k p with
      | some r => (okWith [], takeRecord k r s)
      | none => (refuse .badValue, s)

/-! ### CONFIGURE_LINE -/

/-- R70: the line parameters that a payload gives, where every one lies in its range. -/
def lineParamsOf (p : LinePayload) : Option LineParams :=
  let r : LineParams :=
    { segLen := p.segLen.toNat, linkTimeout := p.linkTimeout.toNat, openTimeout := p.openTimeout.toNat,
      breakThreshold := p.breakThreshold.toNat, breakConfirm := p.breakConfirm.toNat,
      breakMinSpeed := p.breakMinSpeed.toNat, runLength := p.runLength.toNat }
  if 100000 ≤ r.segLen ∧ r.segLen ≤ 5000000 ∧ 500 ≤ r.linkTimeout ∧ r.linkTimeout ≤ 20000 ∧ 100 ≤ r.openTimeout ∧
      r.openTimeout ≤ 3000 ∧ r.breakThreshold ≤ 50000 ∧ 1 ≤ r.breakConfirm ∧ r.breakConfirm ≤ 50 ∧
      r.breakMinSpeed ≤ 40000 then some r
  else none

/-- R70: CONFIGURE_LINE. -/
def doConfigureLine (p : LinePayload) (s : State) : Answer × State :=
  if s.mode ≠ .config then (refuse .mode, s)
  else match lineParamsOf p with
    | some r => (okWith [], { s with line := r })
    | none => (refuse .badValue, s)

end Sys2Proof.Machine
end

