-- ==== Sys2Proof/Machine/ModeRequests.lean ====
section
/-! DEFINITION. The requests that change the mode (chapter 1): COMMIT_CONFIG (R7), CONFIG_OPEN (R8), THREAD (R9), RUN (R10),
STOP (R11), TRIP_RESET (R13, R154) and RESTART (R14). -/

namespace Sys2Proof.Machine

/-! ### COMMIT_CONFIG -/

/-- R7: the 27 required roles in order. -/
def requiredItems : List Item :=
  [.entryThick, .stand1Thick, .exitThick, .entryLength] ++ ((List.finRange 6).map .force ++
    ((List.finRange 6).map .gapPos ++ ((List.finRange 6).map .rollSpeed ++ (List.finRange 5).map .tension)))

/-- R7 check 1 at one role: ROLE_MISSING, or ROLE_DUPLICATE with the lowest-numbered entry holding it. -/
def roleRefusal (s : State) (i : Item) : Option Answer :=
  match s.entriesOf i with
  | [] => some (notReady 0 i.role (i.place.getD 0) 0)
  | [_] => none
  | e :: _ :: _ => some (notReady 1 i.role (i.place.getD 0) e.val)

/-- R7 check 2 at one stand: STAND_ABSENT or STAND_INCONSISTENT. -/
def standRefusal (s : State) (k : Stand) : Option Answer :=
  match s.stands[k].params with
  | none => some (notReady 2 (standLoc k) 0 0)
  | some p => if p.consistent then none else some (notReady 3 (standLoc k) 0 0)

/-- R7 check 3, R13, R154: FAULT_LATCHED names the lowest-numbered enabled tripping kind that is latched, and tells whether it
is active. -/
def latchRefusal (s : State) : Option Answer :=
  s.latchedTripping.map fun k => notReady 4 k.val (if s.faults[k].active.isEmpty then 0 else 1) 0

/-- R7: the first check that fails. -/
def commitRefusal (s : State) : Option Answer :=
  match requiredItems.findSome? (roleRefusal s) with
  | some a => some a
  | none => match (List.finRange 6).findSome? (standRefusal s) with
    | some a => some a
    | none => latchRefusal s

/-- R7: COMMIT_CONFIG. -/
def doCommitConfig (s : State) : Answer × State :=
  if s.mode ≠ .config then (refuse .mode, s)
  else match commitRefusal s with
    | some a => (a, s)
    | none => (okWith [], modeConditions (({ s with committed := true } : State).changeMode .ready .commitConfig))

/-! ### CONFIG_OPEN -/

/-- R92: WITHDRAWN for the pending schedules, in queue order, with the positions they held (DEDUCED,
notes/assumptions/17). -/
def withdrawPending (c : WithdrawCause) (s : State) : State :=
  (s.queue.zipIdx 1).foldl
    (fun (s : State) (e : Schedule × Nat) => s.append LogNo.schedule (.withdrawn e.1.tag c (.pending e.2))) s

/-- R92: WITHDRAWN for the schedules in force, in tag order. -/
def withdrawInForce (c : WithdrawCause) (s : State) : State :=
  s.tableByTag.foldl
    (fun (s : State) (e : InForce) => s.append LogNo.schedule (.withdrawn e.sched.tag c .inForce)) s

/-- R8, R14 step 2: the pending queue and the in-force table are emptied, with their WITHDRAWN entries. -/
def withdrawAll (c : WithdrawCause) (s : State) : State :=
  { withdrawInForce c (withdrawPending c s) with queue := [], table := [] }

/-- R8: CONFIG_OPEN. -/
def doConfigOpen (s : State) : Answer × State :=
  if s.mode ≠ .ready then (refuse .mode, s)
  else
    (okWith [], modeConditions ((withdrawAll .configOpen { s with committed := false }).changeMode .config .configOpen))

/-! ### THREAD -/

/-- R9 check 3: UNLINKED or FAULTED. -/
def actuatorLost (s : State) (k : Stand) : Bool := s.actuators[k].mode == .unlinked || s.actuators[k].mode == .faulted

/-- R9 check 4: the ready flag is clear or absent. -/
def actuatorUnready (s : State) (k : Stand) : Bool := s.actuators[k].readyFlag != some true

/-- R9 checks 3 and 4: the actuator named, with its state. -/
def actuatorRefusal (s : State) : Option Answer :=
  match (List.finRange 6).find? (actuatorLost s) with
  | some k => some (notReady 7 (standLoc k) s.actuators[k].mode.num 0)
  | none => ((List.finRange 6).find? (actuatorUnready s)).map fun k =>
      notReady 8 (standLoc k) s.actuators[k].mode.num 0

/-- R9: the effects of an accepted THREAD under the entry schedule e. The report is opened before the segment is counted in it
(DEDUCED, notes/assumptions/12). -/
def beginThread (e : InForce) (s : State) : State :=
  let s := { s with reports := s.reports ++ [CoilReport.fresh s.coilCounter e.sched.tag 0] }
  let s := startPoint PointNo.x0 s.time (addSegment 0 s)
  let s := forStands (threadStand e) s
  modeConditions (forStands threadHold (s.changeMode .thread .thread))

/-- R9: THREAD. -/
def doThread (s : State) : Answer × State :=
  if s.mode ≠ .ready then (refuse .mode, s)
  else if s.trip ≠ .normal then (notReady 5 s.trip.num 0 0, s)
  else match s.entrySchedule with
    | none => (notReady 6 0 0 0, s)
    | some e => match actuatorRefusal s with
      | some a => (a, s)
      | none => (okWith [], beginThread e s)

/-! ### RUN -/

/-- R10: the first unstarted point. -/
def unstartedPoint (s : State) : Option PointNo := (List.finRange 9).find? fun p => !s.points[p].started

/-- R10: RUN. -/
def doRun (s : State) : Answer × State :=
  if s.mode ≠ .thread then (refuse .mode, s)
  else match unstartedPoint s with
    | some p => (notReady 9 p.val 0 0, s)
    | none => (okWith [], modeConditions (forStands judgeAtRun (s.changeMode .run .run)))

/-! ### STOP -/

/-- R11 steps 6 and 7: the stands go to OFF and the actuators leave their moves. -/
def standsOff (s : State) : State := forStands actuatorAtStop (forStands (enterIdleMode .off) s)

/-- R11: STOP. -/
def doStop (s : State) : Answer × State :=
  if ¬ s.tracking then (refuse .mode, s)
  else (okWith [], modeConditions ((standsOff (clearTracking .discardedStop .stopped s)).changeMode .ready .stop))

/-! ### TRIP_RESET -/

/-- R154: the trip state becomes NORMAL, with its fault log entry; the opened set becomes empty and HARD_STOP is released. -/
def tripEnds (s : State) : State :=
  let s := { s with trip := .normal, opened := Vector.replicate 6 false, hardStop := false }
  match s.firstOut with
  | some f => s.append LogNo.fault (.tripState .normal f.kind f.location (some f.subsequent))
  | none => s

/-- R13, R154: the effects of an accepted TRIP_RESET. -/
def resetTrip (s : State) : State :=
  let s := clearTracking .discardedTrip .tripped (tripEnds s)
  let s := forStands actuatorAtTripReset (forStands (enterIdleMode .off) s)
  modeConditions (s.changeMode .ready .tripReset)

/-- R13: TRIP_RESET. -/
def doTripReset (s : State) : Answer × State :=
  if s.mode ≠ .tripped then (refuse .mode, s)
  else if s.trip = .opening then (refuse .tripActive, s)
  else match latchRefusal s with
    | some a => (a, s)
    | none => (okWith [], resetTrip s)

/-! ### RESTART -/

/-- R14 step 1: tracking is cleared as in R11 steps 1 to 3 and 5. -/
def restartTracking (s : State) : State :=
  unstartPoints (cancelTransitions (closeAllReports .stopped (releaseAll .discardedStop s)))

/-- R115: the monitor trim of a stand set to 0. -/
def zeroTrim (k : Stand) (s : State) : State := s.setStand k { s.stands[k] with trim := 0 }

/-- R14 step 5: the notice queue is emptied; the notices removed are not counted as lost. -/
def emptyNotices (s : State) : State :=
  { s with port := { s.port with
      notices := [], waiting := s.port.waiting.map fun (w : Waiting) => { w with ahead := 0 } } }

/-- R14 step 6: the resulting mode. -/
def restartMode (s : State) : Mode := if s.committed then .ready else .config

/-- R14: the effects of an accepted RESTART; conditions are evaluated where the mode changes (DEDUCED, notes/assumptions/18). -/
def restart (s : State) : State :=
  let s1 := if s.tracking then restartTracking s else s
  let s2 := forStands zeroTrim (standsOff (withdrawAll .restart s1))
  let s3 := (emptyNotices { s2 with runState := none }).changeMode (restartMode s) .restart
  if restartMode s = s.mode then s3 else modeConditions s3

/-- R14: RESTART. -/
def doRestart (s : State) : Answer × State :=
  if s.mode = .tripped then (refuse .tripActive, s) else (okWith [], restart s)

end Sys2Proof.Machine
end

