-- ==== Sys2Proof/Machine/ScheduleRequests.lean ====
section
/-! DEFINITION. SCHEDULE_LOAD (R72, R73, R75 to R77), SCHEDULE_WITHDRAW (R78) and SCHEDULE_QUERY (R79). -/

namespace Sys2Proof.Machine

/-! ### Loading -/

/-- The targets of one stand block; the gap fields are signed (section 11.3.8). -/
def targetsOf (b : StandBlock) : StandTargets :=
  { h := b.h.toNat, sset := b.sset.toInt, smin := b.smin.toInt, smax := b.smax.toInt, q := b.q.toNat, slip := b.f.toNat }

/-- The mark mode of a schedule: 1 LOGGED, 2 QUIET. -/
def markOf (b : Byte) : Option MarkMode := if b = 1 then some .logged else if b = 2 then some .quiet else none

/-- R72: the schedule record of a payload under a tag; the mark mode has been checked. -/
def recordOf (p : SchedulePayload) (take : TakeMode) (tag : Nat) (mark : MarkMode) : Schedule :=
  { tag := tag, take := take, h0 := p.h0.toNat,
    stands := #v[targetsOf p.stands[0], targetsOf p.stands[1], targetsOf p.stands[2], targetsOf p.stands[3],
      targetsOf p.stands[4], targetsOf p.stands[5]],
    ramp := p.ramp.toNat, tol := p.tol.toNat, bin := p.bin.toNat, mark := mark }

/-- R72: h_(k−1) of a record, with h_0 = H0. -/
def Schedule.before (c : Schedule) (k : Stand) : Int :=
  if h : k.val = 0 then c.h0 else (c.stands[k.val - 1]'(by omega)).h

/-- R73 checks 3 to 5 at stand k: the exit target, the gap limits against the stand's open gap, the modulus and the slip. An
absent stand record fails check 4 (DEDUCED, notes/assumptions/26). -/
def standValid (s : State) (c : Schedule) (k : Stand) : Bool :=
  let t := c.stands[k]
  let within (x : Int) : Bool := decide (-300000 ≤ x ∧ x ≤ 400000)
  decide (500 ≤ t.h ∧ t.h ≤ c.before k) &&
    (within t.smin && within t.sset && within t.smax && decide (t.smin ≤ t.sset ∧ t.sset ≤ t.smax)) &&
    (match s.stands[k].params with
     | some p => decide (t.smax < p.openGap)
     | none => false) &&
    decide (500 ≤ t.q ∧ t.q ≤ 50000 ∧ 0 ≤ t.slip ∧ t.slip ≤ 150)

/-- R73: the record is valid against the stand parameters as they stand (the tag, the take mode and the mark mode are checked
where the record is made). -/
def Schedule.valid (s : State) (c : Schedule) : Bool :=
  decide (1000 ≤ c.h0 ∧ c.h0 ≤ 60000) && (List.finRange 6).all (standValid s c) &&
    decide (c.ramp ≤ 16 ∧ 1 ≤ c.tol ∧ c.tol ≤ 1000 ∧ 1 ≤ c.bin ∧ c.bin ≤ 200)

/-- R75 check 4: the valid record of a payload whose tag is 0..31 or 255; the record holds the payload's tag number. -/
def validRecord (s : State) (p : SchedulePayload) (take : TakeMode) : Option Schedule :=
  match markOf p.mark with
  | some m =>
    let c := recordOf p take p.tag.toNat m
    if (p.tag.toNat ≤ 31 ∨ p.tag.toNat = 255) ∧ c.valid s then some c else none
  | none => none

/-- R75 checks 5 and 6, R76: the tag a load receives; `none` is TAG_IN_USE. -/
def loadTag (s : State) (t : Nat) : Option Nat :=
  if t = 255 then s.freeTag else if s.tagInUse t then none else some t

/-- R77: an accepted load is placed and logged. -/
def placeSchedule (c : Schedule) (s : State) : Answer × State :=
  match c.take with
  | .now =>
    let entry : InForce := { sched := c, isEntry := true, refs := 0, base := none }
    let s := { s with table := s.table ++ [entry] }
    (okWith (nat8 c.tag ++ placeBytes .inForce), s.append LogNo.schedule (.loaded c.tag c.take .inForce))
  | .atWeld =>
    let s := { s with queue := s.queue ++ [c] }
    let place : Place := .pending s.queue.length
    (okWith (nat8 c.tag ++ placeBytes place), s.append LogNo.schedule (.loaded c.tag c.take place))

/-- R75 checks 4 to 7, then R76 and R77. -/
def loadRecord (take : TakeMode) (p : SchedulePayload) (s : State) : Answer × State :=
  match validRecord s p take with
  | none => (refuse .badValue, s)
  | some c => match loadTag s c.tag with
    | none => (refuse .tagInUse, s)
    | some t =>
      if take = .atWeld ∧ Config.queueCapacity ≤ s.queue.length then (refuse .queueFull, s)
      else placeSchedule { c with tag := t } s

/-- R75: SCHEDULE_LOAD with take mode NOW. -/
def doLoadNow (p : SchedulePayload) (s : State) : Answer × State :=
  if s.mode ≠ .ready ∨ s.entrySchedule.isSome then (refuse .mode, s) else loadRecord .now p s

/-- R75: SCHEDULE_LOAD with take mode AT_WELD. -/
def doLoadAtWeld (p : SchedulePayload) (s : State) : Answer × State :=
  if s.mode = .config then (refuse .mode, s) else loadRecord .atWeld p s

/-- R75: SCHEDULE_LOAD as its payload gives it; a take mode that is neither fails check 4. -/
def doScheduleLoad (take : Byte) (p : SchedulePayload) (s : State) : Answer × State :=
  if take = 0 then doLoadNow p s
  else if take = 1 then doLoadAtWeld p s
  else if s.mode = .config then (refuse .mode, s)
  else (refuse .badValue, s)

/-! ### Withdrawing and querying -/

/-- The queue position of a tag, 1 being the head. -/
def queuePosition (s : State) (t : Nat) : Nat := s.queue.findIdx (·.tag == t) + 1

/-- R78: SCHEDULE_WITHDRAW. -/
def doWithdraw (tag : Byte) (s : State) : Answer × State :=
  let t := tag.toNat
  if 31 < t then (refuse .badValue, s)
  else if ¬ s.tagInUse t then (refuse .noSuchTag, s)
  else if s.table.any (·.sched.tag == t) then (⟨.inForce, nat8 t⟩, s)
  else
    let pos := queuePosition s t
    let s := { s with queue := s.queue.filter (·.tag ≠ t) }
    (okWith (nat8 s.queue.length), s.append LogNo.schedule (.withdrawn t .request (.pending pos)))

/-- R79: SCHEDULE_QUERY. -/
def doScheduleQuery (tag : Byte) (s : State) : Answer × State :=
  let t := tag.toNat
  if 31 < t then (refuse .badValue, s)
  else match s.inForce t with
    | some e => (okWith (inForceFields s e), s)
    | none => match s.queue.find? (·.tag == t) with
      | some c => (okWith (recordBytes c ++ ([0] ++ nat8 (queuePosition s t))), s)
      | none => (refuse .noSuchTag, s)

end Sys2Proof.Machine
end

