-- ==== Sys2Proof/Machine/FaultRequests.lean ====
section
/-! DEFINITION. The requests on the fault table (R145 to R148): FAULT_POLICY, FAULT_CLEAR, COUNT_RESET and FAULT_QUERY. -/

namespace Sys2Proof.Machine

/-- The kind of a kind number, 0 to 21. -/
def kindOf (n : Byte) : Option Kind := if h : n.toNat < 22 then some ⟨n.toNat, h⟩ else none

/-- R146, R147: a set names a kind above 21 (bits 22 and 23). -/
def namesUnknown (ks : BitVec 24) : Bool := ks.getLsbD 22 || ks.getLsbD 23

/-- A set names kind k. -/
def names (ks : BitVec 24) (k : Kind) : Bool := ks.getLsbD k.val

/-- R145: a severity: 0 NON_TRIPPING, 1 TRIPPING. -/
def severityOf (b : Byte) : Option Bool := if b = 0 then some false else if b = 1 then some true else none

/-- R145: the policy of a kind is replaced. -/
def State.setPolicy (s : State) (k : Kind) (p : Policy) : State := { s with policy := s.policy.set k p }

/-- R145: FAULT_POLICY. -/
def doFaultPolicy (kind : Byte) (enable : Bool) (severity : Byte) (s : State) : Answer × State :=
  match kindOf kind, severityOf severity with
  | some k, some t =>
    let p : Policy := ⟨enable, t⟩
    if fixedKind k ∧ p ≠ s.policy[k] then (refuse .policyFixed, s)
    else if s.faults[k].latched ∧ p ≠ s.policy[k] then (⟨.latched, nat8 k.val⟩, s)
    else
      let s := s.setPolicy k p
      (okWith (nat8 k.val ++ policyByte s k), s)
  | _, _ => (refuse .badValue, s)

/-- R146: what FAULT_CLEAR does to one listed entry: a latch without an active location is cleared. -/
def FaultEntry.cleared (e : FaultEntry) : FaultEntry :=
  if e.latched ∧ e.active = [] then { e with latched := false, first := none } else e

/-- R146: the listed kinds are handled one by one. -/
def clearKinds (ks : BitVec 24) (s : State) : State :=
  (List.finRange 22).foldl
    (fun (s : State) (k : Kind) => if names ks k then s.setFault k s.faults[k].cleared else s) s

/-- R146, R150: the first-out record is cleared with its kind while the trip state is NORMAL. -/
def clearFirstOut (ks : BitVec 24) (s : State) : State :=
  match s.firstOut with
  | some f => if s.trip = .normal ∧ names ks f.kind ∧ ¬ s.faults[f.kind].latched then { s with firstOut := none } else s
  | none => s

/-- R146: FAULT_CLEAR. -/
def doFaultClear (ks : BitVec 24) (s : State) : Answer × State :=
  if namesUnknown ks then (refuse .badValue, s)
  else
    let s := clearFirstOut ks (clearKinds ks s)
    (okWith (kindSet (fun k => names ks k && s.faults[k].latched) ++ s.latchedSet), s)

/-- R147: the counts of the listed kinds become 0. -/
def resetCounts (ks : BitVec 24) (s : State) : State :=
  (List.finRange 22).foldl
    (fun (s : State) (k : Kind) => if names ks k then s.setFault k { s.faults[k] with count := 0 } else s) s

/-- R147: COUNT_RESET. -/
def doCountReset (ks : BitVec 24) (s : State) : Answer × State :=
  if namesUnknown ks then (refuse .badValue, s) else (okWith [], resetCounts ks s)

/-- R148: FAULT_QUERY. -/
def doFaultQuery (kind : Byte) (s : State) : Answer × State :=
  match kindOf kind with
  | some k => (okWith (faultFields s k), s)
  | none => (refuse .badValue, s)

end Sys2Proof.Machine
end

