-- ==== Sys2Proof/Machine/TrackRequests.lean ====
section
/-! DEFINITION. SEGMENT_QUERY (R69) and SEGMENT_MARK (R162, R163). -/

namespace Sys2Proof.Machine

/-! ### SEGMENT_QUERY -/

/-- What a selector names: `none` is BAD_VALUE, `some none` is NOT_TRACKED (R69). -/
def selectSegment (s : State) (selector : Byte) (arg : BitVec 32) : Option (Option Segment) :=
  if selector = 0 then some (s.segment arg)
  else if selector = 1 then
    if h : arg.toNat < 9 then
      let p : Point := s.points[arg.toNat]
      some (if p.started then s.segment p.cursor else none)
    else none
  else if selector = 2 then some s.ring.head?
  else if selector = 3 then some s.openSegment
  else none

/-- R69: the fields of a SEGMENT_QUERY reply for segment g. -/
def segmentFields (s : State) (g : Segment) : List Byte :=
  segmentBytes g ++
    (ringFields s ((s.ring.head?.map (·.number)).getD 0) ((s.ring.getLast?.map (·.number)).getD 0) ++
      s.points.toList.flatMap pointFields)

/-- R69: SEGMENT_QUERY. -/
def doSegmentQuery (selector : Byte) (arg : BitVec 32) (s : State) : Answer × State :=
  match selectSegment s selector arg with
  | none => (refuse .badValue, s)
  | some none => (refuse .notTracked, s)
  | some (some g) => (okWith (segmentFields s g), s)

/-! ### SEGMENT_MARK -/

/-- R163: how many numbers the range holds: the count given, or, for a count of 0, up to the newest segment of the first
segment's coil. -/
def markLength (s : State) (g : Segment) (count : BitVec 16) : Nat :=
  if count = 0 then
    match (s.ring.filter (·.coil == g.coil)).getLast? with
    | some x => (x.number - g.number).toNat + 1
    | none => 0
  else count.toNat

/-- R163: segment x lies in a range of n numbers from a first one. -/
def inMarkRange (first : SegNo) (n : Nat) (x : Segment) : Bool := decide ((x.number - first).toNat < n)

/-- R163: the manual mark of every ring segment of the range is set or cleared. -/
def markRange (first : SegNo) (n : Nat) (mark : Bool) (s : State) : State :=
  { s with ring := s.ring.map fun (x : Segment) => if inMarkRange first n x then { x with manual := mark } else x }

/-- R163: the last segment acted on. -/
def lastMarked (s : State) (first : SegNo) (n : Nat) : SegNo :=
  match (s.ring.filter (inMarkRange first n)).getLast? with
  | some x => x.number
  | none => first

/-- R162, R163: SEGMENT_MARK with its action and mode checked; `mark` is SET. -/
def markSegments (first : SegNo) (count : BitVec 16) (mark : Bool) (mode : MarkMode) (s : State) : Answer × State :=
  match s.segment first with
  | none => (refuse .notTracked, s)
  | some g =>
    let n := markLength s g count
    let acted := (s.ring.filter (inMarkRange first n)).length
    let last := lastMarked s first n
    let s := markRange first n mark s
    let s := if mark ∧ mode = .logged then s.append LogNo.defect (.manual g.coil first last acted) else s
    (okWith (nat16 acted ++ nat16 (n - acted)), s)

/-- R162: SEGMENT_MARK with action SET. -/
def doMarkSet (first : BitVec 32) (count : BitVec 16) (mode : Byte) (s : State) : Answer × State :=
  match markOf mode with
  | some m => markSegments first count true m s
  | none => (refuse .badValue, s)

/-- R162: SEGMENT_MARK with action CLEAR. -/
def doMarkClear (first : BitVec 32) (count : BitVec 16) (mode : Byte) (s : State) : Answer × State :=
  match markOf mode with
  | some m => markSegments first count false m s
  | none => (refuse .badValue, s)

/-- R162: SEGMENT_MARK as its payload gives it. -/
def doSegmentMark (first : BitVec 32) (count : BitVec 16) (action mode : Byte) (s : State) : Answer × State :=
  if action = 0 then doMarkSet first count mode s
  else if action = 1 then doMarkClear first count mode s
  else (refuse .badValue, s)

end Sys2Proof.Machine
end

