-- ==== Sys2Proof/Machine/LinkRequests.lean ====
section
/-! DEFINITION. CHANNEL_READ (R188), LINK_STATUS (R189) and the four actions of LINK_CONTROL (R22, R25, R27, R28). -/

namespace Sys2Proof.Machine

/-- The entry of an entry number, 0 to 31. -/
def entryNoOf (n : Byte) : Option EntryNo := if h : n.toNat < 32 then some ⟨n.toNat, h⟩ else none

/-- The link of a link number, 0 to 7. -/
def linkNoOf (n : Byte) : Option LinkNo := if h : n.toNat < 8 then some ⟨n.toNat, h⟩ else none

/-- R188: CHANNEL_READ. -/
def doChannelRead (entry : Byte) (s : State) : Answer × State :=
  match entryNoOf entry with
  | some e => (okWith (channelFields s e), s)
  | none => (refuse .badValue, s)

/-- R189: LINK_STATUS. -/
def doLinkStatus (link : Byte) (s : State) : Answer × State :=
  match linkNoOf link with
  | some l => (okWith (linkFields s l), s)
  | none => (refuse .badValue, s)

/-! ### LINK_CONTROL -/

/-- R24, R25, R28: RETRAIN of link l. -/
def retrainAction (l : LinkNo) (s : State) : State :=
  match s.links[l].mode with
  | .disabled => s
  | .down => s
  | .training => s.setLink l { s.links[l] with training := 0 }
  | .up => retrainLink l .requestedRetrain s

/-- R27: DISABLE of link l. -/
def disableAction (l : LinkNo) (s : State) : State :=
  if s.links[l].mode = .disabled then s else linkLost l .disabled .disabled s

/-- R27, R30: ENABLE of link l: from DISABLED to DOWN, SENSOR_LINK_DOWN taken if an entry is bound to it (before the
notice: DEDUCED, notes/assumptions/13). -/
def enableAction (l : LinkNo) (s : State) : State :=
  if s.links[l].mode = .disabled then
    let s := s.setLink l { s.links[l] with mode := .down }
    let s := if s.boundTo l ≠ [] then raise Kind.sensorLinkDown l.val s else s
    notifyLink l .disabled .enabled s
  else s

/-- R22: CLEAR_COUNTERS of link l. -/
def clearAction (l : LinkNo) (s : State) : State :=
  s.setLink l { s.links[l] with good := 0, crcErrors := 0, gaps := 0 }

/-- R28: an action on a link, and the reply with the link's state after it. -/
def linkAction (f : LinkNo → State → State) (link : Byte) (s : State) : Answer × State :=
  match linkNoOf link with
  | some l => (okWith (nat8 l.val ++ nat8 (f l s).links[l].mode.num), f l s)
  | none => (refuse .badValue, s)

/-- R28: LINK_CONTROL with action RETRAIN. -/
def doRetrain (link : Byte) (s : State) : Answer × State := linkAction retrainAction link s

/-- R28: LINK_CONTROL with action DISABLE. -/
def doDisable (link : Byte) (s : State) : Answer × State := linkAction disableAction link s

/-- R28: LINK_CONTROL with action ENABLE. -/
def doEnable (link : Byte) (s : State) : Answer × State := linkAction enableAction link s

/-- R28: LINK_CONTROL with action CLEAR_COUNTERS. -/
def doClearCounters (link : Byte) (s : State) : Answer × State := linkAction clearAction link s

/-- R28: LINK_CONTROL as its payload gives it. -/
def doLinkControl (link action : Byte) (s : State) : Answer × State :=
  if action = 0 then doRetrain link s
  else if action = 1 then doDisable link s
  else if action = 2 then doEnable link s
  else if action = 3 then doClearCounters link s
  else (refuse .badValue, s)

end Sys2Proof.Machine
end

