-- ==== Sys2Proof/Machine/LogRequests.lean ====
section
/-! DEFINITION. LOG_READ (R173 to R175), LOG_WRITE (R176), LOG_CLEAR (R177), STATUS (R187) and IDENTIFY (R190). -/

namespace Sys2Proof.Machine

/-- The log of a log number, 1 to 5. -/
def logNoOf (n : Byte) : Option LogNo := if h : 1 ≤ n.toNat ∧ n.toNat ≤ 5 then some ⟨n.toNat - 1, by omega⟩ else none

/-! ### LOG_READ -/

/-- R174: the distance back of a first sequence. -/
def Log.distance (g : Log) (first : BitVec 32) : Nat := (g.next - first).toNat

/-- R174: the GAP flag: the first sequence is older. -/
def Log.isOlder (g : Log) (first : BitVec 32) : Bool :=
  decide (g.entries.length < g.distance first ∧ g.distance first ≤ 2 ^ 31)

/-- R174: the entries from the start that the first sequence gives, up to the newest. -/
def Log.since (g : Log) (first : BitVec 32) : List LogEntry :=
  let d := g.distance first
  if 1 ≤ d ∧ d ≤ g.entries.length then g.entries.drop (g.entries.length - d)
  else if g.isOlder first then g.entries
  else []

/-- R175: the range of a read. -/
def Log.range (g : Log) (first : BitVec 32) (count : Nat) : List LogEntry :=
  if count = 0 then g.since first else (g.since first).take count

/-- R175: the fields of a LOG_READ reply. -/
def logFields (s : State) (g : LogNo) (first : BitVec 32) (count : Nat) : List Byte :=
  let log := s.logs[g]
  let range := log.range first count
  let carried := range.take Config.logReplyLimit[g]
  nat8 (g.val + 1) ++ (flag8 (log.isOlder first) ++ (nat8 carried.length ++ (nat16 (range.length - carried.length) ++
    (bytes32 log.next ++ carried.flatMap LogEntry.bytes))))

/-- R173: the fields of a LOG_READ reply for log 0. Log 0 has no sequence counter: its next-sequence field is a free value
(DESIGN CHOICE, notes/assumptions/3). -/
def directoryFields (s : State) : List Byte :=
  nat8 0 ++ (flag8 false ++ (nat8 5 ++ (nat16 0 ++ (bytes32 (Config.directoryNextSequence s.freeIndex) ++
    (List.finRange 5).flatMap (directoryEntry s)))))

/-- R173 to R175: LOG_READ. -/
def doLogRead (log : Byte) (first : BitVec 32) (count : BitVec 16) (s : State) : Answer × State :=
  if log = 0 then (okWith (directoryFields s), { s with freeIndex := s.freeIndex + 1 })
  else match logNoOf log with
    | some g => (okWith (logFields s g first count.toNat), s)
    | none => (refuse .badValue, s)

/-! ### LOG_WRITE and LOG_CLEAR -/

/-- R176: LOG_WRITE. -/
def doLogWrite (log : Byte) (text : List Byte) (s : State) : Answer × State :=
  if 5 < log.toNat then (refuse .badValue, s)
  else if log.toNat < 5 then (refuse .readOnly, s)
  else if 1 ≤ text.length ∧ text.length ≤ 32 then
    (okWith (bytes32 s.logs[LogNo.note].next ++ bytes32 s.logTime), s.append LogNo.note (.note text))
  else (refuse .badValue, s)

/-- R177: LOG_CLEAR. -/
def doLogClear (log : Byte) (s : State) : Answer × State :=
  if log = 0 then (refuse .readOnly, s)
  else match logNoOf log with
    | some g =>
      (okWith (nat8 s.logs[g].entries.length ++ bytes32 s.logs[g].next), s.setLog g { s.logs[g] with entries := [] })
    | none => (refuse .badValue, s)

/-! ### STATUS and IDENTIFY -/

/-- R187: STATUS. -/
def doStatus (s : State) : Answer × State := (okWith (statusFields s), s)

/-- R190: IDENTIFY. -/
def doIdentify (s : State) : Answer × State := (okWith identityFields, s)

end Sys2Proof.Machine
end

