-- ==== Sys2Proof/Machine/Port.lean ====
section
/-! DEFINITION. The Supervisor Port (chapter 10): the transmitter (R185), taking a request (R181, R182), the receive queue
(R180), the receiver (R179) and the counters (R186). -/

namespace Sys2Proof.Machine

/-! ### Counters (R186) -/

def State.setPort (s : State) (p : Port) : State := { s with port := p }

/-- Rewrite the port's counters. -/
def State.count (s : State) (f : PortCounters → PortCounters) : State :=
  s.setPort { s.port with counters := f s.port.counters }

def PortCounters.countGood (c : PortCounters) : PortCounters := { c with good := satAdd c.good 1 Config.top16 }

def PortCounters.countCrc (c : PortCounters) : PortCounters := { c with crcErrors := satAdd c.crcErrors 1 Config.top16 }

def PortCounters.countLength (c : PortCounters) : PortCounters :=
  { c with lengthErrors := satAdd c.lengthErrors 1 Config.top16 }

def PortCounters.countOverflow (c : PortCounters) : PortCounters :=
  { c with overflow := satAdd c.overflow 1 Config.top16 }

/-- R186: a reply or a notice sent in full. -/
def PortCounters.countSent (c : PortCounters) (isReply : Bool) : PortCounters :=
  if isReply then { c with replies := satAdd c.replies 1 Config.top16 }
  else { c with notices := satAdd c.notices 1 Config.top16 }

/-! ### The transmitter (R185) -/

/-- R185: begin the notice at the head of the queue, which leaves the queue; the waiting reply has one fewer ahead of it. -/
def Port.beginNotice (p : Port) : Port :=
  match p.notices with
  | [] => p
  | n :: rest =>
    { p with
      notices := rest
      sending := some ⟨false, n.frame⟩
      waiting := p.waiting.map fun (w : Waiting) => { w with ahead := w.ahead - 1 } }

/-- R185: a free transmitter chooses the next frame: the waiting reply when no notice stands ahead of it any more, otherwise
the notice at the head of the queue. -/
def Port.beginNext (p : Port) : Port :=
  match p.sending with
  | some _ => p
  | none => match p.waiting with
    | some w =>
      if w.ahead = 0 ∨ p.notices = [] then { p with waiting := none, sending := some ⟨true, w.reply.frame⟩ }
      else p.beginNotice
    | none => p.beginNotice

/-- What has happened by itself since the last step: a free transmitter has begun its next frame, and the commands of the
last step have gone out on the actuator links. DESIGN CHOICE, notes/assumptions/5. -/
def State.stepStart (s : State) : State := { s with port := s.port.beginNext, sent := [] }

/-! ### Taking a request (R181, R182) -/

/-- R181: a reply is still to be sent, or not yet sent in full. -/
def Port.busy (p : Port) : Bool :=
  p.waiting.isSome || (match p.sending with
    | some f => f.isReply
    | none => false)

/-- R182: the type of the reply to a frame of some type. -/
def replyType (typ : Byte) : Byte := if 1 ≤ typ.toNat ∧ typ.toNat ≤ 0x3F then typ + 0x40 else 0x40

/-- R181, R185: the reply waits behind every notice queued by the end of the step. -/
def reply (typ num : Byte) (r : Answer × State) : State :=
  r.2.setPort { r.2.port with
    waiting := some ⟨⟨replyType typ, num, r.1.code, r.1.fields⟩, r.2.port.notices.length⟩ }

/-- R181, R182: UNKNOWN_TYPE; a type outside 01h to 3Fh is named in the reply. -/
def unknownAnswer (typ : Byte) : Answer :=
  ⟨.unknownType, if 1 ≤ typ.toNat ∧ typ.toNat ≤ 0x3F then [] else [typ]⟩

/-- R181 checks 3 and 4: each request's own rule. -/
def handle (r : Request) (s : State) : Answer × State :=
  match r with
  | .configureChannel p => doConfigureChannel p s
  | .configureStand p => doConfigureStand p s
  | .configureLine p => doConfigureLine p s
  | .commitConfig => doCommitConfig s
  | .configOpen => doConfigOpen s
  | .thread => doThread s
  | .run => doRun s
  | .stop => doStop s
  | .tripReset => doTripReset s
  | .restart => doRestart s
  | .scheduleLoad t p => doScheduleLoad t p s
  | .scheduleWithdraw t => doWithdraw t s
  | .scheduleQuery t => doScheduleQuery t s
  | .faultPolicy k e v => doFaultPolicy k e v s
  | .faultClear ks => doFaultClear ks s
  | .countReset ks => doCountReset ks s
  | .faultQuery k => doFaultQuery k s
  | .segmentQuery sel a => doSegmentQuery sel a s
  | .segmentMark f c a m => doSegmentMark f c a m s
  | .channelRead e => doChannelRead e s
  | .linkStatus l => doLinkStatus l s
  | .linkControl l a => doLinkControl l a s
  | .logRead g f c => doLogRead g f c s
  | .logWrite g t => doLogWrite g t s
  | .logClear g => doLogClear g s
  | .status => doStatus s
  | .identify => doIdentify s

/-- R181: what a frame that is taken gets for an answer. -/
def answerFrame (f : Frame) (s : State) : Answer × State :=
  match parseRequest f.typ f.payload with
  | .unknownType => (unknownAnswer f.typ, s)
  | .malformed => (refuse .malformed, s)
  | .request r => handle r s

/-- R181: the frame at the head of the receive queue is taken when no reply is still to be sent; its place is free at once
(R180). -/
def takeNext (s : State) : State :=
  if s.port.busy then s
  else match s.port.queue with
    | [] => s
    | f :: rest => reply f.typ f.num (answerFrame f (s.setPort { s.port with queue := rest }))

/-! ### The receive queue and the receiver -/

/-- R180: a good frame joins the tail of the receive queue, or is discarded where the queue holds 4. -/
def enqueue (f : Frame) (s : State) : State :=
  if s.port.queue.length < Config.rxCapacity then s.setPort { s.port with queue := s.port.queue ++ [f] }
  else s.count PortCounters.countOverflow

/-- R179 to R181: a good frame arrives; it is taken at once when no reply is still to be sent. -/
def acceptGood (f : Frame) (s : State) : State := takeNext (enqueue f (s.count PortCounters.countGood))

/-- R179: what the receiver does with what it found. -/
def takeRx (s : State) (e : RxEvent) : State :=
  match e with
  | .lengthError => s.count PortCounters.countLength
  | .crcError => s.count PortCounters.countCrc
  | .good t n p => acceptGood ⟨t, n, p⟩ s

/-- R179: bytes arrive on the supervisor link. -/
def supervisorBytes (bytes : List Byte) (s : State) : State :=
  let buf := s.port.rx ++ bytes
  let r := huntSupervisor buf.length buf
  r.1.foldl takeRx (s.setPort { s.port with rx := r.2 })

/-- R185, R186: the frame being sent is complete: it is counted, the next frame is chosen, and after a reply the next request
is taken, in this order (DEDUCED, notes/assumptions/6). -/
def completeFrame (s : State) : State :=
  match s.port.sending with
  | none => s
  | some f =>
    let s := s.count (·.countSent f.isReply)
    let s := s.setPort ({ s.port with sending := none } : Port).beginNext
    if f.isReply then takeNext s else s

/-- A request command: the arrival of a good frame that carries the request. It is taken at once when nothing stands before
it; otherwise it waits in the receive queue (R180). DEDUCED, notes/assumptions/4. -/
def arrives (r : Request) (n : Byte) (act : State → Answer × State) (s : State) : State :=
  if s.port.busy ∨ s.port.queue ≠ [] then acceptGood ⟨requestType r, n, requestPayload r⟩ s
  else reply (requestType r) n (act (s.count PortCounters.countGood))

end Sys2Proof.Machine
end

