-- ==== Sys2Proof/Machine/FieldCommands.lean ====
section
/-! DEFINITION. The meanings of the field events: frames and timers of the sensor links, the actuator links and the two
discrete inputs. -/

namespace Sys2Proof.Machine

/-- SENSOR_FRAME (R19): bytes on sensor link l. -/
def execSensorFrame (l : LinkNo) (bytes : List Byte) (order : ReaderOrder) (s : State) : Host.Outcome State Fault Refusal :=
  .next (sensorBytes l bytes order s.stepStart)

/-- FRAME_TIMER_EXPIRY (R20); no effect on a timer that has not reached the link timeout. -/
def execFrameTimerExpiry (l : LinkNo) (s : State) : Host.Outcome State Fault Refusal :=
  .next (frameTimerExpires l s.stepStart)

/-- STALE_EXPIRY (R40); no effect on an entry whose age has not reached the limit. -/
def execStaleExpiry (e : EntryNo) (s : State) : Host.Outcome State Fault Refusal :=
  .next (staleExpires e s.stepStart)

/-- INVALID_EXPIRY (R40); no effect on an entry whose age has not reached the limit. -/
def execInvalidExpiry (e : EntryNo) (s : State) : Host.Outcome State Fault Refusal :=
  .next (invalidExpires e s.stepStart)

/-- WELD_DETECT (R64, R65). -/
def execWeldDetect (s : State) : Host.Outcome State Fault Refusal :=
  .next (weldPulse s.stepStart)

/-- UNLOAD_TIMER_EXPIRY (R103); no effect on a timer that is not due. -/
def execUnloadTimerExpiry (k : Stand) (s : State) : Host.Outcome State Fault Refusal :=
  .next (unloadTimerExpires k s.stepStart)

/-- ACK (R118, R121, R123): the frame of an ACK arrives on actuator link k. -/
def execAck (k : Stand) (ready : Bool) (s : State) : Host.Outcome State Fault Refusal :=
  .next (actuatorBytes k (statusFrameBytes 0x81 (if ready then 1 else 0)) s.stepStart)

/-- FAULT_STATUS (R118, R123): the frame of a FAULT arrives on actuator link k. -/
def execFaultStatus (k : Stand) (code : Byte) (s : State) : Host.Outcome State Fault Refusal :=
  .next (actuatorBytes k (statusFrameBytes 0x82 code) s.stepStart)

/-- OPEN_CONFIRMED (R118, R128): the frame of an OPEN_CONFIRMED arrives on actuator link k. -/
def execOpenConfirmed (k : Stand) (s : State) : Host.Outcome State Fault Refusal :=
  .next (actuatorBytes k (statusFrameBytes 0x83 0) s.stepStart)

/-- ACTUATOR_BAD_FRAME (R118, R193): bytes on actuator link k that make a frame failing its check. -/
def execActuatorBadFrame (k : Stand) (bytes : List Byte) (s : State) : Host.Outcome State Fault Refusal :=
  .next (actuatorBytes k bytes s.stepStart)

/-- REPLY_TIMER_EXPIRY (R121, R122); no effect on a timer that is not due. -/
def execReplyTimerExpiry (k : Stand) (s : State) : Host.Outcome State Fault Refusal :=
  .next (replyTimerExpires k s.stepStart)

/-- KEEP_ALIVE (R119); no effect where the command is not due. -/
def execKeepAlive (k : Stand) (s : State) : Host.Outcome State Fault Refusal :=
  .next (keepsAlive k s.stepStart)

/-- POSITIONING_TIMER_EXPIRY (R126); no effect on a timer that is not due. -/
def execPositioningTimerExpiry (k : Stand) (s : State) : Host.Outcome State Fault Refusal :=
  .next (positioningTimerExpires k s.stepStart)

/-- OPEN_TIMER_EXPIRY (R129); no effect on timers that are not due. -/
def execOpenTimerExpiry (s : State) : Host.Outcome State Fault Refusal :=
  .next (openTimersExpire s.stepStart)

/-- EXTERNAL_STOP_ASSERTED (R139). -/
def execExternalStopAsserted (s : State) : Host.Outcome State Fault Refusal :=
  .next (stopAsserted s.stepStart)

/-- EXTERNAL_STOP_RELEASED (R139). -/
def execExternalStopReleased (s : State) : Host.Outcome State Fault Refusal :=
  .next (stopReleased s.stepStart)

/-- BREAK_TIMER_EXPIRY (R142); no effect on a timer that is not due. -/
def execBreakTimerExpiry (j : Interstand) (s : State) : Host.Outcome State Fault Refusal :=
  .next (breakTimerExpires j s.stepStart)

end Sys2Proof.Machine
end

