-- ==== Sys2Proof/Machine/SupervisorCommands.lean ====
section
/-! DEFINITION. The meanings of the commands that the supervisor link brings: the 32 requests, frames as raw bytes, and the
completion of a frame being sent; and POWER_ON. -/

namespace Sys2Proof.Machine

/-- R2, R139: the initial state, POWER_ON notice queued; then the level of EXTERNAL_STOP is judged. The level and the waiting
commands are outside the part's own state and are kept, and so is the counter of free values (DESIGN CHOICE,
notes/assumptions/20). -/
def initialised (s : State) : State :=
  let r : State := { State.reset with externalStop := s.externalStop, pending := s.pending, freeIndex := s.freeIndex }
  if s.externalStop then raise Kind.externalStop 0 r else r

/-- POWER_ON (R2): power-on, or assertion of the RESET pin. -/
def execPowerOn (s : State) : Host.Outcome State Fault Refusal := .next (initialised s)

/-- SUPERVISOR_FRAME (R179 to R181): bytes on the supervisor link. -/
def execSupervisorFrame (bytes : List Byte) (s : State) : Host.Outcome State Fault Refusal :=
  .next (supervisorBytes bytes s.stepStart)

/-- FRAME_SENT (R185, R186); no effect while nothing is being sent. -/
def execFrameSent (s : State) : Host.Outcome State Fault Refusal := .next (completeFrame s.stepStart)

/-- CONFIGURE_CHANNEL (R32, R33). -/
def execConfigureChannel (n : Byte) (p : ChannelPayload) (s : State) : Host.Outcome State Fault Refusal :=
  .next (arrives (.configureChannel p) n (doConfigureChannel p) s.stepStart)

/-- CONFIGURE_STAND (R95). -/
def execConfigureStand (n : Byte) (p : StandPayload) (s : State) : Host.Outcome State Fault Refusal :=
  .next (arrives (.configureStand p) n (doConfigureStand p) s.stepStart)

/-- CONFIGURE_LINE (R70). -/
def execConfigureLine (n : Byte) (p : LinePayload) (s : State) : Host.Outcome State Fault Refusal :=
  .next (arrives (.configureLine p) n (doConfigureLine p) s.stepStart)

/-- COMMIT_CONFIG (R7). -/
def execCommitConfig (n : Byte) (s : State) : Host.Outcome State Fault Refusal :=
  .next (arrives .commitConfig n doCommitConfig s.stepStart)

/-- CONFIG_OPEN (R8). -/
def execConfigOpen (n : Byte) (s : State) : Host.Outcome State Fault Refusal :=
  .next (arrives .configOpen n doConfigOpen s.stepStart)

/-- THREAD (R9). -/
def execThread (n : Byte) (s : State) : Host.Outcome State Fault Refusal :=
  .next (arrives .thread n doThread s.stepStart)

/-- RUN (R10). -/
def execRun (n : Byte) (s : State) : Host.Outcome State Fault Refusal :=
  .next (arrives .run n doRun s.stepStart)

/-- STOP (R11). -/
def execStop (n : Byte) (s : State) : Host.Outcome State Fault Refusal :=
  .next (arrives .stop n doStop s.stepStart)

/-- TRIP_RESET (R13, R154). -/
def execTripReset (n : Byte) (s : State) : Host.Outcome State Fault Refusal :=
  .next (arrives .tripReset n doTripReset s.stepStart)

/-- RESTART (R14). -/
def execRestart (n : Byte) (s : State) : Host.Outcome State Fault Refusal :=
  .next (arrives .restart n doRestart s.stepStart)

/-- SCHEDULE_LOAD with take mode NOW (R75 to R77). -/
def execScheduleLoadNow (n : Byte) (p : SchedulePayload) (s : State) : Host.Outcome State Fault Refusal :=
  .next (arrives (.scheduleLoad 0 p) n (doLoadNow p) s.stepStart)

/-- SCHEDULE_LOAD with take mode AT_WELD (R75 to R77). -/
def execScheduleLoadAtWeld (n : Byte) (p : SchedulePayload) (s : State) : Host.Outcome State Fault Refusal :=
  .next (arrives (.scheduleLoad 1 p) n (doLoadAtWeld p) s.stepStart)

/-- SCHEDULE_WITHDRAW (R78). -/
def execScheduleWithdraw (n tag : Byte) (s : State) : Host.Outcome State Fault Refusal :=
  .next (arrives (.scheduleWithdraw tag) n (doWithdraw tag) s.stepStart)

/-- SCHEDULE_QUERY (R79). -/
def execScheduleQuery (n tag : Byte) (s : State) : Host.Outcome State Fault Refusal :=
  .next (arrives (.scheduleQuery tag) n (doScheduleQuery tag) s.stepStart)

/-- FAULT_POLICY (R145). -/
def execFaultPolicy (n kind : Byte) (enable : Bool) (severity : Byte) (s : State) : Host.Outcome State Fault Refusal :=
  .next (arrives (.faultPolicy kind enable severity) n (doFaultPolicy kind enable severity) s.stepStart)

/-- FAULT_CLEAR (R146). -/
def execFaultClear (n : Byte) (kinds : BitVec 24) (s : State) : Host.Outcome State Fault Refusal :=
  .next (arrives (.faultClear kinds) n (doFaultClear kinds) s.stepStart)

/-- COUNT_RESET (R147). -/
def execCountReset (n : Byte) (kinds : BitVec 24) (s : State) : Host.Outcome State Fault Refusal :=
  .next (arrives (.countReset kinds) n (doCountReset kinds) s.stepStart)

/-- FAULT_QUERY (R148). -/
def execFaultQuery (n kind : Byte) (s : State) : Host.Outcome State Fault Refusal :=
  .next (arrives (.faultQuery kind) n (doFaultQuery kind) s.stepStart)

/-- SEGMENT_QUERY (R69). -/
def execSegmentQuery (n selector : Byte) (arg : BitVec 32) (s : State) : Host.Outcome State Fault Refusal :=
  .next (arrives (.segmentQuery selector arg) n (doSegmentQuery selector arg) s.stepStart)

/-- SEGMENT_MARK with action SET (R162, R163). -/
def execSegmentMarkSet (n : Byte) (first : BitVec 32) (count : BitVec 16) (mode : Byte) (s : State) : Host.Outcome State Fault Refusal :=
  .next (arrives (.segmentMark first count 0 mode) n (doMarkSet first count mode) s.stepStart)

/-- SEGMENT_MARK with action CLEAR (R162, R163). -/
def execSegmentMarkClear (n : Byte) (first : BitVec 32) (count : BitVec 16) (mode : Byte) (s : State) : Host.Outcome State Fault Refusal :=
  .next (arrives (.segmentMark first count 1 mode) n (doMarkClear first count mode) s.stepStart)

/-- CHANNEL_READ (R188). -/
def execChannelRead (n entry : Byte) (s : State) : Host.Outcome State Fault Refusal :=
  .next (arrives (.channelRead entry) n (doChannelRead entry) s.stepStart)

/-- LINK_STATUS (R189). -/
def execLinkStatus (n link : Byte) (s : State) : Host.Outcome State Fault Refusal :=
  .next (arrives (.linkStatus link) n (doLinkStatus link) s.stepStart)

/-- LINK_CONTROL with action RETRAIN (R28). -/
def execRetrain (n link : Byte) (s : State) : Host.Outcome State Fault Refusal :=
  .next (arrives (.linkControl link 0) n (doRetrain link) s.stepStart)

/-- LINK_CONTROL with action DISABLE (R27, R28). -/
def execDisable (n link : Byte) (s : State) : Host.Outcome State Fault Refusal :=
  .next (arrives (.linkControl link 1) n (doDisable link) s.stepStart)

/-- LINK_CONTROL with action ENABLE (R27, R28). -/
def execEnable (n link : Byte) (s : State) : Host.Outcome State Fault Refusal :=
  .next (arrives (.linkControl link 2) n (doEnable link) s.stepStart)

/-- LINK_CONTROL with action CLEAR_COUNTERS (R22, R28). -/
def execClearCounters (n link : Byte) (s : State) : Host.Outcome State Fault Refusal :=
  .next (arrives (.linkControl link 3) n (doClearCounters link) s.stepStart)

/-- LOG_READ (R173 to R175). -/
def execLogRead (n log : Byte) (first : BitVec 32) (count : BitVec 16) (s : State) : Host.Outcome State Fault Refusal :=
  .next (arrives (.logRead log first count) n (doLogRead log first count) s.stepStart)

/-- LOG_WRITE (R176). -/
def execLogWrite (n log : Byte) (text : List Byte) (s : State) : Host.Outcome State Fault Refusal :=
  .next (arrives (.logWrite log text) n (doLogWrite log text) s.stepStart)

/-- LOG_CLEAR (R177). -/
def execLogClear (n log : Byte) (s : State) : Host.Outcome State Fault Refusal :=
  .next (arrives (.logClear log) n (doLogClear log) s.stepStart)

/-- STATUS (R187). -/
def execStatus (n : Byte) (s : State) : Host.Outcome State Fault Refusal :=
  .next (arrives .status n doStatus s.stepStart)

/-- IDENTIFY (R190). -/
def execIdentify (n : Byte) (s : State) : Host.Outcome State Fault Refusal :=
  .next (arrives .identify n doIdentify s.stepStart)

end Sys2Proof.Machine
end

