-- ==== Sys2Proof/Machine/Dispatch.lean ====
section
/-! DEFINITION. One arm for each command. -/

namespace Sys2Proof.Machine

/-- The effect of a command on everything but the queue of waiting commands. -/
def exec (i : Instr) (s : State) : Host.Outcome State Fault Refusal :=
  match i with
  | .powerOn => Sys2Proof.Machine.execPowerOn s
  | .supervisorFrame bytes => Sys2Proof.Machine.execSupervisorFrame bytes s
  | .frameSent => Sys2Proof.Machine.execFrameSent s
  | .configureChannel n p => Sys2Proof.Machine.execConfigureChannel n p s
  | .configureStand n p => Sys2Proof.Machine.execConfigureStand n p s
  | .configureLine n p => Sys2Proof.Machine.execConfigureLine n p s
  | .commitConfig n => Sys2Proof.Machine.execCommitConfig n s
  | .configOpen n => Sys2Proof.Machine.execConfigOpen n s
  | .thread n => Sys2Proof.Machine.execThread n s
  | .run n => Sys2Proof.Machine.execRun n s
  | .stop n => Sys2Proof.Machine.execStop n s
  | .tripReset n => Sys2Proof.Machine.execTripReset n s
  | .restart n => Sys2Proof.Machine.execRestart n s
  | .scheduleLoadNow n p => Sys2Proof.Machine.execScheduleLoadNow n p s
  | .scheduleLoadAtWeld n p => Sys2Proof.Machine.execScheduleLoadAtWeld n p s
  | .scheduleWithdraw n tag => Sys2Proof.Machine.execScheduleWithdraw n tag s
  | .scheduleQuery n tag => Sys2Proof.Machine.execScheduleQuery n tag s
  | .faultPolicy n kind enable severity => Sys2Proof.Machine.execFaultPolicy n kind enable severity s
  | .faultClear n kinds => Sys2Proof.Machine.execFaultClear n kinds s
  | .countReset n kinds => Sys2Proof.Machine.execCountReset n kinds s
  | .faultQuery n kind => Sys2Proof.Machine.execFaultQuery n kind s
  | .segmentQuery n selector arg => Sys2Proof.Machine.execSegmentQuery n selector arg s
  | .segmentMarkSet n first count mode => Sys2Proof.Machine.execSegmentMarkSet n first count mode s
  | .segmentMarkClear n first count mode => Sys2Proof.Machine.execSegmentMarkClear n first count mode s
  | .channelRead n entry => Sys2Proof.Machine.execChannelRead n entry s
  | .linkStatus n link => Sys2Proof.Machine.execLinkStatus n link s
  | .retrain n link => Sys2Proof.Machine.execRetrain n link s
  | .disable n link => Sys2Proof.Machine.execDisable n link s
  | .enable n link => Sys2Proof.Machine.execEnable n link s
  | .clearCounters n link => Sys2Proof.Machine.execClearCounters n link s
  | .logRead n log first count => Sys2Proof.Machine.execLogRead n log first count s
  | .logWrite n log text => Sys2Proof.Machine.execLogWrite n log text s
  | .logClear n log => Sys2Proof.Machine.execLogClear n log s
  | .status n => Sys2Proof.Machine.execStatus n s
  | .identify n => Sys2Proof.Machine.execIdentify n s
  | .sensorFrame l bytes order => Sys2Proof.Machine.execSensorFrame l bytes order s
  | .frameTimerExpiry l => Sys2Proof.Machine.execFrameTimerExpiry l s
  | .staleExpiry e => Sys2Proof.Machine.execStaleExpiry e s
  | .invalidExpiry e => Sys2Proof.Machine.execInvalidExpiry e s
  | .weldDetect => Sys2Proof.Machine.execWeldDetect s
  | .unloadTimerExpiry k => Sys2Proof.Machine.execUnloadTimerExpiry k s
  | .ack k ready => Sys2Proof.Machine.execAck k ready s
  | .faultStatus k code => Sys2Proof.Machine.execFaultStatus k code s
  | .openConfirmed k => Sys2Proof.Machine.execOpenConfirmed k s
  | .actuatorBadFrame k bytes => Sys2Proof.Machine.execActuatorBadFrame k bytes s
  | .replyTimerExpiry k => Sys2Proof.Machine.execReplyTimerExpiry k s
  | .keepAlive k => Sys2Proof.Machine.execKeepAlive k s
  | .positioningTimerExpiry k => Sys2Proof.Machine.execPositioningTimerExpiry k s
  | .openTimerExpiry => Sys2Proof.Machine.execOpenTimerExpiry s
  | .externalStopAsserted => Sys2Proof.Machine.execExternalStopAsserted s
  | .externalStopReleased => Sys2Proof.Machine.execExternalStopReleased s
  | .breakTimerExpiry j => Sys2Proof.Machine.execBreakTimerExpiry j s

end Sys2Proof.Machine
end

