-- ==== Sys2Proof/Machine/Clock.lean ====
section
/-! DEFINITION. The passing of time (R5): the tick that the block makes while no command waits, and the expiries that fall due
at it. DESIGN CHOICE, notes/assumptions/2: a tick is one microsecond, commands take no time, and expiries that fall due
together are queued in the order below. -/

namespace Sys2Proof.Machine

/-- R20: the frame timer of link l is due. -/
def frameTimerDue (s : State) (l : LinkNo) : Bool := s.due s.links[l].timer s.line.linkTimeout

/-- R40: entry e goes STALE now. -/
def staleDue (s : State) (e : EntryNo) : Bool := s.channels[e].state == .valid && ageReached s s.channels[e] 1

/-- R40: entry e goes INVALID now. -/
def invalidDue (s : State) (e : EntryNo) : Bool := s.channels[e].state.isUsable && ageReached s s.channels[e] 4

/-- The expiries and keep-alive commands that are due, as commands. -/
def dueCommands (s : State) : List Instr :=
  ((List.finRange 8).filter (frameTimerDue s)).map Instr.frameTimerExpiry ++
  (((List.finRange 32).filter (staleDue s)).map Instr.staleExpiry ++
  (((List.finRange 32).filter (invalidDue s)).map Instr.invalidExpiry ++
  (((List.finRange 6).filter (unloadDue s)).map Instr.unloadTimerExpiry ++
  (((List.finRange 6).filter (replyDue s)).map Instr.replyTimerExpiry ++
  (((List.finRange 6).filter (positioningDue s)).map Instr.positioningTimerExpiry ++
  ((if (List.finRange 6).any (openDue s) then [Instr.openTimerExpiry] else []) ++
  (((List.finRange 5).filter (breakDue s)).map Instr.breakTimerExpiry ++
  ((List.finRange 6).filter (keepAliveDue s)).map Instr.keepAlive)))))))

/-- R5: device time moves on by one microsecond, and the log timestamp by one millisecond at every thousandth; what arrived
together in the microsecond before is over (notes/assumptions/33). -/
def advanceTime (s : State) : State :=
  let t := { s with time := s.time + 1, heldFrom := Vector.replicate 6 none }
  if s.msPhase + 1 < 1000 then { t with msPhase := s.msPhase + 1 }
  else { t with msPhase := 0, logTime := s.logTime + 1 }

/-- What the block does while no command waits: a free transmitter begins its next frame, a microsecond passes, and the
commands that fall due join the queue. -/
def idle (s : State) : State :=
  let t := advanceTime s.stepStart
  { t with pending := t.pending ++ dueCommands t }

end Sys2Proof.Machine
end

