-- ==== Sys2Proof/Safety.lean ====
section
/-! DEFINITION. What counts as a safe run, in the terms that claims use: the part never stops (a step always answers a next
state), and every state keeps the invariants below. With them, the vocabulary of claims about requests: when the port is
free, the state in which a request is then judged, and the reply that waits. -/

namespace Sys2Proof.Machine

/-! ### Invariants -/

/-- R3, R12, R152 and the committed flag of section 1.2: the stop outputs follow the mode, HARD_STOP follows the trip state, the
mode is TRIPPED exactly while the trip state is not NORMAL, and the configuration is committed exactly outside CONFIG. -/
structure OutputsFollow (s : State) : Prop where
  millStop : s.millStop = stopsAsserted s.mode
  standTrip : s.standTrip = Vector.replicate 6 (stopsAsserted s.mode)
  hardStop : s.hardStop = true ↔ s.trip = .hardStop
  tripped : s.mode = .tripped ↔ s.trip ≠ .normal
  committed : s.committed = true ↔ s.mode ≠ .config

/-- R133, R134, R154: a kind that is active is latched, the first location is present exactly while the kind is latched, the
fixed kinds are enabled and tripping, and no enabled tripping kind is latched while the trip state is NORMAL outside
CONFIG. -/
structure LatchesFollow (s : State) : Prop where
  active : ∀ k : Kind, s.faults[k].active ≠ [] → s.faults[k].latched = true
  first : ∀ k : Kind, s.faults[k].latched = s.faults[k].first.isSome
  fixed : ∀ k : Kind, fixedKind k = true → s.trips k = true
  clear : s.trip = .normal → s.mode ≠ .config → ∀ k : Kind, s.trips k = true → s.faults[k].latched = false

/-- The two invariants on the mode, the outputs, the trip and the fault table. -/
structure ControlInv (s : State) : Prop where
  outputs : OutputsFollow s
  latches : LatchesFollow s

/-- R170: a log holds no more than its capacity, its entries carry consecutive numbers, and the newest carries the counter minus
one. -/
structure Log.InOrder (g : Log) (capacity : Nat) : Prop where
  fits : g.entries.length ≤ capacity
  numbered : ∀ (i : Nat) (h : i < g.entries.length),
    (g.entries[i]).seq = g.next - BitVec.ofNat 32 (g.entries.length - i)

/-- R170 for the five logs. -/
def LogsInOrder (s : State) : Prop := ∀ g : LogNo, s.logs[g].InOrder Config.logCapacity[g]

/-- The capacities of R45, R74, R85, R156, R180 and R183; exactly one entry flag in a table that is not empty (R74); and no
tracking, open report or transition in CONFIG and READY, nor a schedule in CONFIG (R6, R8). -/
structure WithinCapacity (s : State) : Prop where
  ring : s.ring.length ≤ Config.ringCapacity
  queue : s.queue.length ≤ Config.queueCapacity
  table : s.table.length ≤ Config.tableCapacity
  flag : s.table = [] ∨ (s.table.filter (·.isEntry)).length = 1
  transitions : s.transitions.length ≤ Config.transitionCapacity
  reports : s.reports.length ≤ Config.reportCapacity
  received : s.port.queue.length ≤ Config.rxCapacity
  notices : s.port.notices.length ≤ Config.noticeCapacity
  untracked : s.mode = .config ∨ s.mode = .ready →
    s.ring = [] ∧ s.reports = [] ∧ s.transitions = [] ∧ ∀ p : PointNo, s.points[p].started = false
  unscheduled : s.mode = .config → s.queue = [] ∧ s.table = []

/-! ### Requests at a free port -/

/-- R181: nothing stands before a request that arrives now: no reply is still to be sent in full, and no frame waits in the
receive queue. -/
def PortFree (s : State) : Prop := s.port.busy = false ∧ s.port.queue = []

/-- The state in which a request that arrives at a free port is taken: the transmitter has begun its next frame if it was free,
and the request's frame has been counted (R186). -/
def State.received (s : State) : State := s.stepStart.count PortCounters.countGood

/-- R182, R185: a state whose reply waits behind every notice that is queued in it. -/
def State.replying (t : State) (typ num : Byte) (code : ReplyCode) (fields : List Byte) : State :=
  { t with port := { t.port with waiting := some ⟨⟨typ, num, code, fields⟩, t.port.notices.length⟩ } }

/-- The request that a command carries, with its request number; none for the commands that are not requests. -/
def requestOf : Instr → Option (Byte × Request)
  | .powerOn => none
  | .supervisorFrame _ => none
  | .frameSent => none
  | .configureChannel n p => some (n, .configureChannel p)
  | .configureStand n p => some (n, .configureStand p)
  | .configureLine n p => some (n, .configureLine p)
  | .commitConfig n => some (n, .commitConfig)
  | .configOpen n => some (n, .configOpen)
  | .thread n => some (n, .thread)
  | .run n => some (n, .run)
  | .stop n => some (n, .stop)
  | .tripReset n => some (n, .tripReset)
  | .restart n => some (n, .restart)
  | .scheduleLoadNow n p => some (n, .scheduleLoad 0 p)
  | .scheduleLoadAtWeld n p => some (n, .scheduleLoad 1 p)
  | .scheduleWithdraw n t => some (n, .scheduleWithdraw t)
  | .scheduleQuery n t => some (n, .scheduleQuery t)
  | .faultPolicy n k e v => some (n, .faultPolicy k e v)
  | .faultClear n ks => some (n, .faultClear ks)
  | .countReset n ks => some (n, .countReset ks)
  | .faultQuery n k => some (n, .faultQuery k)
  | .segmentQuery n sel a => some (n, .segmentQuery sel a)
  | .segmentMarkSet n f c m => some (n, .segmentMark f c 0 m)
  | .segmentMarkClear n f c m => some (n, .segmentMark f c 1 m)
  | .channelRead n e => some (n, .channelRead e)
  | .linkStatus n l => some (n, .linkStatus l)
  | .retrain n l => some (n, .linkControl l 0)
  | .disable n l => some (n, .linkControl l 1)
  | .enable n l => some (n, .linkControl l 2)
  | .clearCounters n l => some (n, .linkControl l 3)
  | .logRead n g f c => some (n, .logRead g f c)
  | .logWrite n g t => some (n, .logWrite g t)
  | .logClear n g => some (n, .logClear g)
  | .status n => some (n, .status)
  | .identify n => some (n, .identify)
  | .sensorFrame _ _ _ => none
  | .frameTimerExpiry _ => none
  | .staleExpiry _ => none
  | .invalidExpiry _ => none
  | .weldDetect => none
  | .unloadTimerExpiry _ => none
  | .ack _ _ => none
  | .faultStatus _ _ => none
  | .openConfirmed _ => none
  | .actuatorBadFrame _ _ => none
  | .replyTimerExpiry _ => none
  | .keepAlive _ => none
  | .positioningTimerExpiry _ => none
  | .openTimerExpiry => none
  | .externalStopAsserted => none
  | .externalStopReleased => none
  | .breakTimerExpiry _ => none

/-- R6: the modes in which a request is accepted. A SCHEDULE_LOAD with take mode NOW is accepted in READY alone. -/
def acceptedIn (m : Mode) : Request → Bool
  | .configureChannel _ => m == .config
  | .configureStand _ => m == .config
  | .configureLine _ => m == .config
  | .commitConfig => m == .config
  | .configOpen => m == .ready
  | .thread => m == .ready
  | .run => m == .thread
  | .stop => m == .thread || m == .run
  | .tripReset => m == .tripped
  | .restart => m != .tripped
  | .scheduleLoad t _ => if t = 0 then m == .ready else m != .config
  | .scheduleWithdraw _ => true
  | .scheduleQuery _ => true
  | .faultPolicy _ _ _ => true
  | .faultClear _ => true
  | .countReset _ => true
  | .faultQuery _ => true
  | .segmentQuery _ _ => true
  | .segmentMark _ _ _ _ => true
  | .channelRead _ => true
  | .linkStatus _ => true
  | .linkControl _ _ => true
  | .logRead _ _ _ => true
  | .logWrite _ _ => true
  | .logClear _ => true
  | .status => true
  | .identify => true

/-- R179: a request whose payload a frame can carry. -/
def Fits (r : Request) : Prop := (requestPayload r).length ≤ Config.maxPayload

/-! ### Conditions on states -/

/-- Every channel that owns a loss condition is not INVALID (R43). -/
def NoLoss (s : State) : Prop := ∀ i ∈ lossItems, (s.channelState i).isInvalid = false

/-- R7: every required role is bound by exactly one entry. -/
def RolesBound (s : State) : Prop := ∀ i ∈ requiredItems, ∃ e : EntryNo, s.entriesOf i = [e]

/-- R7: stand k has a record that is consistent. -/
def StandSound (s : State) (k : Stand) : Prop :=
  ∃ p, s.stands[k].params = some p ∧ p.zeroForce + p.bite < p.forceLimit

/-- R7, R13: no enabled tripping kind is latched. -/
def NoTripLatched (s : State) : Prop := ∀ k : Kind, s.trips k = true → s.faults[k].latched = false

/-- No point is started (R6: so it is in CONFIG and READY). -/
def NoPointStarted (s : State) : Prop := ∀ p : PointNo, s.points[p].started = false

/-! ### Samples -/

/-- R19, R34 to R36, R38, R39: frame f arrives on link l, in UP with an empty receiver, for entry e, the one entry that binds
item i (of any role but ENTRY_LENGTH) and VALID or STALE; the head fault flag is clear, and the raw word gives the value v,
in the range of the role: an accepted sample. -/
structure Brings (s : State) (l : LinkNo) (f : SensorFields) (e : EntryNo) (i : Item) (v : Int) : Prop where
  up : s.links[l].mode = .up
  receiver : s.links[l].rx = []
  headClear : f.headFault = false
  routed : s.entryAt l f.slot = some e
  bound : s.entriesOf i = [e]
  scaled : ∀ c, s.channels[e].config = some c →
    v = roundDiv (fieldValue f.raw c.start c.length c.signed * c.gain) 65536 + c.offset
  fits : (roleRange i).1 ≤ v ∧ v ≤ (roleRange i).2
  usable : s.channels[e].state = .valid ∨ s.channels[e].state = .stale

/-- R21, R25, R39: the state in which the readers of an accepted sample take it: the frame has been counted on its link, and
the entry is VALID with the value and the device time. -/
def State.sampled (s : State) (l : LinkNo) (f : SensorFields) (e : EntryNo) (v : Int) : State :=
  (s.stepStart.setLink l (countGood f.seq { s.links[l] with timer := some s.time, crcRun := 0 })).setChannel e
    { s.channels[e] with state := .valid, held := some (v, s.time), consecutive := 0 }

/-! ### Lost channels -/

/-- R43: the loss conditions (kinds 5 to 11) as an event leaves them in which the channels of the items `lost` changed to
INVALID: outside CONFIG their conditions are active beside those that were; in CONFIG none joins. -/
def LossesRise (s t : State) (lost : Item → Bool) : Prop :=
  ∀ d : Kind, 5 ≤ d.val → d.val ≤ 11 → ∀ loc : Nat, loc ∈ t.faults[d].active ↔
    loc ∈ s.faults[d].active ∨ (s.mode ≠ .config ∧ ∃ i : Item, lost i = true ∧ lossOf i = some (d, loc))

/-- R26, R39: the items whose channels change to INVALID when link l is lost: those of the entries bound to it that are not
INVALID already. -/
def lostWith (s : State) (l : LinkNo) (i : Item) : Bool :=
  (List.finRange 32).any fun e => decide (s.channels[e].config.map (fun c => (c.link, c.item)) = some (l, i)) &&
    !s.channels[e].state.isInvalid

/-- R100, R101: the mode of stand k after an event in which its gap position (`gap`), its force (`force`) or both changed to
INVALID: HOLD for the gap position, POSITION for the force alone where the stand was in GAUGE and the gap position is usable. -/
def modeAfterLoss (s : State) (k : Stand) (gap force : Bool) : StandMode :=
  match s.stands[k].mode with
  | .off => .off
  | .opened => .opened
  | .position => if gap = true then .hold else .position
  | .hold => .hold
  | .gauge => if gap = true then .hold else if force = true ∧ s.usable (.gapPos k) = true then .position else .gauge

/-- R41, R43, R51, R100, R101, R136, R140, R143: in going from s to t the channels of the items `lost` have changed to INVALID
in one event, none of their loss conditions starting a trip, and every reader has taken the loss: the loss conditions are
active and latched, the speeds in force absent, the break timers and the unload timers stopped with their conditions, the
force conditions ended, and the stands in the mode and with the hold causes of their losses. -/
structure ChannelsLost (s t : State) (lost : Item → Bool) : Prop where
  mode : t.mode = s.mode ∧ t.trip = s.trip
  losses : LossesRise s t lost
  latched : ∀ (i : Item) (d : Kind) (loc : Nat), lost i = true → lossOf i = some (d, loc) → s.mode ≠ .config →
    loc ∉ s.faults[d].active → t.faults[d].latched = true
  speeds : ∀ k : Stand, t.speeds[k] = if lost (.rollSpeed k) = true then none else s.speeds[k]
  breaks : ∀ j : Interstand, t.breakTimers[j] = if lost (.tension j) = true then .stopped
    else if lost (.rollSpeed 5) = true then (match s.breakTimers[j] with
      | .running _ => .stopped
      | .stopped => .stopped
      | .expired => .expired) else s.breakTimers[j]
  breakEnds : ∀ j : Interstand, (j.val + 1) ∈ t.faults[Kind.stripBreak].active ↔
    (j.val + 1) ∈ s.faults[Kind.stripBreak].active ∧ lost (.tension j) = false
  forceEnds : ∀ (k : Stand) (d : Kind), d ∈ [Kind.standUnloaded, Kind.forceLimit, Kind.forceNearLimit] →
    ((k.val + 1) ∈ t.faults[d].active ↔ (k.val + 1) ∈ s.faults[d].active ∧ lost (.force k) = false)
  stands : ∀ k : Stand, t.stands[k] = { s.stands[k] with
    mode := modeAfterLoss s k (lost (.gapPos k)) (lost (.force k))
    unload := if lost (.force k) = true then .stopped else s.stands[k].unload
    holds := { s.stands[k].holds with gapLost := s.stands[k].holds.gapLost ||
      (lost (.gapPos k) && (s.stands[k].mode == .position || s.stands[k].mode == .gauge || s.stands[k].mode == .hold)) } }

/-- R26, R41: in going from b to t nothing has changed but the links and channels, what a loss tells the readers (speeds in
force, break timers, stands), and what the takes of its conditions write. -/
def LossAlone (b t : State) : Prop :=
  { t with
    links := b.links, channels := b.channels, speeds := b.speeds, breakTimers := b.breakTimers, stands := b.stands
    heldFrom := b.heldFrom, faults := b.faults, logs := b.logs, port := b.port } = b

/-! ### Tracking points -/

/-- R52, R54: the points that a ROLL_SPEED[k] sample drives. -/
def drivenBy (s : State) (k : Stand) (p : PointNo) : Bool :=
  p == bitePoint k || (k == 0 && p == PointNo.x1) || (k == 5 && p == PointNo.x6) ||
    (k == 0 && p == PointNo.x0 && ((s.channelState .entryLength).isInvalid || s.channelState .entryLength == .noData))

/-- R52 step 1: the advance of point p at a ROLL_SPEED[k] sample, on the speed in force, from the point's advance time, with the
slip and effective targets of the segment at its cursor; 0 where the speed or the advance time is absent. -/
def State.advanceOf (s : State) (k : Stand) (p : PointNo) : Nat :=
  match s.speeds[k], s.points[p].advanced, s.scheduleOf s.points[p].cursor with
  | some v, some t0, some e =>
    (roundDiv (v * (s.time - t0).toNat * (1000 + e.sched.stands[k].slip) * e.effH s.points[p].cursor k * 1024)
      (1000000 * e.effH0 s.points[p].cursor)).toNat
  | _, _, _ => 0

/-- R52, R55, R61: at a ROLL_SPEED[k] sample point p, started and driven by stand k, passes its segment n once, its upstream
neighbour u being on another segment; every other started point that the sample drives stays short of its segment's end. -/
structure PassesOnce (s : State) (k : Stand) (p u : PointNo) (n : SegNo) : Prop where
  driven : drivenBy s k p = true
  started : s.points[p].started = true
  cursor : s.points[p].cursor = n
  upstream : u.val + 1 = p.val
  free : s.points[u].started = true → s.points[u].cursor ≠ n
  short : s.points[p].travelled < s.line.segLen * 1024
  full : s.line.segLen * 1024 ≤ s.points[p].travelled + s.advanceOf k p
  once : s.points[p].travelled + s.advanceOf k p < 2 * (s.line.segLen * 1024)
  others : ∀ q : PointNo, q ≠ p → drivenBy s k q = true → s.points[q].started = true →
    s.points[q].travelled + s.advanceOf k q < s.line.segLen * 1024

/-- R56, R57, R59: a mean accumulator closed: its mean and count, or absent with a count of 0. -/
def meanOf (p : Point) : Option (Int × Nat) := if p.count = 0 then none else some (roundDiv p.sum p.count, p.count)

/-- R102: the mode of stand k after a return point, by its mode and hold causes before it. -/
def returnedMode (s : State) (k : Stand) : StandMode :=
  if (s.stands[k].mode = .position ∨ s.stands[k].mode = .hold) ∧ s.stands[k].holds = ⟨false, false, false, false⟩ then
    (if s.mode = .run ∧ s.usable (.force k) = true ∧ s.usable (.gapPos k) = true ∧
        (s.actuators[k].mode = .idle ∨ s.actuators[k].mode = .following) then .gauge else .position)
  else s.stands[k].mode

/-- R120, R124: stand k takes a sample in mode m: it stands in m, or its actuator's report has taken it from m to HOLD in this
microsecond and the order of the sample's readers puts the sample before the report (notes/assumptions/33). -/
def TakesIn (s : State) (k : Stand) (o : ReaderOrder) (m : StandMode) : Prop :=
  s.stands[k].mode = m ∨ (s.stands[k].mode = .hold ∧ s.heldFrom[k] = some m ∧ o.beforeReport = true)

/-- R100, R120, R124: in going from s to t stand k has been told a change of its actuator that gives it the hold cause `cause`:
a stand in GAUGE or POSITION goes to HOLD, and the mode it leaves stands until the microsecond is over
(notes/assumptions/33); one in HOLD adds the cause; OFF and OPEN keep their mode. -/
structure ToldHold (s t : State) (k : Stand) (cause : Holds → Bool) : Prop where
  leaves : s.stands[k].mode = .gauge ∨ s.stands[k].mode = .position →
    t.stands[k].mode = .hold ∧ cause t.stands[k].holds = true ∧ t.heldFrom[k] = some s.stands[k].mode
  joins : s.stands[k].mode = .hold →
    t.stands[k].mode = .hold ∧ cause t.stands[k].holds = true ∧ t.heldFrom[k] = s.heldFrom[k]
  idle : s.stands[k].mode = .off ∨ s.stands[k].mode = .opened → t.stands[k].mode = s.stands[k].mode

/-- R109 to R112, R116, R124: in going from s to t stand k has made one evaluation of the raw reference `raw` under the
targets x: clamped to the limits, limited to one step from the last sent reference, guarded near the force limit, and sent
unless blocked or within the deadband; each counter has risen that the evaluation acted on, and a reference that is sent is
the actuator's move target and has gone out where the actuator follows references. -/
structure Evaluates (s t : State) (k : Stand) (p : StandParams) (x : StandTargets) (force : Option Int) (last raw : Int) :
    Prop where
  result : ∀ (c l r : Int) (near blocked sent : Bool), c = clampInt raw x.smin x.smax →
    l = clampInt c (last - p.stepLimit) (last + p.stepLimit) →
    near = (match force with
      | some f => decide (roundDiv (p.forceLimit * 19) 20 ≤ f)
      | none => false) →
    r = (if near = true ∧ l < last then last else l) → blocked = decide (l < x.smin ∨ x.smax < l) →
    sent = (!blocked && decide (p.deadband ≤ |r - last| ∧ r ≠ last)) →
    t.stands[k].lastSent = (if sent = true then some r else some last) ∧
    t.stands[k].counters = ⟨count16 s.stands[k].counters.sent sent,
      count16 s.stands[k].counters.clamped (c != raw), count16 s.stands[k].counters.limited (l != c),
      count16 s.stands[k].counters.guarded (!blocked && near && decide (l < last)),
      count16 s.stands[k].counters.blocked blocked, count16 s.stands[k].counters.suppressed (!blocked && !sent)⟩ ∧
    (sent = true → (s.actuators[k].mode = .idle ∨ s.actuators[k].mode = .following ∨ s.actuators[k].mode = .moving) →
      t.actuators[k].target = some r ∧ t.sent = [⟨k, .gapSet r, commandFrameBytes (.gapSet r)⟩]) ∧
    (sent = false ∨ s.actuators[k].mode = .unlinked ∨ s.actuators[k].mode = .faulted ∨ s.actuators[k].mode = .opening ∨
        s.actuators[k].mode = .opened → t.actuators[k].target = s.actuators[k].target ∧ t.sent = [])

/-! ### Schedules -/

/-- R73 checks 2 to 6: a load gives a valid record, the open gaps being those of the stand records as they stand (an absent
stand record fails: the model's reading, notes/assumptions/26). -/
structure ValidPayload (s : State) (p : SchedulePayload) : Prop where
  entry : 1000 ≤ p.h0.toNat ∧ p.h0.toNat ≤ 60000
  exits : ∀ k : Stand, 500 ≤ p.stands[k].h.toNat
  first : p.stands[0].h.toNat ≤ p.h0.toNat
  falls : ∀ j k : Stand, j.val + 1 = k.val → p.stands[k].h.toNat ≤ p.stands[j].h.toNat
  gaps : ∀ k : Stand, -300000 ≤ p.stands[k].smin.toInt ∧ p.stands[k].smin.toInt ≤ p.stands[k].sset.toInt ∧
    p.stands[k].sset.toInt ≤ p.stands[k].smax.toInt ∧ p.stands[k].smax.toInt ≤ 400000
  opens : ∀ k : Stand, ∃ r, s.stands[k].params = some r ∧ p.stands[k].smax.toInt < r.openGap
  plastic : ∀ k : Stand, 500 ≤ p.stands[k].q.toNat ∧ p.stands[k].q.toNat ≤ 50000 ∧ p.stands[k].f.toNat ≤ 150
  rest : p.ramp.toNat ≤ 16 ∧ 1 ≤ p.tol.toNat ∧ p.tol.toNat ≤ 1000 ∧ 1 ≤ p.bin.toNat ∧ p.bin.toNat ≤ 200
  mark : p.mark = 1 ∨ p.mark = 2

/-- R72: the record that a load places: the payload's fields, under the tag it receives. -/
structure RecordOf (c : Schedule) (p : SchedulePayload) (take : TakeMode) (tag : Nat) : Prop where
  tag : c.tag = tag
  take : c.take = take
  entry : c.h0 = p.h0.toNat
  stands : ∀ k : Stand, c.stands[k] = ⟨p.stands[k].h.toNat, p.stands[k].sset.toInt, p.stands[k].smin.toInt,
    p.stands[k].smax.toInt, p.stands[k].q.toNat, p.stands[k].f.toNat⟩
  rest : c.ramp = p.ramp.toNat ∧ c.tol = p.tol.toNat ∧ c.bin = p.bin.toNat
  mark : (p.mark = 1 → c.mark = .logged) ∧ (p.mark = 2 → c.mark = .quiet)

/-! ### Configuration -/

/-- R33: in going from s to t the entry whose former configuration is `old` was rebound: its readers have lost the channel as at
a change to INVALID (the speed in force absent, the force conditions ended, the break timers stopped that its role feeds, the
unload timer of an OFF stand stopped), SENSOR_LINK_DOWN has ended on its former link if no entry is bound to it any more
(R30), and nothing else has changed but the table itself, and what a take of SENSOR_LINK_DOWN writes. -/
structure Rebinds (s t : State) (old : Option ChannelConfig) : Prop where
  kept : { t with
    channels := s.channels, faults := s.faults, firstOut := s.firstOut, logs := s.logs, port := s.received.port
    stands := s.stands, heldFrom := s.heldFrom, speeds := s.speeds, breakTimers := s.breakTimers } = s.received
  speeds : ∀ k : Stand, t.speeds[k] = if old.map (·.item) = some (.rollSpeed k) then none else s.speeds[k]
  breaks : ∀ j : Interstand, t.breakTimers[j] = if old.map (·.item) = some (.tension j) then .stopped
    else if old.map (·.item) = some (.rollSpeed 5) then (match s.breakTimers[j] with
      | .running _ => .stopped
      | .stopped => .stopped
      | .expired => .expired) else s.breakTimers[j]
  stands : (∀ k : Stand, s.stands[k].mode = .off) → ∀ k : Stand, t.stands[k] =
    if old.map (·.item) = some (.force k) then { s.stands[k] with unload := .stopped } else s.stands[k]
  heldFrom : (∀ k : Stand, s.stands[k].mode = .off) → t.heldFrom = s.heldFrom
  forceEnds : ∀ k : Stand, old.map (·.item) = some (.force k) → (k.val + 1) ∉ t.faults[Kind.forceLimit].active ∧
    (k.val + 1) ∉ t.faults[Kind.forceNearLimit].active
  linkEnds : ∀ c, old = some c → (∀ (x : EntryNo) (d : ChannelConfig), t.channels[x].config = some d → d.link ≠ c.link) →
    c.link.val ∉ t.faults[Kind.sensorLinkDown].active
  latches : ∀ d : Kind, d ≠ Kind.sensorLinkDown → t.faults[d] = { s.faults[d] with active := t.faults[d].active }
  others : ∀ d : Kind, d ∉ [Kind.sensorLinkDown, Kind.forceLimit, Kind.forceNearLimit, Kind.standUnloaded, Kind.stripBreak] →
    t.faults[d] = s.faults[d]

/-! ### Reply layouts (sections 11.1, 11.3.1, 11.3.3 and 11.3.9) -/

/-- The number in bits start to start + length − 1 of a packed field. -/
def packed (w : Nat) (start length : Nat) : Nat := w / 2 ^ start % 2 ^ length

/-- R192: an optional field: a presence byte 0 alone, or 1 and its value bytes. -/
def presence : Option (List Byte) → List Byte
  | none => [0]
  | some b => 1 :: b

/-- Section 11.3.1 item 7: the bytes of a first-out record. -/
def FirstOutLayout (f : FirstOut) (fs : List Byte) : Prop :=
  ∃ b : Byte, packed b.toNat 0 5 = f.kind.val ∧ packed b.toNat 5 3 = f.mode.num ∧
    fs = b :: (bytes16 (BitVec.ofNat 16 f.location) ++ (bytes32 f.time ++ [BitVec.ofNat 8 f.subsequent]))

/-- Section 11.3.1 item 7: the first-out record as an optional field. -/
def FirstOutField (s : State) (fs : List Byte) : Prop :=
  (s.firstOut = none ∧ fs = [0]) ∨ ∃ f b, s.firstOut = some f ∧ FirstOutLayout f b ∧ fs = 1 :: b

/-- Section 11.3.1 items 5 and 6: a set of kinds in three bytes, bit n for kind n. -/
def KindSetLayout (p : Kind → Prop) (fs : List Byte) : Prop :=
  ∃ w : BitVec 24, fs = bytes24 w ∧ (∀ k : Kind, w.getLsbD k.val = true ↔ p k) ∧ w.getLsbD 22 = false ∧ w.getLsbD 23 = false

/-- Section 11.3.1 item 8: the block of stand k. -/
def StandLayout (s : State) (k : Stand) (fs : List Byte) : Prop :=
  ∃ w : BitVec 16, packed w.toNat 0 3 = s.stands[k].mode.num ∧ packed w.toNat 3 2 = s.stands[k].unload.num ∧
    w.getLsbD 5 = s.stands[k].holds.gapLost ∧ w.getLsbD 6 = s.stands[k].holds.faulted ∧
    w.getLsbD 7 = s.stands[k].holds.unlinked ∧ w.getLsbD 8 = s.stands[k].holds.posTimeout ∧
    packed w.toNat 9 3 = s.actuators[k].mode.num ∧ w.getLsbD 12 = s.actuators[k].demand ∧ packed w.toNat 13 3 = 0 ∧
    fs = bytes16 w ++ (presence (s.stands[k].lastSent.map fun r => bytes24 (BitVec.ofInt 24 r)) ++
      ((if k = 0 ∨ k = 5 then bytes16 (BitVec.ofInt 16 s.stands[k].trim) else []) ++
      ([s.stands[k].counters.sent, s.stands[k].counters.clamped, s.stands[k].counters.limited, s.stands[k].counters.guarded,
          s.stands[k].counters.blocked, s.stands[k].counters.suppressed].flatMap (fun c => bytes16 (BitVec.ofNat 16 c)) ++
      (presence (s.actuators[k].faultCode.map fun c => [c]) ++
      [s.actuators[k].commandsSent, s.actuators[k].statuses, s.actuators[k].badFrames,
          s.actuators[k].silences].flatMap fun c => bytes16 (BitVec.ofNat 16 c)))))

/-- Section 11.3.1 from item 2: the fields of a STATUS reply. -/
def StatusLayout (s : State) (fs : List Byte) : Prop :=
  ∃ (dev sched : Byte) (ring links : BitVec 16) (latched active firstOut : List Byte) (blocks : Stand → List Byte)
    (tags : List InForce),
    packed dev.toNat 0 3 = s.mode.num ∧ packed dev.toNat 3 2 = s.trip.num ∧ dev.getLsbD 5 = s.committed ∧
    packed dev.toNat 6 2 = 0 ∧
    KindSetLayout (fun k => s.faults[k].latched = true) latched ∧ KindSetLayout (fun k => s.faults[k].active ≠ []) active ∧
    FirstOutField s firstOut ∧ (∀ k : Stand, StandLayout s k (blocks k)) ∧
    packed sched.toNat 0 2 = s.table.length ∧ packed sched.toNat 2 4 = s.queue.length ∧
    packed sched.toNat 6 2 = s.transitions.length ∧ List.Perm tags s.table ∧ tags.Pairwise (fun x y => x.sched.tag ≤ y.sched.tag) ∧
    packed ring.toNat 0 9 = s.ring.length ∧ packed ring.toNat 9 3 = 0 ∧ packed ring.toNat 12 3 = s.reports.length ∧
    packed ring.toNat 15 1 = 0 ∧ (∀ l : LinkNo, packed links.toNat (2 * l.val) 2 = s.links[l].mode.num) ∧
    fs = dev :: (bytes32 s.time ++ (bytes32 s.logTime ++ (latched ++ (active ++ (firstOut ++
      ((List.finRange 6).flatMap blocks ++ (sched ::
      (tags.map (fun x => BitVec.ofNat 8 (x.sched.tag + if x.isEntry = true then 128 else 0)) ++ (bytes16 ring ++
      (presence ((s.ring.head?.bind fun o => s.ring.getLast?.map fun n => bytes32 o.number ++ bytes32 n.number)) ++
      (bytes16 s.coilCounter ++ (bytes16 links ++
      ([(s.links.toList.map (·.good)).sum, (s.links.toList.map (·.crcErrors)).sum, (s.links.toList.map (·.gaps)).sum].flatMap
        (fun c => bytes16 (BitVec.ofNat 16 (min c 65535))) ++
      [s.port.counters.good, s.port.counters.crcErrors, s.port.counters.lengthErrors, s.port.counters.overflow,
        s.port.counters.replies, s.port.counters.notices, s.port.counters.lost].flatMap
        (fun c => bytes16 (BitVec.ofNat 16 c)))))))))))))))

/-- Section 11.3.9: the fields of a FAULT_QUERY reply. -/
def FaultLayout (s : State) (k : Kind) (fs : List Byte) : Prop :=
  ∃ (policy opened : Byte) (breaks : BitVec 16) (firstOut latched : List Byte),
    policy.getLsbD 0 = s.policy[k].enabled ∧ policy.getLsbD 1 = s.policy[k].tripping ∧
    (policy.getLsbD 2 = true ↔ k = 0 ∨ k = 3 ∨ k = 16) ∧ packed policy.toNat 3 5 = 0 ∧
    (∀ j : Interstand, packed breaks.toNat (2 * j.val) 2 = if k = 1 then s.breakTimers[j].num else 0) ∧
    packed breaks.toNat 10 6 = 0 ∧ (∀ j : Stand, opened.getLsbD j.val = s.opened[j]) ∧ packed opened.toNat 6 2 = 0 ∧
    FirstOutField s firstOut ∧ KindSetLayout (fun k => s.faults[k].latched = true) latched ∧
    fs = BitVec.ofNat 8 k.val :: policy :: BitVec.ofNat 8 s.faults[k].latched.toNat ::
      BitVec.ofNat 8 s.faults[k].active.length :: (s.faults[k].active.flatMap (fun l => bytes16 (BitVec.ofNat 16 l)) ++
      (BitVec.ofNat 8 s.faults[k].count ::
      (presence (s.faults[k].first.map fun f => bytes16 (BitVec.ofNat 16 f.1) ++ bytes32 f.2) ++
      (presence (s.faults[k].last.map fun l => bytes16 (BitVec.ofNat 16 l)) ++ (bytes16 breaks ++
      (BitVec.ofNat 8 s.trip.num :: opened :: (firstOut ++ latched)))))))

/-- Sections 11.3.8 and 11.3.9: the fields of a CHANNEL_READ reply; the fields of an UNBOUND entry are zero or absent (R188). -/
def ChannelLayout (s : State) (e : EntryNo) (fs : List Byte) : Prop :=
  ∃ config : List Byte,
    (s.channels[e].config = none → config = List.replicate 18 0) ∧
    (∀ c, s.channels[e].config = some c → config =
      1 :: BitVec.ofNat 8 c.link.val :: BitVec.ofNat 8 c.slot.val :: BitVec.ofNat 8 c.item.role ::
        (presence (c.item.place.map fun p => [BitVec.ofNat 8 p]) ++
        (BitVec.ofNat 8 c.start :: BitVec.ofNat 8 c.length :: BitVec.ofNat 8 c.signed.toNat ::
          (bytes32 (BitVec.ofInt 32 c.gain) ++ (bytes32 (BitVec.ofInt 32 c.offset) ++ bytes32 (BitVec.ofNat 32 c.stale)))))) ∧
    fs = BitVec.ofNat 8 e.val :: (config ++ (BitVec.ofNat 8 s.channels[e].state.num ::
      (presence (match s.channels[e].state with
        | .invalid c => some [BitVec.ofNat 8 c.num]
        | _ => none) ++
      (presence (s.channels[e].held.map fun h => bytes32 (BitVec.ofInt 32 h.1) ++ bytes32 (s.time - h.2)) ++
      (bytes16 (BitVec.ofNat 16 s.channels[e].rejects) ++ (BitVec.ofNat 8 s.channels[e].consecutive ::
      (presence (s.channels[e].strip.map fun b => [BitVec.ofNat 8 b.toNat]) ++
        [BitVec.ofNat 8 s.channels[e].lengthRef.isSome.toNat])))))))

/-- Section 11.3.9: the fields of a LINK_STATUS reply. -/
def LinkLayout (s : State) (l : LinkNo) (fs : List Byte) : Prop :=
  ∃ bound : List EntryNo, bound.Pairwise (· < ·) ∧ (∀ e : EntryNo, e ∈ bound ↔ s.channels[e].config.map (·.link) = some l) ∧
    fs = BitVec.ofNat 8 l.val :: BitVec.ofNat 8 s.links[l].mode.num :: (if s.links[l].mode = .disabled then 0 else 1) ::
      BitVec.ofNat 8 s.links[l].training :: BitVec.ofNat 8 s.links[l].crcRun ::
      (presence (s.links[l].seqRef.map fun q => [BitVec.ofNat 8 q.toNat]) ++
      (presence (s.links[l].timer.map fun t => bytes32 (s.time - t)) ++
      (bytes16 (BitVec.ofNat 16 s.links[l].good) ++ (bytes16 (BitVec.ofNat 16 s.links[l].crcErrors) ++
      (bytes16 (BitVec.ofNat 16 s.links[l].gaps) ++ (BitVec.ofNat 8 bound.length :: bound.map fun e => BitVec.ofNat 8 e.val))))))

/-- Section 11.3.3 items 6 to 8: a measurement, its mean and count as an optional field. -/
def measurement (m : Option (Int × Nat)) : List Byte :=
  presence (m.map fun x => bytes32 (BitVec.ofInt 32 x.1) ++ bytes32 (BitVec.ofNat 32 x.2))

/-- Section 11.3.3 item 9: an entry of the stand estimate list. -/
def estimateEntry (x : Estimate) : List Byte :=
  BitVec.ofNat 8 (x.stand.val + 1) ::
    (presence (x.mean.map fun m => bytes32 (BitVec.ofInt 32 m)) ++ bytes32 (BitVec.ofNat 32 x.count))

/-- Section 11.3.3: a segment record; a ramp index of NONE is FFh, an off-gauge mark 0 NONE, 1 LOGGED, 2 QUIET. -/
def SegmentRecordLayout (g : Segment) (fs : List Byte) : Prop :=
  ∃ mark ramp : Byte, mark.getLsbD 0 = g.weld ∧ mark.getLsbD 1 = g.manual ∧ mark.getLsbD 2 = g.tripMark ∧
    (g.offGauge = none → packed mark.toNat 3 2 = 0) ∧ (g.offGauge = some .logged → packed mark.toNat 3 2 = 1) ∧
    (g.offGauge = some .quiet → packed mark.toNat 3 2 = 2) ∧ packed mark.toNat 5 3 = 0 ∧
    (g.ramp = none → ramp = 0xFF) ∧ (∀ i, g.ramp = some i → ramp = BitVec.ofNat 8 i) ∧
    fs = bytes32 g.number ++ (bytes16 g.coil ++ (BitVec.ofNat 8 g.tag :: mark :: ramp ::
      (measurement g.entry ++ (measurement g.x1 ++ (measurement g.x6 ++
      (BitVec.ofNat 8 g.estimates.length :: g.estimates.flatMap estimateEntry))))))

/-- Section 11.3.9: one point in a SEGMENT_QUERY reply: its flags, then the cursor as an optional field. -/
def PointLayout (p : Point) (fs : List Byte) : Prop :=
  ∃ flags : Byte, flags.getLsbD 0 = p.started ∧ flags.getLsbD 1 = p.clamped ∧ flags.getLsbD 2 = p.early ∧
    packed flags.toNat 3 5 = 0 ∧
    fs = flags :: presence (if p.started = true then some (bytes32 p.cursor ++ bytes32 (BitVec.ofNat 32 (p.travelled / 1024)))
      else none)

/-- Section 11.3.9: the fields of a SEGMENT_QUERY reply for segment g of a ring that is not empty. -/
def SegmentLayout (s : State) (g : Segment) (fs : List Byte) : Prop :=
  ∃ (record : List Byte) (oldest newest : Segment) (ring : Byte) (points : PointNo → List Byte),
    SegmentRecordLayout g record ∧ s.ring.head? = some oldest ∧ s.ring.getLast? = some newest ∧
    (ring.getLsbD 0 = true ↔ s.trip ≠ .normal) ∧
    (ring.getLsbD 1 = true ↔ (s.channelState .entryLength).isInvalid = true ∨ s.channelState .entryLength = .noData) ∧
    packed ring.toNat 2 6 = 0 ∧ (∀ p : PointNo, PointLayout s.points[p] (points p)) ∧
    fs = record ++ (bytes16 (BitVec.ofNat 16 s.ring.length) ++ (bytes32 oldest.number ++ (bytes32 newest.number ++
      (bytes16 s.coilCounter ++ (ring :: (List.finRange 9).flatMap points)))))

/-! ### Trips and clearings -/

/-- R149: the step from s to t has started a trip whose first-out is kind k at a location: the trip state is OPENING and the
mode TRIPPED with the stop outputs asserted, the kind is latched, every stand is OPEN, OPEN has gone to all six actuators,
every segment carries its trip mark, and no run or break timer is left. -/
structure TripsBy (s t : State) (k : Kind) (loc : Nat) : Prop where
  mode : t.mode = .tripped
  trip : t.trip = .opening
  millStop : t.millStop = true
  standTrip : t.standTrip = Vector.replicate 6 true
  firstOut : t.firstOut = some ⟨k, loc, s.logTime, s.mode, 0⟩
  latched : t.faults[k].latched = true
  stands : ∀ j : Stand, t.stands[j].mode = .opened ∧ t.stands[j].holds = ⟨false, false, false, false⟩
  actuators : ∀ j : Stand, t.actuators[j].demand = true ∧ t.actuators[j].posTimer = none ∧
    (j, Command.openGap) ∈ t.sent.map fun x => (x.stand, x.command)
  marked : ∀ g ∈ t.ring, g.tripMark = true
  run : t.runState = none
  breaks : t.breakTimers = Vector.replicate 5 .stopped

/-- R166, R168: the report that a clearing of tracking closes: every segment of the ring that belongs to its coil is accounted as
discarded, with its manual and trip marks, and the off-gauge length is worked out. -/
def CoilReport.cleared (r : CoilReport) (s : State) (st : ReportState) : CoilReport :=
  { r with
    discarded := r.discarded + (s.ring.filter fun g => g.coil == r.coil).length
    manualMarked := r.manualMarked + (s.ring.filter fun g => g.coil == r.coil && g.manual).length
    tripMarked := r.tripMarked + (s.ring.filter fun g => g.coil == r.coil && g.tripMark).length
    offLength := roundDiv (r.offCount * s.line.segLen) 1000
    state := st }

/-- R171: a log after several entries at one time. -/
def Log.appendAll (g : Log) (capacity : Nat) (t : Millis) (cs : List LogContent) : Log :=
  cs.foldl (fun g c => g.append capacity t c) g

/-- R160: the defect log after the run in progress has ended, a LOGGED run leaving its OFF_GAUGE entry. -/
def Log.afterRun (g : Log) (r : Option RunState) (t : Millis) : Log :=
  match r with
  | some r => if r.mark = .logged then g.append 64 t (.offGauge r.coil r.first r.last r.count r.maxDev) else g
  | none => g

/-- R91: transitions in increasing order of their weld segment number. -/
def InWeldOrder (ts : List Transition) (s : State) : Prop :=
  List.Perm ts s.transitions ∧ ts.Pairwise fun a b => a.weld.toNat < b.weld.toNat

end Sys2Proof.Machine
end

