-- ==== Sys2Proof/Certificates/Slice0/Obligations.lean ====
section
/-! DEFINITION. The statements for the provers. The rules R<n> are those of spec/; a clause that rests on the model's own choice
names the entry of notes/assumptions. In every statement about a request the port is free unless it says otherwise:
`s.received` is the state in which the request is then taken (the transmitter having begun its next frame and the frame being
counted: the model's choices of notes/assumptions/4 and 5), `State.replying` puts its reply behind the queued notices. -/

open Sys2Proof Sys2Proof.Machine

/-! ### The machine as a whole -/

/-- A step takes the command at the front of the queue and runs it with the rest of the queue. -/
def Obligations.StepTakesFront : Prop :=
  ∀ (c : Instr) (rest : List Instr) (s : State), step { s with pending := c :: rest } = exec c { s with pending := rest }

/-- R5, R20, R40, R103, R119, R121, R126, R129, R142, with the model's choice of notes/assumptions/2 (a tick is one
microsecond, and the expiries that fall due join the queue of commands): while no command waits a step is a tick: device time
rises by one, the log timestamp at every thousandth, a free transmitter begins its next frame, and each expiry joins the
queue exactly when the age of its start has reached its limit; a keep-alive command exactly when 100 ms have passed since the
last command, or none was ever sent (due at once: the model's reading, notes/assumptions/21). What arrived together in the
microsecond before is over (the model's field heldFrom, notes/assumptions/33). Nothing else changes. -/
def Obligations.EmptyQueueTicks : Prop :=
  ∀ s : State, s.pending = [] → ∃ t : State, step s = .next t ∧
    t.time = s.time + 1 ∧
    (s.msPhase < 999 → t.msPhase = s.msPhase + 1 ∧ t.logTime = s.logTime) ∧
    (s.msPhase = 999 → t.msPhase = 0 ∧ t.logTime = s.logTime + 1) ∧
    t.port = s.port.beginNext ∧ t.sent = [] ∧
    (∀ k : Stand, t.heldFrom[k] = none) ∧
    { t with
      time := s.time, logTime := s.logTime, msPhase := s.msPhase, heldFrom := s.heldFrom, port := s.port, sent := s.sent
      pending := [] } = s ∧
    (∀ l : LinkNo, Instr.frameTimerExpiry l ∈ t.pending ↔
      ∃ t0, s.links[l].timer = some t0 ∧ s.line.linkTimeout ≤ t.age t0) ∧
    (∀ e : EntryNo, Instr.staleExpiry e ∈ t.pending ↔ s.channels[e].state = .valid ∧
      ∃ c h, s.channels[e].config = some c ∧ s.channels[e].held = some h ∧ c.stale ≤ t.age h.2) ∧
    (∀ e : EntryNo, Instr.invalidExpiry e ∈ t.pending ↔ (s.channels[e].state = .valid ∨ s.channels[e].state = .stale) ∧
      ∃ c h, s.channels[e].config = some c ∧ s.channels[e].held = some h ∧ 4 * c.stale ≤ t.age h.2) ∧
    (∀ k : Stand, Instr.unloadTimerExpiry k ∈ t.pending ↔
      ∃ t0 p, s.stands[k].unload = .running t0 ∧ s.stands[k].params = some p ∧ p.unload * 1000 ≤ t.age t0) ∧
    (∀ k : Stand, Instr.replyTimerExpiry k ∈ t.pending ↔
      ∃ t0, s.actuators[k].replyTimer = some t0 ∧ 10000 ≤ t.age t0) ∧
    (∀ k : Stand, Instr.positioningTimerExpiry k ∈ t.pending ↔ s.actuators[k].mode = .moving ∧
      ∃ t0 p, s.actuators[k].posTimer = some t0 ∧ s.stands[k].params = some p ∧ p.posTimeout * 1000 ≤ t.age t0) ∧
    (Instr.openTimerExpiry ∈ t.pending ↔
      ∃ (k : Stand) (t0 : Micros), s.actuators[k].openTimer = some t0 ∧ s.line.openTimeout * 1000 ≤ t.age t0) ∧
    (∀ j : Interstand, Instr.breakTimerExpiry j ∈ t.pending ↔
      ∃ t0, s.breakTimers[j] = .running t0 ∧ s.line.breakConfirm * 1000 ≤ t.age t0) ∧
    (∀ k : Stand, Instr.keepAlive k ∈ t.pending ↔ ∀ t0, s.actuators[k].lastSent = some t0 → 100000 ≤ t.age t0)

/-- The model's inference from R6 and R181, which say what each command does and never that the part stops
(notes/assumptions/29): whatever the state, every command is answered with a next state, and so is every step. (Which next
state that is, is what the other statements say.) -/
def Obligations.EveryCommandRuns : Prop :=
  (∀ (c : Instr) (s : State), ∃ t, exec c s = .next t) ∧ ∀ s : State, ∃ t, step s = .next t

/-- R2: the initial state. With EXTERNAL_STOP released, POWER_ON leaves it whatever the part was doing; the one notice is
queued. (The stand, actuator and port rows are those of R97, R116, R118, R120 and R186, the speeds those of R51, the opened
set that of R151. The model's choices: the notice stays in the queue, notes/assumptions/5; the level of EXTERNAL_STOP and the
waiting commands are kept, notes/assumptions/20; values at reset that no rule gives, notes/assumptions/28; the model's field
heldFrom, notes/assumptions/33.) R139: EXTERNAL_STOP asserted at power-on is judged once the initial state stands and the
POWER_ON notice is queued: it is latched and notified in CONFIG, and starts no trip. (That both notices still stand in the
queue after POWER_ON is the model's choice of notes/assumptions/5; the waiting commands and the level are kept,
notes/assumptions/20; all else is as State.reset has it, the values that no rule gives being those of notes/assumptions/28.)
-/
def Obligations.PowerOnInitialState : Prop :=
  (∀ s : State, s.externalStop = false → ∃ t : State, exec .powerOn s = .next t ∧
    t.mode = .config ∧ t.committed = false ∧ t.time = 0 ∧ t.logTime = 0 ∧
    t.millStop = true ∧ (∀ k : Stand, t.standTrip[k] = true) ∧ t.hardStop = false ∧
    (∀ e : EntryNo, t.channels[e].state = .unbound ∧ t.channels[e].config = none ∧ t.channels[e].held = none) ∧
    t.line = ⟨500000, 2000, 800, 500, 5, 1000, 20⟩ ∧
    t.queue = [] ∧ t.table = [] ∧ t.transitions = [] ∧
    t.ring = [] ∧ (∀ p : PointNo, t.points[p].started = false) ∧ t.coilCounter = 0 ∧
    (∀ k : Kind, t.faults[k] = ⟨false, [], 0, none, none⟩) ∧ t.firstOut = none ∧ t.trip = .normal ∧
    (∀ k : Kind, t.policy[k] = ⟨true, k ∈ ([0, 1, 2, 3, 14, 15, 16] : List Kind)⟩) ∧
    (∀ k : Stand, t.stands[k].params = none ∧ t.stands[k].mode = .off ∧ t.stands[k].trim = 0 ∧
      t.stands[k].lastSent = none ∧ t.stands[k].bite = none ∧ t.stands[k].unload = .stopped ∧
      t.stands[k].holds = ⟨false, false, false, false⟩ ∧ t.stands[k].sum = 0 ∧ t.stands[k].count = 0 ∧
      t.stands[k].counters = ⟨0, 0, 0, 0, 0, 0⟩ ∧ t.heldFrom[k] = none ∧ t.speeds[k] = none ∧ t.opened[k] = false) ∧
    (∀ k : Stand, t.actuators[k].mode = .unlinked ∧ t.actuators[k].demand = false ∧ t.actuators[k].unanswered = 0 ∧
      t.actuators[k].replyTimer = none ∧ t.actuators[k].posTimer = none ∧ t.actuators[k].openTimer = none ∧
      t.actuators[k].target = none ∧ t.actuators[k].readyFlag = none ∧ t.actuators[k].faultCode = none ∧
      t.actuators[k].commandsSent = 0 ∧ t.actuators[k].statuses = 0 ∧ t.actuators[k].badFrames = 0 ∧
      t.actuators[k].silences = 0) ∧
    (∀ l : LinkNo, t.links[l] = ⟨.down, none, 0, 0, none, 0, 0, 0, []⟩) ∧
    (∀ j : Interstand, t.breakTimers[j] = .stopped) ∧
    t.reports = [] ∧ t.runState = none ∧
    (∀ g : LogNo, t.logs[g].entries = [] ∧ t.logs[g].next = 0) ∧
    t.port = ⟨[], [], none, [.modeChanged none .config .powerOn], none, ⟨0, 0, 0, 0, 0, 0, 0⟩⟩ ∧
    t.externalStop = false ∧ t.pending = s.pending) ∧
  (∀ s : State, s.externalStop = true → ∃ t : State, exec .powerOn s = .next t ∧
    t.mode = .config ∧ t.trip = .normal ∧ t.firstOut = none ∧ t.externalStop = true ∧ t.pending = s.pending ∧
    t.faults[(0 : Kind)] = ⟨true, [0], 1, some (0, 0), some 0⟩ ∧ (∀ k : Kind, k ≠ 0 → t.faults[k] = .initial) ∧
    t.port.notices = [.modeChanged none .config .powerOn, .fault 0 0 1 true .config .normal .none] ∧
    t.logs[LogNo.fault] = ⟨[⟨0, 0, .fault 0 0 1 true true .config .normal .none⟩], 1⟩ ∧
    t.freeIndex = s.freeIndex ∧ { t with
      externalStop := false, pending := [], freeIndex := 0, faults := State.reset.faults, logs := State.reset.logs
      port := State.reset.port } = State.reset)

/-- R3: after every step the seven stop outputs and HARD_STOP follow the mode and the trip state. -/
def Obligations.StopOutputsFollowMode : Prop :=
  ∀ s t : State, ControlInv s → step s = .next t →
    (t.millStop = true ↔ t.mode = .config ∨ t.mode = .tripped) ∧
    (∀ k : Stand, t.standTrip[k] = true ↔ t.mode = .config ∨ t.mode = .tripped) ∧
    (t.hardStop = true ↔ t.trip = .hardStop)

/-- R3, R12, R133, R134, R154: the invariants on the mode, the outputs, the trip state and the fault table are kept by every
step: an active kind is latched, the first location is present exactly while the kind is latched, and while the trip state is
NORMAL outside CONFIG no enabled tripping kind is latched. -/
def Obligations.ControlInvariantKept : Prop :=
  ∀ s t : State, ControlInv s → step s = .next t → ControlInv t

/-- R170, R171: in every log the entries carry consecutive numbers up to the counter minus one, and no log outgrows its
capacity: kept by every step. -/
def Obligations.LogsStayInOrder : Prop :=
  ∀ s t : State, LogsInOrder s → step s = .next t → LogsInOrder t

/-- R45, R74, R85, R156, R180, R183: no queue, table or ring outgrows its capacity, the in-force table has one entry schedule
or is empty, and nothing is tracked in CONFIG and READY: kept by every step. -/
def Obligations.CapacitiesHold : Prop :=
  ∀ s t : State, WithinCapacity s → step s = .next t → WithinCapacity t

/-- The four invariants hold right after reset. -/
def Obligations.InvariantsAtReset : Prop :=
  ControlInv State.reset ∧ LogsInOrder State.reset ∧ WithinCapacity State.reset

/-! ### Frames and payloads -/

/-- Section 11.3.8: every request that a frame can carry is read back from its payload, with every operand at every value.
Section 11.2.2: the sensor and actuator receivers read back every sensor frame, status frame and its fields. -/
def Obligations.PayloadAndFrameRoundTrip : Prop :=
  (∀ r : Request, Fits r → parseRequest (requestType r) (requestPayload r) = .request r) ∧
  ((∀ (f : SensorFields) (rest : List Byte), ∃ body, sensorFields body = f ∧
    huntFixed 0xC3 7 (7 + rest.length) (sensorFrameBytes f ++ rest) =
      (some body :: (huntFixed 0xC3 7 (6 + rest.length) rest).1, (huntFixed 0xC3 7 (6 + rest.length) rest).2)) ∧
  (∀ (b : Bool), huntFixed 0x3C 4 4 (statusFrameBytes 0x81 (if b then 1 else 0)) =
    ([some [0x81, if b then 1 else 0]], []) ∧ statusOf [0x81, if b then 1 else 0] = some (.ack b)) ∧
  (∀ code : Byte, code ≠ 0 → code ≠ 0xFE → code ≠ 0xFF →
    huntFixed 0x3C 4 4 (statusFrameBytes 0x82 code) = ([some [0x82, code]], []) ∧ statusOf [0x82, code] = some (.fault code)) ∧
  huntFixed 0x3C 4 4 (statusFrameBytes 0x83 0) = ([some [0x83, 0]], []) ∧ statusOf [0x83, 0] = some .openConfirmed)

/-- R179 to R181, section 11.2.1: a request's frame, brought byte by byte to a free port, does what the request command does
(the model's choice of notes/assumptions/4: a request command is the arrival of its good frame). -/
def Obligations.FramedRequestIsRequest : Prop :=
  ∀ (c : Instr) (n : Byte) (r : Request) (s : State), requestOf c = some (n, r) → Fits r → PortFree s → s.port.rx = [] →
    exec (.supervisorFrame (supervisorFrameBytes (requestType r) n (requestPayload r))) s = exec c s

/-- R181 checks 1 and 2, R182, R192: a good frame whose type is no request is answered UNKNOWN_TYPE, under type 40h naming
the type where it lies outside 01h to 3Fh; one whose payload length does not suit its type is answered MALFORMED. Neither
changes anything else. The length that suits is that of the length column of section 11.3.8; for LOG_WRITE its text length
byte gives it, and for CONFIGURE_CHANNEL its presence bytes, each of which must be 0 or 1. R179, R186: a frame whose length
field is above 240, and a frame whose CRC does not check, are counted and answered nothing. (Frames in whose bytes no further
sync byte stands.) -/
def Obligations.BadFramesHandled : Prop :=
  ((∀ (typ n : Byte) (p : List Byte) (s : State), p.length ≤ 240 → PortFree s → s.port.rx = [] →
    (typ = 0 ∨ 0x1B < typ.toNat →
      exec (.supervisorFrame (supervisorFrameBytes typ n p)) s = .next
        (if 1 ≤ typ.toNat ∧ typ.toNat ≤ 0x3F then s.received.replying (typ + 0x40) n .unknownType []
         else s.received.replying 0x40 n .unknownType [typ])) ∧
    (parseRequest typ p = .malformed →
      exec (.supervisorFrame (supervisorFrameBytes typ n p)) s = .next (s.received.replying (typ + 0x40) n .malformed []))) ∧
  (∀ (typ : Byte) (p : List Byte), parseRequest typ p = .unknownType ↔ typ = 0 ∨ 0x1B < typ.toNat) ∧
  (∀ (p : List Byte) (typ : Byte) (len : Nat), (typ, len) ∈ ([(0x02, 37), (0x03, 14), (0x04, 0), (0x05, 0), (0x06, 0), (0x07, 0),
      (0x08, 0), (0x09, 0), (0x0A, 0), (0x0B, 125), (0x0C, 1), (0x0D, 1), (0x0E, 3), (0x0F, 3), (0x10, 3), (0x11, 1), (0x12, 5),
      (0x13, 8), (0x14, 1), (0x15, 1), (0x16, 2), (0x17, 7), (0x19, 1), (0x1A, 0), (0x1B, 0)] : List (Byte × Nat)) →
    (parseRequest typ p = .malformed ↔ p.length ≠ len)) ∧
  (∀ p : List Byte, parseRequest 0x18 p ≠ .malformed ↔ ∃ log n text, p = log :: n :: text ∧ text.length = n.toNat) ∧
  (∀ p : List Byte, parseRequest 0x01 p ≠ .malformed ↔ ∃ (entry role : Byte) (binding place rest : List Byte),
    p = entry :: (binding ++ role :: (place ++ rest)) ∧ (binding = [0] ∨ ∃ l k, binding = [1, l, k]) ∧
      (place = [0] ∨ ∃ x, place = [1, x]) ∧ rest.length = 15)) ∧
  ((∀ (s : State) (len : Byte), 240 < len.toNat → s.port.rx = [] →
    exec (.supervisorFrame [0xA5, 0x5A, len]) s = .next (s.stepStart.setPort { s.stepStart.port with
      counters := { s.stepStart.port.counters with lengthErrors := min (s.stepStart.port.counters.lengthErrors + 1) 65535 } })) ∧
  (∀ (s : State) (covered : List Byte) (typ num : Byte) (p : List Byte) (crc : BitVec 16),
    covered = BitVec.ofNat 8 p.length :: typ :: num :: p → p.length ≤ 240 → s.port.rx = [] → crc ≠ crc16 covered →
    0xA5 ∉ covered ++ bytes16 crc →
    exec (.supervisorFrame (0xA5 :: 0x5A :: (covered ++ bytes16 crc))) s = .next (s.stepStart.setPort { s.stepStart.port with
      counters := { s.stepStart.port.counters with crcErrors := min (s.stepStart.port.counters.crcErrors + 1) 65535 } })))

/-! ### The port -/

/-- R180, R181, R186: while a reply is still to be sent in full, a request joins the receive queue, and finds no place where
the queue holds 4; every good frame is counted. R181, R185, R186: a frame sent in full is counted and the transmitter goes on
to the next; after a reply the request at the head of the receive queue is taken (in this order: the model's choice of
notes/assumptions/6). FRAME_SENT without anything to send does nothing. -/
def Obligations.RequestsAndFramesMoveOn : Prop :=
  (∀ (c : Instr) (n : Byte) (r : Request) (s : State), requestOf c = some (n, r) → s.port.busy = true →
    (s.port.queue.length < 4 → exec c s = .next (s.received.setPort { s.received.port with
      queue := s.port.queue ++ [⟨requestType r, n, requestPayload r⟩] })) ∧
    (4 ≤ s.port.queue.length → exec c s = .next (s.received.setPort { s.received.port with
      counters := { s.received.port.counters with overflow := min (s.received.port.counters.overflow + 1) 65535 } }))) ∧
  ((∀ (s : State) (f : Sending), s.port.sending = some f → f.isReply = false →
    exec .frameSent s = .next { s with sent := [], port := Port.beginNext { s.port with
      sending := none, counters := { s.port.counters with notices := min (s.port.counters.notices + 1) 65535 } } }) ∧
  (∀ (s : State) (f : Sending), s.port.sending = some f → f.isReply = true → s.port.queue = [] →
    exec .frameSent s = .next { s with sent := [], port := Port.beginNext { s.port with
      sending := none, counters := { s.port.counters with replies := min (s.port.counters.replies + 1) 65535 } } }) ∧
  (∀ (s : State) (f : Sending) (n : Byte) (r : Request) (rest : List Frame), s.port.sending = some f → f.isReply = true →
    s.port.waiting = none → Fits r → s.port.queue = ⟨requestType r, n, requestPayload r⟩ :: rest →
    ∃ t u : State, t = { s with sent := [], port := Port.beginNext { s.port with
        sending := none, queue := rest
        counters := { s.port.counters with replies := min (s.port.counters.replies + 1) 65535 } } } ∧
      u = (handle r t).2 ∧ exec .frameSent s = .next (u.replying (requestType r + 0x40) n (handle r t).1.code (handle r t).1.fields)) ∧
  (∀ s : State, s.port.sending = none → s.port.waiting = none → s.port.notices = [] →
    exec .frameSent s = .next { s with sent := [] }))

/-- R183, R184: a notice joins the tail of the notice queue. At a queue of 32 it is dropped and counted as lost, but for a
TRIP notice, which displaces the newest notice that is not one, wherever that stands to the waiting reply. -/
def Obligations.FullNoticeQueue : Prop :=
  ∀ (p : Port) (n : Notice),
    (p.notices.length < 32 → p.queueNotice n = { p with notices := p.notices ++ [n] }) ∧
    (32 ≤ p.notices.length → isTripNotice n = false → p.queueNotice n = { p with
      counters := { p.counters with lost := min (p.counters.lost + 1) 65535 } }) ∧
    (32 ≤ p.notices.length → isTripNotice n = true → (∀ x ∈ p.notices, isTripNotice x = true) → p.queueNotice n = { p with
      counters := { p.counters with lost := min (p.counters.lost + 1) 65535 } }) ∧
    (∀ (pre post : List Notice) (x : Notice), 32 ≤ p.notices.length → isTripNotice n = true → p.notices = pre ++ x :: post →
      isTripNotice x = false → (∀ y ∈ post, isTripNotice y = true) → p.queueNotice n = { p with
        notices := pre ++ post ++ [n]
        counters := { p.counters with lost := min (p.counters.lost + 1) 65535 }
        waiting := p.waiting.map fun w => ⟨w.reply, if pre.length < w.ahead then w.ahead - 1 else w.ahead⟩ })

/-! ### Requests and the mode -/

/-- R6, R181: a request in a mode that is not listed for it is answered MODE (TRIP_ACTIVE for RESTART) and changes nothing.
R6, R75, R181, R182: in the modes listed for it a request gets one reply, under its own number and its type plus 40h, and
that reply is not MODE (but for a NOW load while an entry schedule stands). -/
def Obligations.RequestsByMode : Prop :=
  (∀ (c : Instr) (n : Byte) (r : Request) (s : State), requestOf c = some (n, r) → PortFree s → acceptedIn s.mode r = false →
    exec c s = .next (s.received.replying (requestType r + 0x40) n (if r = .restart then .tripActive else .mode) [])) ∧
  (∀ (c : Instr) (n : Byte) (r : Request) (s : State), requestOf c = some (n, r) → PortFree s → acceptedIn s.mode r = true →
    (∀ p, r = .scheduleLoad 0 p → s.entrySchedule = none) →
    ∃ (t : State) (code : ReplyCode) (fields : List Byte),
      exec c s = .next (t.replying (requestType r + 0x40) n code fields) ∧ code ≠ .mode ∧ code ≠ .unknownType ∧ code ≠ .malformed)

/-! ### Configuration and the mode requests -/

/-- R30, R32, R33, R51, R140: CONFIGURE_CHANNEL in CONFIG: a request without a binding makes its entry UNBOUND; one whose
fields lie in range and whose link and slot no other entry holds binds it in NO_DATA with its running state emptied. The
readers of the entry's former role lose it as at a change to INVALID (`Rebinds`: the speed in force absent, the force
conditions ended with their latches kept), SENSOR_LINK_DOWN ends on a link that the last entry leaves and is taken where an
entry is bound to a link in DOWN, and everything else is kept. An entry number above 31 (with a binding or without), fields
out of range, and a link and slot held by another entry are refused BAD_VALUE. (That an unbinding's other fields are not
judged is the model's reading, notes/assumptions/16.) -/
def Obligations.ChannelConfigured : Prop :=
  ∀ (n : Byte) (p : ChannelPayload) (s : State), PortFree s → s.mode = .config →
    (∀ e : EntryNo, p.entry.toNat = e.val → p.binding = none → ∃ t : State,
      exec (.configureChannel n p) s = .next (t.replying 0x41 n .ok []) ∧ t.channels = s.channels.set e .unbound ∧
      Rebinds s t s.channels[e].config ∧ t.logs = s.logs ∧ t.port = s.received.port ∧ t.firstOut = s.firstOut ∧
      t.faults[Kind.sensorLinkDown] = { s.faults[Kind.sensorLinkDown] with active := t.faults[Kind.sensorLinkDown].active }) ∧
    (31 < p.entry.toNat → p.binding = none →
      exec (.configureChannel n p) s = .next (s.received.replying 0x41 n .badValue [])) ∧
    (∀ (e : EntryNo) (l : LinkNo) (slot : Fin 4) (i : Item) (b : Byte × Byte), p.entry.toNat = e.val → p.binding = some b →
      b.1.toNat = l.val → b.2.toNat = slot.val → itemOf p.role.toNat (p.place.map (·.toNat)) = some i →
      p.start.toNat ≤ 31 → p.length.toNat ≤ 32 → 100 ≤ p.stale.toNat → p.stale.toNat ≤ 100000 →
      (∀ x : EntryNo, x ≠ e → ∀ c, s.channels[x].config = some c → ¬ (c.link = l ∧ c.slot = slot)) →
      ∃ t : State, exec (.configureChannel n p) s = .next (t.replying 0x41 n .ok []) ∧
        t.channels = s.channels.set e ⟨some ⟨l, slot, i, p.start.toNat, p.length.toNat, p.signed, p.gain.toInt,
          p.offset.toInt, p.stale.toNat⟩, .noData, none, 0, 0, none, none⟩ ∧
        Rebinds s t s.channels[e].config ∧ (∀ g : LogNo, g ≠ LogNo.fault → t.logs[g] = s.logs[g]) ∧
        (s.links[l].mode ≠ .down ∨ l.val ∈ s.faults[Kind.sensorLinkDown].active →
          t.logs = s.logs ∧ t.port = s.received.port ∧ t.firstOut = s.firstOut ∧ t.faults[Kind.sensorLinkDown] =
            { s.faults[Kind.sensorLinkDown] with active := t.faults[Kind.sensorLinkDown].active }) ∧
        (s.links[l].mode = .down → l.val ∈ t.faults[Kind.sensorLinkDown].active ∧
          (l.val ∉ s.faults[Kind.sensorLinkDown].active → t.faults[Kind.sensorLinkDown].latched = true ∧
            t.faults[Kind.sensorLinkDown].count = min (s.faults[Kind.sensorLinkDown].count + 1) 255 ∧
            t.logs[LogNo.fault].next = s.logs[LogNo.fault].next + 1 ∧ (s.trip = .normal → t.firstOut = s.firstOut)))) ∧
    (∀ b : Byte × Byte, p.binding = some b →
      (31 < p.entry.toNat ∨ 7 < b.1.toNat ∨ 3 < b.2.toNat ∨ itemOf p.role.toNat (p.place.map (·.toNat)) = none ∨
        31 < p.start.toNat ∨ 32 < p.length.toNat ∨ p.stale.toNat < 100 ∨ 100000 < p.stale.toNat ∨
        ∃ (x : EntryNo) (c : ChannelConfig), x.val ≠ p.entry.toNat ∧ s.channels[x].config = some c ∧
          c.link.val = b.1.toNat ∧ c.slot.val = b.2.toNat) →
      exec (.configureChannel n p) s = .next (s.received.replying 0x41 n .badValue []))

/-- R94, R95, R113, R140: CONFIGURE_STAND in CONFIG: with every parameter in its range the record is replaced, the trim set
to 0, the last sent reference made absent and the counters set to 0, and the force conditions of the stand end; nothing else
changes. A stand outside 1 to 6, or a parameter outside its range, is refused BAD_VALUE. R70: CONFIGURE_LINE in CONFIG: with
every parameter in its range all are replaced together; one outside refuses the request BAD_VALUE and no parameter changes.
-/
def Obligations.StandAndLineConfigured : Prop :=
  (∀ (n : Byte) (p : StandPayload) (s : State), PortFree s → s.mode = .config →
    (∀ k : Stand, p.stand.toNat = k.val + 1 →
      1000 ≤ p.modulus.toNat → p.modulus.toNat ≤ 20000 → p.zeroForce.toNat ≤ 100000 →
      -20000 ≤ p.offset.toInt → p.offset.toInt ≤ 20000 → p.gfb.toNat ≤ 256 → p.gff.toNat ≤ 256 →
      p.gm.toNat ≤ (if k = 0 ∨ k = 5 then 64 else 0) → p.trimLimit.toNat ≤ 2000 → 1 ≤ p.stepLimit.toNat →
      p.stepLimit.toNat ≤ 2000 → p.deadband.toNat ≤ 50 → 1 ≤ p.moveBand.toNat → p.moveBand.toNat ≤ 500 →
      50 ≤ p.posTimeout.toNat → p.posTimeout.toNat ≤ 5000 → 100 ≤ p.bite.toNat → p.bite.toNat ≤ 50000 →
      1 ≤ p.limitValue.toNat → p.limitScale.toNat ≤ 3 → 5 ≤ p.unload.toNat → p.unload.toNat ≤ 500 →
      -100000 ≤ p.openGap.toInt → p.openGap.toInt ≤ 400000 →
      exec (.configureStand n p) s = .next
        ((((s.received.setStand k { s.stands[k] with
          params := some ⟨p.modulus.toNat, p.zeroForce.toNat, p.offset.toInt, p.gfb.toNat, p.gff.toNat, p.gm.toNat,
            p.trimLimit.toNat, p.stepLimit.toNat, p.deadband.toNat, p.moveBand.toNat, p.posTimeout.toNat, p.bite.toNat,
            p.limitValue.toNat, p.limitScale.toNat, p.unload.toNat, p.openGap.toInt⟩
          trim := 0, lastSent := none, counters := ⟨0, 0, 0, 0, 0, 0⟩, sum := 0, count := 0 }).inactive
            Kind.forceLimit (k.val + 1)).inactive Kind.forceNearLimit (k.val + 1)).replying 0x42 n .ok [])) ∧
    (p.stand = 0 ∨ 6 < p.stand.toNat ∨ p.modulus.toNat < 1000 ∨ 20000 < p.modulus.toNat ∨ 100000 < p.zeroForce.toNat ∨
      p.offset.toInt < -20000 ∨ 20000 < p.offset.toInt ∨ 256 < p.gfb.toNat ∨ 256 < p.gff.toNat ∨ 64 < p.gm.toNat ∨
      (p.stand ≠ 1 ∧ p.stand ≠ 6 ∧ p.gm ≠ 0) ∨ 2000 < p.trimLimit.toNat ∨ p.stepLimit = 0 ∨ 2000 < p.stepLimit.toNat ∨
      50 < p.deadband.toNat ∨ p.moveBand = 0 ∨ 500 < p.moveBand.toNat ∨ p.posTimeout.toNat < 50 ∨ 5000 < p.posTimeout.toNat ∨
      p.bite.toNat < 100 ∨ 50000 < p.bite.toNat ∨ p.limitValue = 0 ∨ 3 < p.limitScale.toNat ∨ p.unload.toNat < 5 ∨
      500 < p.unload.toNat ∨ p.openGap.toInt < -100000 ∨ 400000 < p.openGap.toInt →
      exec (.configureStand n p) s = .next (s.received.replying 0x42 n .badValue []))) ∧
  (∀ (n : Byte) (p : LinePayload) (s : State), PortFree s → s.mode = .config →
    (100000 ≤ p.segLen.toNat → p.segLen.toNat ≤ 5000000 → 500 ≤ p.linkTimeout.toNat → p.linkTimeout.toNat ≤ 20000 →
      100 ≤ p.openTimeout.toNat → p.openTimeout.toNat ≤ 3000 → p.breakThreshold.toNat ≤ 50000 → 1 ≤ p.breakConfirm.toNat →
      p.breakConfirm.toNat ≤ 50 → p.breakMinSpeed.toNat ≤ 40000 →
      exec (.configureLine n p) s = .next (({ s.received with line := ⟨p.segLen.toNat, p.linkTimeout.toNat,
        p.openTimeout.toNat, p.breakThreshold.toNat, p.breakConfirm.toNat, p.breakMinSpeed.toNat,
        p.runLength.toNat⟩ } : State).replying 0x43 n .ok [])) ∧
    (p.segLen.toNat < 100000 ∨ 5000000 < p.segLen.toNat ∨ p.linkTimeout.toNat < 500 ∨ 20000 < p.linkTimeout.toNat ∨
      p.openTimeout.toNat < 100 ∨ 3000 < p.openTimeout.toNat ∨ 50000 < p.breakThreshold.toNat ∨ p.breakConfirm = 0 ∨
      50 < p.breakConfirm.toNat ∨ 40000 < p.breakMinSpeed.toNat →
      exec (.configureLine n p) s = .next (s.received.replying 0x43 n .badValue [])))

/-- R7: COMMIT_CONFIG in CONFIG, every check passing and (R16) no channel that owns a loss condition INVALID: the flag is
set, the mode becomes READY, the stop outputs are released, the notice is queued and the reply is OK; the conditions of RUN
are inactive, and nothing else changes. R7: the checks of COMMIT_CONFIG in their order: the first required role that no entry
or several entries bind, the first stand whose record is absent or not consistent, the lowest enabled tripping kind that is
latched. Nothing changes. -/
def Obligations.CommitConfigChecked : Prop :=
  (∀ (n : Byte) (s : State), PortFree s → s.mode = .config → RolesBound s → (∀ k : Stand, StandSound s k) → NoTripLatched s →
    NoLoss s →
    exec (.commitConfig n) s = .next
      ((((({ s.received with
          committed := true, mode := .ready, millStop := false, standTrip := Vector.replicate 6 false
          breakTimers := Vector.replicate 5 .stopped } : State).notify (.modeChanged (some .config) .ready .commitConfig)).allInactive
        Kind.stripBreak).allInactive Kind.standUnloaded).replying 0x44 n .ok [])) ∧
  (∀ (n : Byte) (s : State), PortFree s → s.mode = .config →
    (∀ (pre post : List Item) (i : Item), requiredItems = pre ++ i :: post → (∀ x ∈ pre, ∃ e : EntryNo, s.entriesOf x = [e]) →
      (s.entriesOf i = [] → exec (.commitConfig n) s = .next (s.received.replying 0x44 n .notReady
        [0, BitVec.ofNat 8 i.role, BitVec.ofNat 8 (i.place.getD 0), 0])) ∧
      (∀ (e e' : EntryNo) (rest : List EntryNo), s.entriesOf i = e :: e' :: rest →
        exec (.commitConfig n) s = .next (s.received.replying 0x44 n .notReady
          [1, BitVec.ofNat 8 i.role, BitVec.ofNat 8 (i.place.getD 0), BitVec.ofNat 8 e.val]))) ∧
    (RolesBound s → ∀ k : Stand, (∀ j : Stand, j < k → StandSound s j) →
      (s.stands[k].params = none → exec (.commitConfig n) s = .next (s.received.replying 0x44 n .notReady
        [2, BitVec.ofNat 8 (k.val + 1), 0, 0])) ∧
      (∀ p, s.stands[k].params = some p → p.forceLimit ≤ p.zeroForce + p.bite →
        exec (.commitConfig n) s = .next (s.received.replying 0x44 n .notReady [3, BitVec.ofNat 8 (k.val + 1), 0, 0]))) ∧
    (RolesBound s → (∀ k : Stand, StandSound s k) → ∀ d : Kind, s.trips d = true → s.faults[d].latched = true →
      (∀ j : Kind, j < d → s.trips j = true → s.faults[j].latched = false) →
      exec (.commitConfig n) s = .next (s.received.replying 0x44 n .notReady
        [4, BitVec.ofNat 8 d.val, if s.faults[d].active = [] then 0 else 1, 0])))

/-- R8, R16, R92: CONFIG_OPEN in READY: CONFIG, the flag clear, the stop outputs asserted, no schedule left. Each schedule
leaves a WITHDRAWN entry with its tag, cause CONFIG_OPEN and the place it was held: the pending queue in order with the
positions they held (the model's reading, notes/assumptions/17), then the schedule in force. The conditions of RUN and the
losses are inactive with their latches kept; bindings, records, line parameters, stands, actuators, links, policy and the
other logs are kept. -/
def Obligations.ConfigOpened : Prop :=
  ∀ (n : Byte) (s : State), PortFree s → s.mode = .ready → s.table.length ≤ 1 → (∀ e ∈ s.table, e.sched.tag < 32) →
    ∃ t : State, exec (.configOpen n) s = .next (t.replying 0x45 n .ok []) ∧
      t.mode = .config ∧ t.committed = false ∧ t.millStop = true ∧ t.standTrip = Vector.replicate 6 true ∧
      t.queue = [] ∧ t.table = [] ∧
      t.logs[LogNo.schedule] = s.logs[LogNo.schedule].appendAll 32 s.logTime
        ((s.queue.zipIdx 1).map (fun c => LogContent.withdrawn c.1.tag .configOpen (.pending c.2)) ++
          s.table.map fun x => LogContent.withdrawn x.sched.tag .configOpen .inForce) ∧
      (∀ g : LogNo, g ≠ LogNo.schedule → t.logs[g] = s.logs[g]) ∧
      (∀ k : Kind, t.faults[k] = { s.faults[k] with
        active := if k ∈ ([1, 2, 5, 6, 7, 8, 9, 10, 11] : List Kind) then [] else s.faults[k].active }) ∧
      t.breakTimers = Vector.replicate 5 .stopped ∧
      t.port = s.received.port.queueNotice (.modeChanged (some .ready) .config .configOpen) ∧
      t.channels = s.channels ∧ t.links = s.links ∧ t.line = s.line ∧ t.stands = s.stands ∧ t.actuators = s.actuators ∧
      t.policy = s.policy ∧ t.firstOut = s.firstOut ∧ t.trip = s.trip ∧ t.hardStop = s.hardStop ∧ t.ring = s.ring ∧
      t.points = s.points ∧ t.reports = s.reports ∧ t.transitions = s.transitions ∧ t.coilCounter = s.coilCounter ∧
      t.speeds = s.speeds ∧ t.time = s.time

/-- R9, R47, R49, R80, R99, R124, R165: THREAD in READY, its conditions holding and no channel that owns a loss condition
INVALID: segment 0 is opened under the entry schedule with the coil counter's number, X0 stands on it and no other point is
started, one coil report is open with the segment counted in it (notes/assumptions/12), every stand has taken its clamped
setup gap as its first reference, and an IDLE actuator follows or moves towards it. -/
def Obligations.ThreadStarts : Prop :=
  ∀ (n : Byte) (e : InForce) (s : State), PortFree s → s.mode = .ready → s.trip = .normal → s.entrySchedule = some e →
    e.base = none → (∀ k : Stand, s.actuators[k].mode ≠ .unlinked ∧ s.actuators[k].mode ≠ .faulted ∧
      s.actuators[k].readyFlag = some true) → s.ring = [] → s.reports = [] → NoPointStarted s → NoLoss s →
    ∃ t : State, exec (.thread n) s = .next (t.replying 0x46 n .ok []) ∧
      t.mode = .thread ∧ t.millStop = false ∧ t.standTrip = Vector.replicate 6 false ∧
      t.ring = [⟨0, s.coilCounter, e.sched.tag, false, none, [], none, none, none, none, false, false⟩] ∧
      t.reports = [⟨s.coilCounter, e.sched.tag, 1, Vector.replicate 16 0, 0, 0, 0, 0, 0, 0, none, 0, 0, .opened⟩] ∧
      t.points[PointNo.x0].started = true ∧ t.points[PointNo.x0].cursor = 0 ∧ t.points[PointNo.x0].travelled = 0 ∧
      t.points[PointNo.x0].advanced = some s.time ∧ (∀ p : PointNo, p ≠ PointNo.x0 → t.points[p].started = false) ∧
      (∀ k : Stand,
        t.stands[k].mode = (if s.usable (.gapPos k) then .position else .hold) ∧
        t.stands[k].holds = ⟨!s.usable (.gapPos k), false, false, false⟩ ∧ t.stands[k].trim = 0 ∧
        t.stands[k].lastSent = some (clampInt e.sched.stands[k].sset e.sched.stands[k].smin e.sched.stands[k].smax) ∧
        (s.actuators[k].mode = .idle →
          t.actuators[k].target = t.stands[k].lastSent ∧
          t.actuators[k].mode = (if inBand s k (clampInt e.sched.stands[k].sset e.sched.stands[k].smin e.sched.stands[k].smax)
            then .following else .moving))) ∧
      t.table = s.table.map (fun x => if x.sched.tag = e.sched.tag then { x with refs := x.refs + 1 } else x) ∧
      t.queue = s.queue ∧ t.transitions = s.transitions ∧ t.coilCounter = s.coilCounter ∧ t.channels = s.channels ∧
      t.links = s.links ∧ t.line = s.line ∧ t.policy = s.policy ∧ t.trip = .normal ∧ t.committed = s.committed

/-- R10, R98, R99: RUN in THREAD, all nine points started, no loss and no unload timer EXPIRED: the mode becomes RUN, every
stand that qualifies and holds no hold cause goes to GAUGE, and nothing else changes. With a point unstarted it is refused,
naming the first. -/
def Obligations.RunStarts : Prop :=
  ∀ (n : Byte) (s : State), PortFree s → s.mode = .thread →
    ((∀ p : PointNo, s.points[p].started = true) → NoLoss s → (∀ k : Stand, s.stands[k].unload ≠ .expired) →
      ∃ t : State, exec (.run n) s = .next (t.replying 0x47 n .ok []) ∧
        (∀ k : Stand, t.stands[k] = { s.stands[k] with
          mode := if s.usable (.force k) ∧ s.usable (.gapPos k) ∧ (s.actuators[k].mode = .idle ∨ s.actuators[k].mode = .following) ∧
            s.stands[k].holds = ⟨false, false, false, false⟩ then .gauge else s.stands[k].mode }) ∧
        { t with stands := s.stands } = ({ s.received with
          mode := .run, millStop := false, standTrip := Vector.replicate 6 false } : State).notify
            (.modeChanged (some .thread) .run .run)) ∧
    (∀ p : PointNo, s.points[p].started = false → (∀ q : PointNo, q < p → s.points[q].started = true) →
      exec (.run n) s = .next (s.received.replying 0x47 n .notReady [9, BitVec.ofNat 8 p.val, 0, 0]))

/-- R11, R68, R91, R99, R130: STOP in THREAD or RUN, no channel that owns a loss condition INVALID: nothing is tracked any
more, every report is closed, every transition gone, the in-force table reduced to the entry schedules, the pending queue
kept; every stand OFF with its last sent reference, trim and counters kept; MOVING and FOLLOWING actuators IDLE and the
others as they were; the mode READY with the stop outputs released. What it records in the logs and notices is
ClearingRecords. -/
def Obligations.StopEnds : Prop :=
  ∀ (n : Byte) (s : State), PortFree s → (s.mode = .thread ∨ s.mode = .run) → NoLoss s →
    ∃ t : State, exec (.stop n) s = .next (t.replying 0x48 n .ok []) ∧
      t.mode = .ready ∧ t.millStop = false ∧ t.standTrip = Vector.replicate 6 false ∧
      t.ring = [] ∧ t.reports = [] ∧ t.transitions = [] ∧ NoPointStarted t ∧ t.coilCounter = s.coilCounter + 1 ∧
      ((∀ r, s.runState = some r → ∃ g ∈ s.ring, g.coil = r.coil) → t.runState = none) ∧
      t.queue = s.queue ∧ t.table.map (·.sched) = (s.table.filter (·.isEntry)).map (·.sched) ∧
      (∀ x ∈ t.table, x.isEntry = true ∧ x.base = none) ∧
      (∀ k : Stand, t.stands[k] = { s.stands[k] with
        mode := .off, holds := ⟨false, false, false, false⟩, unload := .stopped, bite := none, sum := 0, count := 0 }) ∧
      (∀ k : Stand, t.actuators[k] = { s.actuators[k] with
        mode := if s.actuators[k].mode = .moving ∨ s.actuators[k].mode = .following then .idle else s.actuators[k].mode
        demand := false, posTimer := none, openTimer := none }) ∧
      t.channels = s.channels ∧ t.links = s.links ∧ t.line = s.line ∧ t.policy = s.policy ∧ t.firstOut = s.firstOut ∧
      (∀ k : Kind, t.faults[k].latched = s.faults[k].latched ∧ t.faults[k].count = s.faults[k].count) ∧
      t.faults[Kind.trackOverrun].active = [] ∧ t.faults[Kind.trackFull].active = [] ∧ t.faults[Kind.offGaugeRun].active = [] ∧
      t.sent = [] ∧ t.logs[LogNo.fault] = s.logs[LogNo.fault] ∧ t.logs[LogNo.note] = s.logs[LogNo.note]

/-- R13, R154: TRIP_RESET in TRIPPED: refused TRIP_ACTIVE while OPENING, and NOT_READY naming the lowest enabled tripping
kind that is latched; otherwise, no channel that owns a loss condition being INVALID, the trip state is NORMAL, the outputs
are released, nothing is tracked, every stand is OFF and the OPEN, OPENING and FOLLOWING actuators are IDLE; the first-out
record, the policy, the latches and the pending queue are kept. What it records in the logs and notices is ClearingRecords.
-/
def Obligations.TripResetEnds : Prop :=
  ∀ (n : Byte) (s : State), PortFree s → s.mode = .tripped →
    (s.trip = .opening → exec (.tripReset n) s = .next (s.received.replying 0x49 n .tripActive [])) ∧
    (s.trip ≠ .opening → ∀ d : Kind, s.trips d = true → s.faults[d].latched = true →
      (∀ j : Kind, j < d → s.trips j = true → s.faults[j].latched = false) →
      exec (.tripReset n) s = .next (s.received.replying 0x49 n .notReady
        [4, BitVec.ofNat 8 d.val, if s.faults[d].active = [] then 0 else 1, 0])) ∧
    (s.trip ≠ .opening → NoTripLatched s → NoLoss s → ∃ t : State, exec (.tripReset n) s = .next (t.replying 0x49 n .ok []) ∧
      t.mode = .ready ∧ t.trip = .normal ∧ t.millStop = false ∧ t.standTrip = Vector.replicate 6 false ∧ t.hardStop = false ∧
      t.opened = Vector.replicate 6 false ∧ t.ring = [] ∧ t.reports = [] ∧ t.transitions = [] ∧ NoPointStarted t ∧
      t.coilCounter = s.coilCounter + 1 ∧ t.queue = s.queue ∧
      t.table.map (·.sched) = (s.table.filter (·.isEntry)).map (·.sched) ∧
      (∀ k : Stand, t.stands[k].mode = .off ∧ t.stands[k].holds = ⟨false, false, false, false⟩ ∧ t.stands[k].unload = .stopped ∧
        t.stands[k].params = s.stands[k].params ∧ t.stands[k].trim = s.stands[k].trim) ∧
      (∀ k : Stand, t.actuators[k] = { s.actuators[k] with
        mode := if s.actuators[k].mode = .opened ∨ s.actuators[k].mode = .opening ∨ s.actuators[k].mode = .following then .idle
          else s.actuators[k].mode
        demand := false, posTimer := none, openTimer := none }) ∧
      t.firstOut = s.firstOut ∧ t.policy = s.policy ∧
      (∀ k : Kind, t.faults[k].latched = s.faults[k].latched ∧ t.faults[k].count = s.faults[k].count) ∧
      t.channels = s.channels ∧ t.links = s.links ∧ t.line = s.line ∧ t.logs[LogNo.note] = s.logs[LogNo.note])

/-- R14: RESTART outside TRIPPED, no loss condition being able to arise: READY or CONFIG by the committed flag; no schedule,
no trace of tracking (conditions are judged only where the mode changes: notes/assumptions/18), every stand OFF with trim 0,
the notice queue emptied but for its own notice; configuration, links, latches, counts, first-out record, policy, the note
log and the times are kept. What it records in the logs is ClearingRecords. -/
def Obligations.RestartResets : Prop :=
  ∀ (n : Byte) (s : State), PortFree s → s.mode ≠ .tripped → (s.committed = true → NoLoss s) →
    ∃ t : State, exec (.restart n) s = .next (t.replying 0x4A n .ok []) ∧
      t.mode = (if s.committed then .ready else .config) ∧ t.committed = s.committed ∧
      t.millStop = !s.committed ∧ t.standTrip = Vector.replicate 6 (!s.committed) ∧
      t.queue = [] ∧ t.table = [] ∧ t.runState = none ∧
      (s.mode = .thread ∨ s.mode = .run → t.ring = [] ∧ t.reports = [] ∧ t.transitions = [] ∧ NoPointStarted t ∧
        t.coilCounter = s.coilCounter + 1) ∧
      (s.mode = .config ∨ s.mode = .ready → t.ring = s.ring ∧ t.points = s.points ∧ t.coilCounter = s.coilCounter) ∧
      t.port.notices = [.modeChanged (some s.mode) (if s.committed then .ready else .config) .restart] ∧
      (∀ k : Stand, t.stands[k].mode = .off ∧ t.stands[k].holds = ⟨false, false, false, false⟩ ∧ t.stands[k].unload = .stopped ∧
        t.stands[k].trim = 0 ∧ t.stands[k].params = s.stands[k].params ∧ t.stands[k].lastSent = s.stands[k].lastSent) ∧
      (∀ k : Stand, t.actuators[k] = { s.actuators[k] with
        mode := if s.actuators[k].mode = .moving ∨ s.actuators[k].mode = .following then .idle else s.actuators[k].mode
        demand := false, posTimer := none, openTimer := none }) ∧
      (∀ k : Kind, t.faults[k].latched = s.faults[k].latched ∧ t.faults[k].count = s.faults[k].count ∧
        t.faults[k].first = s.faults[k].first ∧ t.faults[k].last = s.faults[k].last) ∧
      t.firstOut = s.firstOut ∧ t.policy = s.policy ∧ t.trip = s.trip ∧ t.channels = s.channels ∧ t.links = s.links ∧
      t.line = s.line ∧ t.logs[LogNo.note] = s.logs[LogNo.note] ∧ t.logs[LogNo.fault] = s.logs[LogNo.fault] ∧
      t.time = s.time ∧ t.logTime = s.logTime

/-- R11, R14, R68, R91, R92, R154, R160, R168: what a clearing of tracking by STOP, TRIP_RESET or RESTART records, no channel
that owns a loss condition being INVALID and each coil having one report. Every open report, oldest first, has its coil's
ring segments accounted as discarded, leaves its entry in the coil log and its COIL_REPORT notice, STOPPED or TRIPPED; every
ACTIVE transition, in weld order, its CANCELLED entry and notice; a LOGGED run of a coil in the ring its OFF_GAUGE entry;
then MODE_CHANGED. TRIP_RESET writes its TRIP_STATE entry. RESTART further writes WITHDRAWN for each pending schedule, in
queue order with the position it held (the model's reading, notes/assumptions/17), and for each in force that is left, and
keeps no notice but its own. -/
def Obligations.ClearingRecords : Prop :=
  ∀ (n : Byte) (s : State) (ts : List Transition) (run : Option RunState) (withdrawn : List LogContent), PortFree s → NoLoss s →
    (s.reports.map (·.coil)).Nodup → InWeldOrder ts s →
    run = s.runState.filter (fun r => s.ring.any fun g => g.coil == r.coil) →
    withdrawn = (s.queue.zipIdx 1).map (fun c => LogContent.withdrawn c.1.tag .restart (.pending c.2)) →
    ((s.mode = .thread ∨ s.mode = .run) → ∃ t : State, exec (.stop n) s = .next (t.replying 0x48 n .ok []) ∧
      t.logs[LogNo.coil] = s.logs[LogNo.coil].appendAll 16 s.logTime
        (s.reports.map fun (r : CoilReport) => LogContent.coil (r.cleared s .stopped)) ∧
      t.logs[LogNo.schedule] = s.logs[LogNo.schedule].appendAll 32 s.logTime (ts.map .cancelled) ∧
      t.logs[LogNo.defect] = s.logs[LogNo.defect].afterRun run s.logTime ∧
      t.port = (s.reports.map (fun (r : CoilReport) => Notice.coilReport (r.cleared s .stopped)) ++
        (ts.map (fun x => Notice.transition .cancelled x none) ++
          [Notice.modeChanged (some s.mode) .ready .stop])).foldl Port.queueNotice s.received.port) ∧
    (s.mode = .tripped → s.trip ≠ .opening → NoTripLatched s → ∃ t : State,
      exec (.tripReset n) s = .next (t.replying 0x49 n .ok []) ∧
      t.logs[LogNo.coil] = s.logs[LogNo.coil].appendAll 16 s.logTime
        (s.reports.map fun (r : CoilReport) => LogContent.coil (r.cleared s .tripped)) ∧
      t.logs[LogNo.schedule] = s.logs[LogNo.schedule].appendAll 32 s.logTime (ts.map .cancelled) ∧
      t.logs[LogNo.defect] = s.logs[LogNo.defect].afterRun run s.logTime ∧
      (∀ d : FirstOut, s.firstOut = some d → t.logs[LogNo.fault] = s.logs[LogNo.fault].append 128 s.logTime
        (.tripState .normal d.kind d.location (some d.subsequent))) ∧
      t.port = (s.reports.map (fun (r : CoilReport) => Notice.coilReport (r.cleared s .tripped)) ++
        (ts.map (fun x => Notice.transition .cancelled x none) ++
          [Notice.modeChanged (some s.mode) .ready .tripReset])).foldl Port.queueNotice s.received.port) ∧
    (∀ x : InForce, (s.mode = .thread ∨ s.mode = .run) → s.table.filter (·.isEntry) = [x] → x.sched.tag < 32 →
      (∀ y ∈ s.table, y.isEntry = true ∨ (0 < y.refs ∧ y.refs = (s.ring.filter (·.tag == y.sched.tag)).length)) →
      ∃ t : State, exec (.restart n) s = .next (t.replying 0x4A n .ok []) ∧
        t.logs[LogNo.coil] = s.logs[LogNo.coil].appendAll 16 s.logTime
          (s.reports.map fun (r : CoilReport) => LogContent.coil (r.cleared s .stopped)) ∧
        t.logs[LogNo.schedule] = s.logs[LogNo.schedule].appendAll 32 s.logTime
          (ts.map .cancelled ++ (withdrawn ++ [.withdrawn x.sched.tag .restart .inForce])) ∧
        t.logs[LogNo.defect] = s.logs[LogNo.defect].afterRun run s.logTime) ∧
    ((s.mode = .config ∨ s.mode = .ready) → s.table.length ≤ 1 → (∀ y ∈ s.table, y.sched.tag < 32) →
      ∃ t : State, exec (.restart n) s = .next (t.replying 0x4A n .ok []) ∧ t.logs[LogNo.coil] = s.logs[LogNo.coil] ∧
        t.logs[LogNo.schedule] = s.logs[LogNo.schedule].appendAll 32 s.logTime
          (withdrawn ++ s.table.map fun y => .withdrawn y.sched.tag .restart .inForce) ∧
        t.logs[LogNo.defect] = s.logs[LogNo.defect])

/-! ### Schedules -/

/-- R72 to R77: SCHEDULE_LOAD. NOW, in READY without an entry schedule: the record enters the in-force table with the entry
flag; AT_WELD, outside CONFIG with room in the queue: it joins the queue's tail. A tag 0 to 31 is kept, tag 255 takes the
lowest free tag; the LOADED entry is written and the reply carries tag and place. A load of either take mode is refused
BAD_VALUE where its record is not valid (R73: the tag, a value, a gap limit against its stand's open gap, where a stand
record that is absent fails by the model's reading of notes/assumptions/26, or the mark mode) or, brought as a frame, where
its take mode is neither; TAG_IN_USE where its tag is in use, or it asks for one and all 32 are in use; and AT_WELD is
refused QUEUE_FULL, with no tag assigned, where the queue holds 8, once the other checks have passed. A refusal changes
nothing. -/
def Obligations.SchedulesPlaced : Prop :=
  ∀ (n : Byte) (p : SchedulePayload) (s : State), PortFree s →
    (∀ t : Nat, s.tagInUse t = true ↔ (∃ c ∈ s.queue, c.tag = t) ∨ ∃ x ∈ s.table, x.sched.tag = t) ∧
    (∀ t : Nat, ValidPayload s p → (p.tag.toNat ≤ 31 ∧ t = p.tag.toNat ∧ s.tagInUse t = false) ∨
        (p.tag.toNat = 255 ∧ t < 32 ∧ s.tagInUse t = false ∧ ∀ u < t, s.tagInUse u = true) →
      (s.mode = .ready → s.entrySchedule = none → ∃ c : Schedule, RecordOf c p .now t ∧
        exec (.scheduleLoadNow n p) s = .next
          ((({ s.received with table := s.table ++ [⟨c, true, 0, none⟩] } : State).append LogNo.schedule
            (.loaded t .now .inForce)).replying 0x4B n .ok [BitVec.ofNat 8 t, 1, 0])) ∧
      (s.mode ≠ .config → s.queue.length < 8 → ∃ c : Schedule, RecordOf c p .atWeld t ∧
        exec (.scheduleLoadAtWeld n p) s = .next
          ((({ s.received with queue := s.queue ++ [c] } : State).append LogNo.schedule
            (.loaded t .atWeld (.pending (s.queue.length + 1)))).replying 0x4B n .ok
              [BitVec.ofNat 8 t, 0, BitVec.ofNat 8 (s.queue.length + 1)])) ∧
      (s.mode ≠ .config → 8 ≤ s.queue.length →
        exec (.scheduleLoadAtWeld n p) s = .next (s.received.replying 0x4B n .queueFull []))) ∧
    (∀ c : Instr, (c = .scheduleLoadNow n p ∧ s.mode = .ready ∧ s.entrySchedule = none) ∨
        (c = .scheduleLoadAtWeld n p ∧ s.mode ≠ .config) →
      ((31 < p.tag.toNat ∧ p.tag.toNat < 255) ∨ ¬ ValidPayload s p →
        exec c s = .next (s.received.replying 0x4B n .badValue [])) ∧
      (ValidPayload s p → (p.tag.toNat ≤ 31 ∧ s.tagInUse p.tag.toNat = true) ∨
          (p.tag.toNat = 255 ∧ ∀ u < 32, s.tagInUse u = true) →
        exec c s = .next (s.received.replying 0x4B n .tagInUse []))) ∧
    (∀ take : Byte, 1 < take.toNat → s.mode ≠ .config → s.port.rx = [] →
      exec (.supervisorFrame (supervisorFrameBytes 0x0B n (requestPayload (.scheduleLoad take p)))) s = .next
        (s.received.replying 0x4B n .badValue []))

/-- R78, R79: SCHEDULE_WITHDRAW takes a pending record out of the queue, writes WITHDRAWN with the position it held and
answers the new depth; a tag in force is refused IN_FORCE, one not in use NO_SUCH_TAG, one above 31 BAD_VALUE. SCHEDULE_QUERY
answers with the record and its place and changes nothing. -/
def Obligations.WithdrawAndQuerySchedule : Prop :=
  ∀ (n tag : Byte) (s : State), PortFree s →
    (∀ (pre post : List Schedule) (c : Schedule), s.queue = pre ++ c :: post → c.tag = tag.toNat → tag.toNat ≤ 31 →
      (∀ x ∈ pre ++ post, x.tag ≠ tag.toNat) → (∀ e ∈ s.table, e.sched.tag ≠ tag.toNat) →
      exec (.scheduleWithdraw n tag) s = .next
        ((({ s.received with queue := pre ++ post } : State).append LogNo.schedule
          (.withdrawn c.tag .request (.pending (pre.length + 1)))).replying 0x4C n .ok
            [BitVec.ofNat 8 (pre.length + post.length)]) ∧
      exec (.scheduleQuery n tag) s = .next (s.received.replying 0x4D n .ok
        (recordBytes c ++ [0, BitVec.ofNat 8 (pre.length + 1)]))) ∧
    (∀ e : InForce, tag.toNat ≤ 31 → s.table.find? (·.sched.tag == tag.toNat) = some e →
      exec (.scheduleWithdraw n tag) s = .next (s.received.replying 0x4C n .inForce [tag]) ∧
      exec (.scheduleQuery n tag) s = .next (s.received.replying 0x4D n .ok
        (recordBytes e.sched ++ ([1] ++ (bytes16 (BitVec.ofNat 16 e.refs) ++ (flag8 e.isEntry ++ (optional rampBaseBytes e.base ++
          optional (fun (t : Transition) => bytes32 t.weld ++ standSet t.switched)
            (s.transitions.find? (·.toTag == e.sched.tag))))))))) ∧
    (tag.toNat ≤ 31 → s.tagInUse tag.toNat = false →
      exec (.scheduleWithdraw n tag) s = .next (s.received.replying 0x4C n .noSuchTag []) ∧
      exec (.scheduleQuery n tag) s = .next (s.received.replying 0x4D n .noSuchTag [])) ∧
    (31 < tag.toNat →
      exec (.scheduleWithdraw n tag) s = .next (s.received.replying 0x4C n .badValue []) ∧
      exec (.scheduleQuery n tag) s = .next (s.received.replying 0x4D n .badValue []))

/-! ### The fault table -/

/-- R145: FAULT_POLICY in every mode: BAD_VALUE for a kind above 21 or a severity that is neither, POLICY_FIXED for a fixed
kind that would change, LATCHED for a latched kind that would change; otherwise enable and severity are replaced and the
reply is OK with the policy in force. -/
def Obligations.FaultPolicySet : Prop :=
  ∀ (n kind : Byte) (enable : Bool) (severity : Byte) (s : State), PortFree s →
    (21 < kind.toNat ∨ (severity ≠ 0 ∧ severity ≠ 1) →
      exec (.faultPolicy n kind enable severity) s = .next (s.received.replying 0x4E n .badValue [])) ∧
    (∀ k : Kind, kind.toNat = k.val → severity = 0 ∨ severity = 1 →
      ((k = 0 ∨ k = 3 ∨ k = 16) → s.policy[k] ≠ ⟨enable, severity == 1⟩ →
        exec (.faultPolicy n kind enable severity) s = .next (s.received.replying 0x4E n .policyFixed [])) ∧
      ((k ≠ 0 ∧ k ≠ 3 ∧ k ≠ 16) → s.faults[k].latched = true → s.policy[k] ≠ ⟨enable, severity == 1⟩ →
        exec (.faultPolicy n kind enable severity) s = .next (s.received.replying 0x4E n .latched [kind])) ∧
      (s.policy[k] = ⟨enable, severity == 1⟩ ∨ (k ≠ 0 ∧ k ≠ 3 ∧ k ≠ 16 ∧ s.faults[k].latched = false) →
        exec (.faultPolicy n kind enable severity) s = .next
          (({ s.received with policy := s.policy.set k ⟨enable, severity == 1⟩ } : State).replying 0x4E n .ok
            [kind, BitVec.ofNat 8 (enable.toNat + 2 * severity.toNat + 4 * (if k = 0 ∨ k = 3 ∨ k = 16 then 1 else 0))])))

/-- R146: FAULT_CLEAR in every mode: each listed kind that is latched and not active loses its latch, first location and
first time; the first-out record is cleared with its kind while the trip state is NORMAL; the reply names the listed kinds
that stayed latched, and every latched kind; nothing else changes. A set that names a kind above 21 is refused BAD_VALUE.
R147: COUNT_RESET in every mode: the counts of the listed kinds become 0 and nothing else changes. A set that names a kind
above 21 is refused BAD_VALUE. -/
def Obligations.LatchesAndCountsCleared : Prop :=
  (∀ (n : Byte) (ks : BitVec 24) (s : State), PortFree s →
    (ks.getLsbD 22 = true ∨ ks.getLsbD 23 = true →
      exec (.faultClear n ks) s = .next (s.received.replying 0x4F n .badValue [])) ∧
    (ks.getLsbD 22 = false → ks.getLsbD 23 = false → ∃ t : State,
      exec (.faultClear n ks) s = .next (t.replying 0x4F n .ok
        (kindSet (fun k => ks.getLsbD k.val && (s.faults[k].latched && !s.faults[k].active.isEmpty)) ++
          kindSet (fun k => t.faults[k].latched))) ∧
      (∀ k : Kind, t.faults[k] = if ks.getLsbD k.val ∧ s.faults[k].latched ∧ s.faults[k].active = [] then
        { s.faults[k] with latched := false, first := none } else s.faults[k]) ∧
      t.firstOut = (match s.firstOut with
        | some f => if s.trip = .normal ∧ ks.getLsbD f.kind.val ∧ t.faults[f.kind].latched = false then none else some f
        | none => none) ∧
      { t with faults := s.faults, firstOut := s.firstOut } = s.received)) ∧
  (∀ (n : Byte) (ks : BitVec 24) (s : State), PortFree s →
    (ks.getLsbD 22 = true ∨ ks.getLsbD 23 = true →
      exec (.countReset n ks) s = .next (s.received.replying 0x50 n .badValue [])) ∧
    (ks.getLsbD 22 = false → ks.getLsbD 23 = false → ∃ t : State, exec (.countReset n ks) s = .next (t.replying 0x50 n .ok []) ∧
      (∀ k : Kind, t.faults[k] = { s.faults[k] with count := if ks.getLsbD k.val then 0 else s.faults[k].count }) ∧
      { t with faults := s.faults } = s.received))

/-! ### Queries -/

/-- R116, R118, R148, R186 to R189, R192: STATUS, FAULT_QUERY, CHANNEL_READ and LINK_STATUS in every mode answer OK and
change nothing; their fields are, in the order of sections 11.3.1 and 11.3.9, the bytes that `StatusLayout`, `FaultLayout`,
`ChannelLayout` and `LinkLayout` spell out bit by bit, under the codes of section 11.1, which the last clause lists. (STATUS
where the tables keep their capacities, CapacitiesHold, so that its packed counts hold.) A kind, entry or link that does not
exist is refused BAD_VALUE. -/
def Obligations.QueriesAnswer : Prop :=
  ∀ (n x : Byte) (s : State), PortFree s →
    (∃ fs, exec (.status n) s = .next (s.received.replying 0x5A n .ok fs) ∧
      (WithinCapacity s → (∀ y ∈ s.table, y.sched.tag < 32) → StatusLayout s.received fs)) ∧
    (∀ k : Kind, x.toNat = k.val → ∃ fs, exec (.faultQuery n x) s = .next (s.received.replying 0x51 n .ok fs) ∧
      FaultLayout s k fs) ∧
    (21 < x.toNat → exec (.faultQuery n x) s = .next (s.received.replying 0x51 n .badValue [])) ∧
    (∀ e : EntryNo, x.toNat = e.val → ∃ fs, exec (.channelRead n x) s = .next (s.received.replying 0x54 n .ok fs) ∧
      ChannelLayout s e fs) ∧
    (31 < x.toNat → exec (.channelRead n x) s = .next (s.received.replying 0x54 n .badValue [])) ∧
    (∀ l : LinkNo, x.toNat = l.val → ∃ fs, exec (.linkStatus n x) s = .next (s.received.replying 0x55 n .ok fs) ∧
      LinkLayout s l fs) ∧
    (7 < x.toNat → exec (.linkStatus n x) s = .next (s.received.replying 0x55 n .badValue [])) ∧
    ([Mode.config, .ready, .thread, .run, .tripped].map Mode.num = [0, 1, 2, 3, 4] ∧
      [TripState.normal, .opening, .safe, .hardStop].map TripState.num = [0, 1, 2, 3] ∧
      [StandMode.off, .position, .hold, .gauge, .opened].map StandMode.num = [0, 1, 2, 3, 4] ∧
      [Timer.stopped, .running s.time, .expired].map Timer.num = [0, 1, 2] ∧
      [ActMode.unlinked, .idle, .following, .moving, .opening, .opened, .faulted].map ActMode.num = [0, 1, 2, 3, 4, 5, 6] ∧
      [LinkMode.disabled, .down, .training, .up].map LinkMode.num = [0, 1, 2, 3] ∧
      (∀ c : InvalidCause, [ChannelState.unbound, .noData, .valid, .stale, .invalid c].map ChannelState.num = [0, 1, 2, 3, 4]) ∧
      [InvalidCause.linkLost, .headFault, .range, .age].map InvalidCause.num = [0, 1, 2, 3] ∧
      [Item.entryThick, .stand1Thick, .exitThick, .entryLength].map (fun i => (i.role, i.place)) =
        [(0, none), (1, none), (2, none), (3, none)] ∧
      (∀ k : Stand, [Item.force k, .gapPos k, .rollSpeed k].map (fun i => (i.role, i.place)) =
        [(4, some (k.val + 1)), (5, some (k.val + 1)), (6, some (k.val + 1))]) ∧
      (∀ j : Interstand, (Item.tension j).role = 7 ∧ (Item.tension j).place = some (j.val + 1)))

/-- R190: IDENTIFY in every mode answers the part code, revision 1.0 and the capacities, and changes nothing. -/
def Obligations.IdentifyAnswers : Prop :=
  ∀ (n : Byte) (s : State), PortFree s → exec (.identify n) s = .next (s.received.replying 0x5B n .ok
    [0x06, 0x7C, 1, 0, 8, 4, 32, 6, 6, 0, 1, 8, 3, 2, 32, 4, 22, 128, 64, 16, 32, 32, 4, 32, 240])

/-- R69, R192: SEGMENT_QUERY in every mode: by number, by a started point, the oldest or the newest segment: the reply
carries the record, the ring summary and the nine points, laid out as sections 11.3.3 and 11.3.9 have them, and nothing
changes. A segment not in the ring, an unstarted point and an empty ring are answered NOT_TRACKED, another selector or point
BAD_VALUE. -/
def Obligations.SegmentQueryAnswers : Prop :=
  ∀ (n : Byte) (arg : BitVec 32) (s : State), PortFree s →
    (∀ (sel : Byte) (g : Segment),
      (sel = 0 ∧ s.ring.find? (·.number == arg) = some g) ∨
      (sel = 1 ∧ (∃ p : PointNo, arg.toNat = p.val ∧ s.points[p].started = true ∧
        s.ring.find? (·.number == s.points[p].cursor) = some g)) ∨
      (sel = 2 ∧ (∃ rest, s.ring = g :: rest)) ∨ (sel = 3 ∧ (∃ pre, s.ring = pre ++ [g])) →
      ∃ fs : List Byte, exec (.segmentQuery n sel arg) s = .next (s.received.replying 0x52 n .ok fs) ∧ SegmentLayout s g fs) ∧
    ((∀ g ∈ s.ring, g.number ≠ arg) → exec (.segmentQuery n 0 arg) s = .next (s.received.replying 0x52 n .notTracked [])) ∧
    (∀ p : PointNo, arg.toNat = p.val → s.points[p].started = false →
      exec (.segmentQuery n 1 arg) s = .next (s.received.replying 0x52 n .notTracked [])) ∧
    (8 < arg.toNat → exec (.segmentQuery n 1 arg) s = .next (s.received.replying 0x52 n .badValue [])) ∧
    (s.ring = [] → ∀ sel : Byte, sel = 2 ∨ sel = 3 →
      exec (.segmentQuery n sel arg) s = .next (s.received.replying 0x52 n .notTracked [])) ∧
    (∀ sel : Byte, 3 < sel.toNat → exec (.segmentQuery n sel arg) s = .next (s.received.replying 0x52 n .badValue []))

/-- R162, R163: SEGMENT_MARK: every segment of the range that is in the ring has its manual mark set or cleared: with a count
of 1 or more the range is that many numbers from the first segment, with a count of 0 it runs to the newest ring segment of
the first segment's coil (the ring holding the range whole) and leaves none not reached. SET with mode LOGGED writes one
MANUAL entry, with the coil of the first segment and the last segment acted on; SET with mode QUIET and CLEAR write nothing;
the reply counts the segments acted on and those not reached. A first segment that is not in the ring is refused NOT_TRACKED,
a mode that is neither BAD_VALUE; nothing changes then. -/
def Obligations.SegmentsMarked : Prop :=
  ∀ (n : Byte) (first : BitVec 32) (count : BitVec 16) (mode : Byte) (s : State), PortFree s →
    (mode ≠ 1 → mode ≠ 2 →
      exec (.segmentMarkSet n first count mode) s = .next (s.received.replying 0x53 n .badValue []) ∧
      exec (.segmentMarkClear n first count mode) s = .next (s.received.replying 0x53 n .badValue [])) ∧
    (mode = 1 ∨ mode = 2 → (∀ g ∈ s.ring, g.number ≠ first) →
      exec (.segmentMarkSet n first count mode) s = .next (s.received.replying 0x53 n .notTracked []) ∧
      exec (.segmentMarkClear n first count mode) s = .next (s.received.replying 0x53 n .notTracked [])) ∧
    (∀ (g newest last : Segment) (acted : List Segment) (reach missed : Nat), s.ring.find? (·.number == first) = some g →
      acted = s.ring.filter (fun x => decide ((x.number - first).toNat < reach)) → acted.getLast? = some last →
      ((count ≠ 0 ∧ reach = count.toNat ∧ missed = count.toNat - acted.length) ∨
        (count = 0 ∧ (s.ring.filter (·.coil == g.coil)).getLast? = some newest ∧
          reach = (newest.number - first).toNat + 1 ∧ acted.length = reach ∧ missed = 0)) →
      (∀ t : State, t = { s.received with ring := s.ring.map fun x =>
          if (x.number - first).toNat < reach then { x with manual := true } else x } →
        (mode = 2 → exec (.segmentMarkSet n first count mode) s = .next (t.replying 0x53 n .ok
          (bytes16 (BitVec.ofNat 16 acted.length) ++ bytes16 (BitVec.ofNat 16 missed)))) ∧
        (mode = 1 → exec (.segmentMarkSet n first count mode) s = .next
          ((t.append LogNo.defect (.manual g.coil first last.number acted.length)).replying 0x53 n .ok
            (bytes16 (BitVec.ofNat 16 acted.length) ++ bytes16 (BitVec.ofNat 16 missed))))) ∧
      (mode = 1 ∨ mode = 2 → exec (.segmentMarkClear n first count mode) s = .next
        (({ s.received with ring := s.ring.map fun x =>
            if (x.number - first).toNat < reach then { x with manual := false } else x } : State).replying 0x53 n .ok
          (bytes16 (BitVec.ofNat 16 acted.length) ++ bytes16 (BitVec.ofNat 16 missed)))))

/-! ### Link control -/

/-- R22, R24, R25, R27, R28, R29, R30: the actions of LINK_CONTROL on one link, by its state; "no change" is answered OK as
well, and the reply carries the link's state after the action. (DISABLE from another state is LinkLossMarksChannels.) ENABLE
of a DISABLED link takes it to DOWN; where an entry is bound to it SENSOR_LINK_DOWN is active and taken in the same step
(stated where kind 12 is enabled and not tripping). Two clauses of ENABLE with a bound entry are the model's reading,
notes/assumptions/13, and no rule of the spec: that the FAULT notice stands before that of the link, and that every channel
stays as it is, one in NO_DATA too (R27 gives the effects of R26 to DISABLE alone; R26 and R40 can be read to have the entry
to DOWN make such a channel INVALID). A link above 7 is refused BAD_VALUE. -/
def Obligations.LinkActions : Prop :=
  ∀ (n x : Byte) (s : State), PortFree s →
    (7 < x.toNat → ∀ c ∈ [Instr.retrain n x, .disable n x, .enable n x, .clearCounters n x],
      exec c s = .next (s.received.replying 0x56 n .badValue [])) ∧
    (∀ l : LinkNo, x.toNat = l.val →
      exec (.clearCounters n x) s = .next ((s.received.setLink l { s.links[l] with good := 0, crcErrors := 0, gaps := 0 }).replying
        0x56 n .ok [x, BitVec.ofNat 8 s.links[l].mode.num]) ∧
      (s.links[l].mode = .disabled ∨ s.links[l].mode = .down →
        exec (.retrain n x) s = .next (s.received.replying 0x56 n .ok [x, BitVec.ofNat 8 s.links[l].mode.num])) ∧
      (s.links[l].mode = .training →
        exec (.retrain n x) s = .next ((s.received.setLink l { s.links[l] with training := 0 }).replying 0x56 n .ok [x, 2])) ∧
      (s.links[l].mode = .up →
        exec (.retrain n x) s = .next (((s.received.setLink l { s.links[l] with mode := .training, training := 0 }).notify
          (.linkState l .up .training .requestedRetrain s.links[l].good s.links[l].crcErrors s.links[l].gaps)).replying
            0x56 n .ok [x, 2])) ∧
      (s.links[l].mode = .disabled →
        exec (.disable n x) s = .next (s.received.replying 0x56 n .ok [x, 0])) ∧
      (s.links[l].mode ≠ .disabled →
        exec (.enable n x) s = .next (s.received.replying 0x56 n .ok [x, BitVec.ofNat 8 s.links[l].mode.num])) ∧
      (s.links[l].mode = .disabled → (∀ (e : EntryNo) (c : ChannelConfig), s.channels[e].config = some c → c.link ≠ l) →
        exec (.enable n x) s = .next (((s.received.setLink l { s.links[l] with mode := .down }).notify
          (.linkState l .disabled .down .enabled s.links[l].good s.links[l].crcErrors s.links[l].gaps)).replying 0x56 n .ok [x, 1])) ∧
      (s.links[l].mode = .disabled → (∃ (e : EntryNo) (c : ChannelConfig), s.channels[e].config = some c ∧ c.link = l) →
        s.trips Kind.sensorLinkDown = false → l.val ∉ s.faults[Kind.sensorLinkDown].active →
        s.policy[Kind.sensorLinkDown].enabled = true →
        ∃ t : State, exec (.enable n x) s = .next (t.replying 0x56 n .ok [x, 1]) ∧
          t.links = s.links.set l { s.links[l] with mode := .down } ∧ t.channels = s.channels ∧ t.mode = s.mode ∧
          t.trip = s.trip ∧ t.stands = s.stands ∧ t.actuators = s.actuators ∧
          l.val ∈ t.faults[Kind.sensorLinkDown].active ∧ t.faults[Kind.sensorLinkDown].latched = true ∧
          t.faults[Kind.sensorLinkDown].count = min (s.faults[Kind.sensorLinkDown].count + 1) 255 ∧
          t.port = (s.received.port.queueNotice (.fault Kind.sensorLinkDown l.val t.faults[Kind.sensorLinkDown].count
            s.policy[Kind.sensorLinkDown].tripping s.mode s.trip .none)).queueNotice
              (.linkState l .disabled .down .enabled s.links[l].good s.links[l].crcErrors s.links[l].gaps)))

/-- R20, R26, R27, R29, R30, R39, R41, R43: LINK_CONTROL DISABLE of a link that is not DISABLED, and the expiry of the frame
timer of a link in TRAINING or UP: the link's training state is emptied, every entry bound to it becomes INVALID with cause
LINK_LOST and no other entry changes; on the way to DOWN with an entry bound, SENSOR_LINK_DOWN is active, and on the way from
DOWN to DISABLED it ends. Outside CONFIG the loss conditions of the channels that were not INVALID are active; in CONFIG none
joins. The readers take all these losses together, a stand that loses both force and gap position going to HOLD (stated, with
that nothing else changes, where no kind that the event raises is an enabled tripping kind). The LINK_STATE notice is queued
last. A timer that is not due does nothing, and at expiry in DOWN it is stopped. (The receiver's bytes are dropped at
DISABLE: the model's choice of notes/assumptions/7.) -/
def Obligations.LinkLossMarksChannels : Prop :=
  (∀ (n x : Byte) (l : LinkNo) (s : State), PortFree s → x.toNat = l.val → s.links[l].mode ≠ .disabled →
    ∃ t : State, exec (.disable n x) s = .next (t.replying 0x56 n .ok [x, 0]) ∧
      t.links = s.links.set l { s.links[l] with
        mode := .disabled, timer := none, training := 0, crcRun := 0, seqRef := none, rx := [] } ∧
      (∀ e : EntryNo, t.channels[e] = if s.channels[e].config.map (·.link) = some l ∧ s.channels[e].state ≠ .unbound then
        { s.channels[e] with state := .invalid .linkLost, lengthRef := none } else s.channels[e]) ∧
      (s.links[l].mode = .down → l.val ∉ t.faults[Kind.sensorLinkDown].active) ∧
      LossesRise s t (lostWith s l) ∧
      ((∀ (i : Item) (d : Kind) (loc : Nat), lostWith s l i = true → lossOf i = some (d, loc) → s.trips d = false) →
        ChannelsLost s t (lostWith s l) ∧ LossAlone s.received t) ∧
      (∃ q : Port, t.port = q.queueNotice (.linkState l s.links[l].mode .disabled .disabled s.links[l].good
        s.links[l].crcErrors s.links[l].gaps))) ∧
  (∀ (l : LinkNo) (t0 : Micros) (s : State), s.links[l].timer = some t0 → s.line.linkTimeout ≤ s.age t0 →
    s.links[l].mode = .training ∨ s.links[l].mode = .up →
    ∃ t : State, exec (.frameTimerExpiry l) s = .next t ∧
      t.links = s.links.set l { s.links[l] with mode := .down, timer := none, training := 0, crcRun := 0, seqRef := none } ∧
      (∀ e : EntryNo, t.channels[e] = if s.channels[e].config.map (·.link) = some l ∧ s.channels[e].state ≠ .unbound then
        { s.channels[e] with state := .invalid .linkLost, lengthRef := none } else s.channels[e]) ∧
      ((∃ e : EntryNo, s.channels[e].config.map (·.link) = some l) → l.val ∈ t.faults[Kind.sensorLinkDown].active) ∧
      LossesRise s t (lostWith s l) ∧
      ((∀ (i : Item) (d : Kind) (loc : Nat), lostWith s l i = true → lossOf i = some (d, loc) → s.trips d = false) →
        s.trips Kind.sensorLinkDown = false → ChannelsLost s t (lostWith s l) ∧ LossAlone s.stepStart t) ∧
      (∃ q : Port, t.port = q.queueNotice (.linkState l s.links[l].mode .down .timeout s.links[l].good
        s.links[l].crcErrors s.links[l].gaps))) ∧
  (∀ (l : LinkNo) (t0 : Micros) (s : State), s.links[l].timer = some t0 → s.line.linkTimeout ≤ s.age t0 →
    s.links[l].mode = .down →
    exec (.frameTimerExpiry l) s = .next (s.stepStart.setLink l { s.links[l] with timer := none })) ∧
  (∀ (l : LinkNo) (s : State), (∀ t0, s.links[l].timer = some t0 → s.age t0 < s.line.linkTimeout) →
    exec (.frameTimerExpiry l) s = .next s.stepStart)

/-! ### Logs -/

/-- R173 to R175: LOG_READ of logs 1 to 5 returns, in sequence order and up to the reply limit, the retained entries from the
first sequence (from the oldest, with the GAP flag, where that is older; none where it is newer), the count of those of the
range that it does not carry, and the next sequence; nothing changes. A log above 5 is refused BAD_VALUE. LOG_READ of log 0
returns the five directory entries; its next-sequence field is a free value (notes/assumptions/3), the only thing of the
state that moves being the counter of free values. -/
def Obligations.LogsRead : Prop :=
  ∀ (n x : Byte) (first : BitVec 32) (count : BitVec 16) (s : State), PortFree s →
    (5 < x.toNat → exec (.logRead n x first count) s = .next (s.received.replying 0x57 n .badValue [])) ∧
    (∀ (g : LogNo) (d : Nat) (older : Bool) (range : List LogEntry), x.toNat = g.val + 1 →
      d = (s.logs[g].next - first).toNat → older = decide (s.logs[g].entries.length < d ∧ d ≤ 2 ^ 31) →
      (1 ≤ d → d ≤ s.logs[g].entries.length → range = s.logs[g].entries.drop (s.logs[g].entries.length - d)) →
      (older = true → range = s.logs[g].entries) → (d = 0 ∨ (2 ^ 31 < d ∧ s.logs[g].entries.length < d) → range = []) →
      ∃ taken carried : List LogEntry, taken = (if count = 0 then range else range.take count.toNat) ∧
        carried = taken.take ([8, 8, 1, 8, 5].getD g.val 0) ∧
        exec (.logRead n x first count) s = .next (s.received.replying 0x57 n .ok
          ([x] ++ (flag8 older ++ ([BitVec.ofNat 8 carried.length] ++ (bytes16 (BitVec.ofNat 16 (taken.length - carried.length)) ++
            (bytes32 s.logs[g].next ++ carried.flatMap LogEntry.bytes))))))) ∧
    exec (.logRead n 0 first count) s = .next (({ s.received with freeIndex := s.freeIndex + 1 } : State).replying 0x57 n .ok
      ([0, 0, 5, 0, 0] ++ (bytes32 (Config.directoryNextSequence s.freeIndex) ++
        (directoryEntry s LogNo.fault ++ (directoryEntry s LogNo.defect ++ (directoryEntry s LogNo.coil ++
          (directoryEntry s LogNo.schedule ++ directoryEntry s LogNo.note)))))))

/-- R176: LOG_WRITE in every mode: BAD_VALUE for a log above 5, READ_ONLY for logs 0 to 4, BAD_VALUE for a text length
outside 1 to 32; none of these appends anything. Otherwise one NOTE with the text joins log 5, and the reply carries the
sequence number and the timestamp it was given. R177: LOG_CLEAR in every mode: every entry of the log is removed and its
sequence counter kept; nothing outside the log changes; the reply carries the number of entries removed and the next
sequence. A log above 5 is refused BAD_VALUE, log 0 READ_ONLY. -/
def Obligations.NoteWrittenAndLogCleared : Prop :=
  (∀ (n log : Byte) (text : List Byte) (s : State), PortFree s →
    (5 < log.toNat → exec (.logWrite n log text) s = .next (s.received.replying 0x58 n .badValue [])) ∧
    (log.toNat < 5 → exec (.logWrite n log text) s = .next (s.received.replying 0x58 n .readOnly [])) ∧
    (log = 5 → text = [] ∨ 32 < text.length →
      exec (.logWrite n log text) s = .next (s.received.replying 0x58 n .badValue [])) ∧
    (log = 5 → 1 ≤ text.length → text.length ≤ 32 →
      exec (.logWrite n log text) s = .next ((s.received.setLog LogNo.note
        ⟨(if s.logs[LogNo.note].entries.length < 32 then s.logs[LogNo.note].entries else s.logs[LogNo.note].entries.drop 1) ++
          [⟨s.logs[LogNo.note].next, s.logTime, .note text⟩], s.logs[LogNo.note].next + 1⟩).replying 0x58 n .ok
            (bytes32 s.logs[LogNo.note].next ++ bytes32 s.logTime)))) ∧
  (∀ (n log : Byte) (s : State), PortFree s →
    (5 < log.toNat → exec (.logClear n log) s = .next (s.received.replying 0x59 n .badValue [])) ∧
    exec (.logClear n 0) s = .next (s.received.replying 0x59 n .readOnly []) ∧
    (∀ g : LogNo, log.toNat = g.val + 1 →
      exec (.logClear n log) s = .next ((s.received.setLog g ⟨[], s.logs[g].next⟩).replying 0x59 n .ok
        (BitVec.ofNat 8 s.logs[g].entries.length :: bytes32 s.logs[g].next))))

/-! ### Sensor links and channels -/

/-- R19 to R24, R29, R30: one good frame on a link that takes no samples: ignored while DISABLED; from DOWN to TRAINING with
a count of 1; counted in TRAINING; and at the eighth in a row to UP. The frame timer starts afresh, the sequence is checked
and becomes the reference, the frame is counted, and every change of state queues its notice. No channel changes. R19, R22 to
R25: seven bytes from a sync whose CRC-8 does not match (and among which no further sync stands) are one CRC error: counted,
and the timer started afresh; in TRAINING the training count becomes 0; in UP the third in a row takes the link to TRAINING
with its notice (its count of errors in a row staying 3 there: the model's choice of notes/assumptions/15). No channel
changes. -/
def Obligations.SensorFramesTrainLinks : Prop :=
  (∀ (l : LinkNo) (f : SensorFields) (o : ReaderOrder) (s : State) (k : Link), s.links[l].rx = [] →
    k = { s.links[l] with
      timer := some s.time, good := min (s.links[l].good + 1) 65535, seqRef := some f.seq
      gaps := min (s.links[l].gaps + (match s.links[l].seqRef with
        | some r => (f.seq.toNat + 16 - r.toNat + 15) % 16
        | none => 0)) 65535 } →
    (s.links[l].mode = .disabled → exec (.sensorFrame l (sensorFrameBytes f) o) s = .next s.stepStart) ∧
    (s.links[l].mode = .down → exec (.sensorFrame l (sensorFrameBytes f) o) s = .next
      (((s.stepStart.setLink l { k with mode := .training, training := 1 }).inactive Kind.sensorLinkDown l.val).notify
        (.linkState l .down .training .frameDetected k.good k.crcErrors k.gaps))) ∧
    (s.links[l].mode = .training → s.links[l].training < 7 → exec (.sensorFrame l (sensorFrameBytes f) o) s = .next
      (s.stepStart.setLink l { k with training := s.links[l].training + 1 })) ∧
    (s.links[l].mode = .training → s.links[l].training = 7 → exec (.sensorFrame l (sensorFrameBytes f) o) s = .next
      ((s.stepStart.setLink l { k with mode := .up, training := 8, crcRun := 0 }).notify
        (.linkState l .training .up .trained k.good k.crcErrors k.gaps)))) ∧
  (∀ (l : LinkNo) (body : List Byte) (crc : Byte) (o : ReaderOrder) (s : State) (k : Link), s.links[l].rx = [] →
    body.length = 5 → crc ≠ crc8 body → 0xC3 ∉ body ++ [crc] →
    k = { s.links[l] with timer := some s.time, crcErrors := min (s.links[l].crcErrors + 1) 65535 } →
    (s.links[l].mode = .down → exec (.sensorFrame l (0xC3 :: (body ++ [crc])) o) s = .next (s.stepStart.setLink l k)) ∧
    (s.links[l].mode = .training →
      exec (.sensorFrame l (0xC3 :: (body ++ [crc])) o) s = .next (s.stepStart.setLink l { k with training := 0 })) ∧
    (s.links[l].mode = .up → s.links[l].crcRun < 2 →
      exec (.sensorFrame l (0xC3 :: (body ++ [crc])) o) s = .next
        (s.stepStart.setLink l { k with crcRun := s.links[l].crcRun + 1 })) ∧
    (s.links[l].mode = .up → s.links[l].crcRun = 2 →
      exec (.sensorFrame l (0xC3 :: (body ++ [crc])) o) s = .next
        ((s.stepStart.setLink l { k with crcRun := 3, mode := .training, training := 0 }).notify
          (.linkState l .up .training .autonomousRetrain k.good k.crcErrors k.gaps))))

/-- R25, R34 to R39, R41 to R43: a good frame on a link in UP for an entry of any role but ENTRY_LENGTH, in every mode: a
value in its role's range makes the entry VALID with that value and the device time, and where it was INVALID its loss
condition ends; one outside counts as a reject and at the third in a row makes the entry INVALID with cause RANGE, an INVALID
one keeping its cause; a head fault makes it INVALID with cause HEAD_FAULT. Where the entry was not INVALID, its loss
condition is then active outside CONFIG; in CONFIG, and where it was INVALID already, none joins. The strip-present flag of a
thickness role is recorded, except that a frame with head fault set leaves the flag as it was (the model's reading of R31,
R34 and R188, notes/assumptions/31), and no other entry changes. A slot that no entry binds changes no channel. (What the
readers make of accepted samples is stated in the next part: PointsStart to BreakTimersAndLosses.) -/
def Obligations.SamplesJudged : Prop :=
  ∀ (l : LinkNo) (f : SensorFields) (o : ReaderOrder) (s : State), s.links[l].mode = .up → s.links[l].rx = [] →
    (s.entryAt l f.slot = none → ∃ t, exec (.sensorFrame l (sensorFrameBytes f) o) s = .next t ∧ t.channels = s.channels ∧
      t.links[l].good = min (s.links[l].good + 1) 65535 ∧ t.links[l].crcRun = 0 ∧ t.links[l].timer = some s.time) ∧
    (∀ (e : EntryNo) (c : ChannelConfig) (v : Int) (strip : Option Bool) (within fresh : Bool), s.entryAt l f.slot = some e →
      s.channels[e].config = some c → c.item ≠ .entryLength →
      v = roundDiv (fieldValue f.raw c.start c.length c.signed * c.gain) 65536 + c.offset →
      strip = (if c.item = .entryThick ∨ c.item = .stand1Thick ∨ c.item = .exitThick then some f.strip
        else s.channels[e].strip) →
      within = decide ((roleRange c.item).1 ≤ v ∧ v ≤ (roleRange c.item).2) →
      fresh = !s.channels[e].state.isInvalid → s.channels[e].state ≠ .unbound →
      ∃ t, exec (.sensorFrame l (sensorFrameBytes f) o) s = .next t ∧
        t.links = s.links.set l (countGood f.seq { s.links[l] with timer := some s.time, crcRun := 0 }) ∧
        (f.headFault = false → within = true →
          t.channels = s.channels.set e { s.channels[e] with
            state := .valid, held := some (v, s.time), consecutive := 0, strip := strip } ∧
          (∀ d : Kind, 5 ≤ d.val → d.val ≤ 11 → ∀ loc : Nat, loc ∈ t.faults[d].active ↔
            loc ∈ s.faults[d].active ∧ ¬ (fresh = false ∧ lossOf c.item = some (d, loc)))) ∧
        (f.headFault = false → within = false → s.channels[e].consecutive < 2 ∨ fresh = false →
          t.channels = s.channels.set e { s.channels[e] with
            rejects := min (s.channels[e].rejects + 1) 65535, consecutive := min (s.channels[e].consecutive + 1) 3
            strip := strip } ∧ LossesRise s t (fun _ => false)) ∧
        (f.headFault = false → within = false → 2 ≤ s.channels[e].consecutive → fresh = true →
          t.channels = s.channels.set e { s.channels[e] with
            state := .invalid .range, rejects := min (s.channels[e].rejects + 1) 65535, consecutive := 3, strip := strip
            lengthRef := none } ∧ LossesRise s t (fun i => i == c.item)) ∧
        (f.headFault = true →
          t.channels = s.channels.set e { s.channels[e] with state := .invalid .headFault, lengthRef := none } ∧
          LossesRise s t (fun i => fresh && i == c.item)))

/-- R37 to R39: a frame for an ENTRY_LENGTH entry while X0 is not started: without a length reference it sets the reference
and is accepted with value 0; with one, the increment round(((field − reference) mod 2^length) × gain / 65536) is accepted,
and the field becomes the reference, where it lies in 0..1,000,000 µm; otherwise it is rejected and the reference is kept.
Nothing but the link and the entry changes. (With X0 started: SpeedAdvances.) -/
def Obligations.EntryLengthSamples : Prop :=
  ∀ (l : LinkNo) (f : SensorFields) (o : ReaderOrder) (s : State) (e : EntryNo) (c : ChannelConfig) (field : Nat) (u : State),
    s.links[l].mode = .up → s.links[l].rx = [] → f.headFault = false → s.points[PointNo.x0].started = false →
    s.entryAt l f.slot = some e → s.channels[e].config = some c → c.item = .entryLength →
    field = f.raw.toNat / 2 ^ c.start % 2 ^ c.length →
    u = s.stepStart.setLink l (countGood f.seq { s.links[l] with timer := some s.time, crcRun := 0 }) →
    (s.channels[e].lengthRef = none → exec (.sensorFrame l (sensorFrameBytes f) o) s = .next
      (u.setChannel e { s.channels[e] with
        state := .valid, held := some (0, s.time), consecutive := 0, lengthRef := some field })) ∧
    (∀ (r : Nat) (inc : Int), s.channels[e].lengthRef = some r →
      inc = roundDiv (((field + 2 ^ c.length - r) % 2 ^ c.length : Nat) * c.gain) 65536 →
      (0 ≤ inc → inc ≤ 1000000 → exec (.sensorFrame l (sensorFrameBytes f) o) s = .next
        (u.setChannel e { s.channels[e] with
          state := .valid, held := some (inc, s.time), consecutive := 0, lengthRef := some field })) ∧
      (inc < 0 ∨ 1000000 < inc → s.channels[e].consecutive < 2 → exec (.sensorFrame l (sensorFrameBytes f) o) s = .next
        (u.setChannel e { s.channels[e] with
          rejects := min (s.channels[e].rejects + 1) 65535, consecutive := s.channels[e].consecutive + 1 })))

/-- R40, R41, R43: the stale limit makes a VALID entry STALE; four times the limit makes a VALID or STALE entry INVALID with
cause AGE, whereupon its loss condition is active outside CONFIG. An expiry that is not due does nothing, and no other entry
changes. The kinds and locations of the loss conditions are those of R43's table. -/
def Obligations.ChannelAgeing : Prop :=
  (∀ (e : EntryNo) (c : ChannelConfig) (v : Int) (t0 : Micros) (s : State), s.channels[e].config = some c →
    s.channels[e].held = some (v, t0) →
    (s.channels[e].state = .valid → c.stale ≤ s.age t0 →
      exec (.staleExpiry e) s = .next (s.stepStart.setChannel e { s.channels[e] with state := .stale })) ∧
    (s.age t0 < c.stale → exec (.staleExpiry e) s = .next s.stepStart) ∧
    ((s.channels[e].state = .valid ∨ s.channels[e].state = .stale) → 4 * c.stale ≤ s.age t0 →
      ∃ t, exec (.invalidExpiry e) s = .next t ∧
        t.channels = s.channels.set e { s.channels[e] with state := .invalid .age, lengthRef := none } ∧
        t.links = s.links ∧ LossesRise s t (fun i => i == c.item)) ∧
    (s.age t0 < 4 * c.stale → exec (.invalidExpiry e) s = .next s.stepStart)) ∧
  (∀ k : Stand, lossOf (.gapPos k) = some (5, k.val + 1) ∧ lossOf (.force k) = some (6, k.val + 1) ∧
    lossOf (.rollSpeed k) = some (7, k.val + 1)) ∧
  (∀ j : Interstand, lossOf (.tension j) = some (8, j.val + 1)) ∧
  lossOf .entryThick = some (9, 0) ∧ lossOf .stand1Thick = some (10, 0) ∧ lossOf .exitThick = some (11, 0) ∧
  lossOf .entryLength = none

/-! ### Samples in THREAD and RUN -/

/-- R42, R49, R50, R56, R60, R67, R102: starting events in THREAD and RUN with the trip state NORMAL. An accepted FORCE[k]
sample above the loaded level (below the force limit, so that it starts no trip) for B_k, and a set strip-present flag with
head fault clear of STAND1_THICK for X1 and of EXIT_THICK for X6, whether the value is accepted or not, start an unstarted
point whose upstream neighbour has started: on the oldest segment, travelled 0, advance time now; a frame's own accepted
reading is the first in the accumulator. The early start of the neighbour downstream ends with its condition; a started B_k
has its bite segment, and stand k a return point. With the neighbour unstarted nothing starts: the first such event makes
TRACK_OVERRUN active at the point (stated where kind 17 is not an enabled tripping kind), a further one changes no point. A
sample at or below the loaded level, a clear flag and any event at a started point start nothing. At a started X0, X1 or X6
an ENTRY_THICK, STAND1_THICK or EXIT_THICK reading enters the accumulator (its value added to the sum, 1 to the count) where
it is accepted, its frame has the flag set and tracking is not frozen, whatever the channel's state was; in every other case
the points stay as they are, and from a VALID or STALE channel nothing changes but that and the channel. In a trip no event
starts a point, and no reading is added. -/
def Obligations.PointsStart : Prop :=
  ∀ (l : LinkNo) (f : SensorFields) (o : ReaderOrder) (e : EntryNo) (v : Int) (s : State),
    ((s.mode = .thread ∨ s.mode = .run) → s.trip = .normal →
      (∀ (k : Stand) (p : StandParams) (u : PointNo), Brings s l f e (.force k) v → s.stands[k].params = some p →
        v < p.forceLimit → s.trips Kind.forceNearLimit = false → u.val + 1 = (bitePoint k).val →
        (p.zeroForce + p.bite < v → s.points[bitePoint k].started = false →
          (∀ g rest, s.points[u].started = true → s.stands[k].bite = none → s.ring = g :: rest →
            ∃ t, exec (.sensorFrame l (sensorFrameBytes f) o) s = .next t ∧
              t.points[bitePoint k] = { s.points[bitePoint k] with
                started := true, cursor := g.number, travelled := 0, advanced := some s.time, sum := 0, count := 0 } ∧
              (∀ q : PointNo, q ≠ bitePoint k → t.points[q] =
                if q.val = (bitePoint k).val + 1 then { s.points[q] with early := false } else s.points[q]) ∧
              (∀ q : PointNo, q.val = (bitePoint k).val + 1 → s.points[q].early = true →
                q.val ∉ t.faults[Kind.trackOverrun].active) ∧
              t.stands[k].bite = some g.number ∧ t.stands[k].mode = returnedMode s k ∧ t.ring = s.ring ∧ t.mode = s.mode) ∧
          (s.points[u].started = false → s.points[bitePoint k].early = false → s.trips Kind.trackOverrun = false →
            ∃ t, exec (.sensorFrame l (sensorFrameBytes f) o) s = .next t ∧
              t.points = s.points.set (bitePoint k) { s.points[bitePoint k] with early := true } ∧
              (bitePoint k).val ∈ t.faults[Kind.trackOverrun].active ∧ t.stands[k].bite = s.stands[k].bite) ∧
          (s.points[u].started = false → s.points[bitePoint k].early = true →
            ∃ t, exec (.sensorFrame l (sensorFrameBytes f) o) s = .next t ∧ t.points = s.points ∧
              t.faults[Kind.trackOverrun] = s.faults[Kind.trackOverrun])) ∧
        (v ≤ p.zeroForce + p.bite ∨ s.points[bitePoint k].started = true →
          ∃ t, exec (.sensorFrame l (sensorFrameBytes f) o) s = .next t ∧ t.points = s.points)) ∧
      (∀ (p u : PointNo) (i : Item) (c : ChannelConfig), (i = .stand1Thick ∧ p = PointNo.x1) ∨ (i = .exitThick ∧ p = PointNo.x6) →
        u.val + 1 = p.val → s.links[l].mode = .up → s.links[l].rx = [] → f.headFault = false →
        s.entryAt l f.slot = some e → s.channels[e].config = some c → c.item = i → s.points[p].started = false →
        v = roundDiv (fieldValue f.raw c.start c.length c.signed * c.gain) 65536 + c.offset →
        (∀ g rest, f.strip = true → s.points[u].started = true → s.ring = g :: rest →
          ∃ t, exec (.sensorFrame l (sensorFrameBytes f) o) s = .next t ∧
            t.points[p] = { s.points[p] with
              started := true, cursor := g.number, travelled := 0, advanced := some s.time
              sum := if 0 ≤ v ∧ v ≤ 100000 then v else 0, count := if 0 ≤ v ∧ v ≤ 100000 then 1 else 0 } ∧
            (∀ q : PointNo, q ≠ p → t.points[q] = if q.val = p.val + 1 then { s.points[q] with early := false } else s.points[q]) ∧
            (∀ q : PointNo, q.val = p.val + 1 → s.points[q].early = true → q.val ∉ t.faults[Kind.trackOverrun].active)) ∧
        (f.strip = true → s.points[u].started = false → s.points[p].early = false → s.trips Kind.trackOverrun = false →
          ∃ t, exec (.sensorFrame l (sensorFrameBytes f) o) s = .next t ∧
            t.points = s.points.set p { s.points[p] with early := true } ∧ p.val ∈ t.faults[Kind.trackOverrun].active) ∧
        (f.strip = false ∨ (s.points[u].started = false ∧ s.points[p].early = true) →
          ∃ t, exec (.sensorFrame l (sensorFrameBytes f) o) s = .next t ∧ t.points = s.points))) ∧
    (∀ (p : PointNo) (i : Item) (added : Bool), (i = .entryThick ∧ p = PointNo.x0) ∨ (i = .stand1Thick ∧ p = PointNo.x1) ∨
        (i = .exitThick ∧ p = PointNo.x6) →
      added = (s.points[p].started && f.strip && decide (0 ≤ v ∧ v ≤ 100000) && decide (s.trip = .normal)) →
      s.points[p].started = true ∨ s.trip ≠ .normal →
      (∀ c : ChannelConfig, s.links[l].mode = .up → s.links[l].rx = [] → f.headFault = false → s.entryAt l f.slot = some e →
        s.channels[e].config = some c → c.item = i →
        v = roundDiv (fieldValue f.raw c.start c.length c.signed * c.gain) 65536 + c.offset →
        ∃ t, exec (.sensorFrame l (sensorFrameBytes f) o) s = .next t ∧
          (added = true → t.points =
            s.points.set p { s.points[p] with sum := s.points[p].sum + v, count := s.points[p].count + 1 }) ∧
          (added = false → t.points = s.points)) ∧
      (∀ u : State, Brings s l f e i v → u = (s.sampled l f e v).setChannel e { s.channels[e] with
          state := .valid, held := some (v, s.time), consecutive := 0, strip := some f.strip } →
        (added = true → exec (.sensorFrame l (sensorFrameBytes f) o) s = .next (u.setPoint p { s.points[p] with
          sum := s.points[p].sum + v, count := s.points[p].count + 1 })) ∧
        (added = false → exec (.sensorFrame l (sensorFrameBytes f) o) s = .next u))) ∧
    (∀ k : Stand, Brings s l f e (.force k) v → s.trip ≠ .normal →
      ∃ t, exec (.sensorFrame l (sensorFrameBytes f) o) s = .next t ∧ t.points = s.points)

/-- R51 to R54, R67, R143: an accepted ROLL_SPEED[k] sample becomes the speed in force, after every started point that stand
k drives has advanced by round(v × Δt × (1000 + f) × h × 1024 / (10^6 × H0)) on the speed in force before it, its advance
time becoming the sample time (stated where no such point reaches the end of its segment; PassagesAtBitesAndX1, ExitPassage
and ForcedRelease have the passages); nothing advances while tracking is frozen; of stand 6 a value below the break minimum
speed stops the RUNNING break timers. A started X0 advances by an ENTRY_LENGTH increment while that channel is VALID or
STALE, and by one closing advance on the stand-1 substitute when it becomes VALID. Nothing else changes. -/
def Obligations.SpeedAdvances : Prop :=
  (∀ (l : LinkNo) (f : SensorFields) (o : ReaderOrder) (e : EntryNo) (k : Stand) (v : Int) (s u : State),
    Brings s l f e (.rollSpeed k) v →
    u = { s.sampled l f e v with
      speeds := s.speeds.set k (some v)
      breakTimers := if k = 5 ∧ v < (s.line.breakMinSpeed : Int) then s.breakTimers.map (fun b => match b with
        | .running _ => .stopped
        | .stopped => .stopped
        | .expired => .expired) else s.breakTimers } →
    (s.trip ≠ .normal → exec (.sensorFrame l (sensorFrameBytes f) o) s = .next u) ∧
    (s.trip = .normal → (∀ p : PointNo, drivenBy s k p = true → s.points[p].started = true →
        s.points[p].travelled + s.advanceOf k p < s.line.segLen * 1024) →
      exec (.sensorFrame l (sensorFrameBytes f) o) s = .next { u with
        points := Vector.ofFn fun p => if drivenBy s k p = true ∧ s.points[p].started = true then
          { s.points[p] with travelled := s.points[p].travelled + s.advanceOf k p, advanced := some s.time }
          else s.points[p] })) ∧
  (∀ (l : LinkNo) (f : SensorFields) (o : ReaderOrder) (s : State) (e : EntryNo) (c : ChannelConfig) (field : Nat) (u : State),
    s.links[l].mode = .up → s.links[l].rx = [] → f.headFault = false → s.points[PointNo.x0].started = true →
    s.trip = .normal → s.entryAt l f.slot = some e → s.channels[e].config = some c → c.item = .entryLength →
    field = f.raw.toNat / 2 ^ c.start % 2 ^ c.length →
    u = s.stepStart.setLink l (countGood f.seq { s.links[l] with timer := some s.time, crcRun := 0 }) →
    (∀ (r : Nat) (inc : Int), s.channels[e].lengthRef = some r → (s.channels[e].state = .valid ∨ s.channels[e].state = .stale) →
      inc = roundDiv (((field + 2 ^ c.length - r) % 2 ^ c.length : Nat) * c.gain) 65536 → 0 ≤ inc → inc ≤ 1000000 →
      s.points[PointNo.x0].travelled + inc.toNat * 1024 < s.line.segLen * 1024 →
      exec (.sensorFrame l (sensorFrameBytes f) o) s = .next ((u.setChannel e { s.channels[e] with
        state := .valid, held := some (inc, s.time), consecutive := 0, lengthRef := some field }).setPoint PointNo.x0
          { s.points[PointNo.x0] with
            travelled := s.points[PointNo.x0].travelled + inc.toNat * 1024, advanced := some s.time })) ∧
    (s.channels[e].lengthRef = none → (s.channels[e].state.isInvalid = true ∨ s.channels[e].state = .noData) →
      s.points[PointNo.x0].travelled + s.advanceOf 0 PointNo.x0 < s.line.segLen * 1024 →
      exec (.sensorFrame l (sensorFrameBytes f) o) s = .next ((u.setChannel e { s.channels[e] with
        state := .valid, held := some (0, s.time), consecutive := 0, lengthRef := some field }).setPoint PointNo.x0
          { s.points[PointNo.x0] with
            travelled := s.points[PointNo.x0].travelled + s.advanceOf 0 PointNo.x0, advanced := some s.time })))

/-- R55, R56, R58, R59, R61, R88, R97, R102, R113, R114: a ROLL_SPEED[k] sample that carries B_k, or at stand 1 X1, over the
end of its segment n, once. At B_k the stand estimate (its mean absent with a count of 0) joins the segment's list, the next
segment is the bite segment with the accumulator empty, the stand has had a return point, and a transition whose weld segment
that is counts stand k as switched. At X1 the measurement is closed and the monitor trim of stand 1 updated where the stand
is in GAUGE, the mean present and the segment not in a ramp. The point stands on the next segment with the excess; the
neighbour downstream, if it was clamped on segment n, is free with its condition ended. No other segment or cursor changes.
-/
def Obligations.PassagesAtBitesAndX1 : Prop :=
  ∀ (l : LinkNo) (f : SensorFields) (o : ReaderOrder) (e : EntryNo) (k : Stand) (v : Int) (s : State) (p u : PointNo) (n : SegNo),
    Brings s l f e (.rollSpeed k) v → (s.mode = .thread ∨ s.mode = .run) → s.trip = .normal → PassesOnce s k p u n →
    (p = bitePoint k ∨ p = PointNo.x1) →
    ∃ t, exec (.sensorFrame l (sensorFrameBytes f) o) s = .next t ∧ t.speeds = s.speeds.set k (some v) ∧
      t.points[p] = { s.points[p] with
        cursor := n + 1, travelled := s.points[p].travelled + s.advanceOf k p - s.line.segLen * 1024
        advanced := some s.time, sum := 0, count := 0 } ∧
      (∀ q : PointNo, q ≠ p → t.points[q].cursor = s.points[q].cursor ∧ t.points[q].started = s.points[q].started) ∧
      (∀ q : PointNo, q.val = p.val + 1 → s.points[q].started = true → s.points[q].clamped = true → s.points[q].cursor = n →
        t.points[q].clamped = false ∧ q.val ∉ t.faults[Kind.trackOverrun].active) ∧
      (p = bitePoint k →
        t.ring = s.ring.map (fun x => if x.number = n then { x with estimates := x.estimates ++
          [⟨k, if s.stands[k].count = 0 then none else some (roundDiv s.stands[k].sum s.stands[k].count),
            s.stands[k].count⟩] } else x) ∧
        t.stands = s.stands.set k { s.stands[k] with
          mode := returnedMode s k, bite := some (n + 1), sum := 0, count := 0 } ∧
        (∀ (g : Segment) (x : Transition), s.segment (n + 1) = some g → g.weld = true →
          s.transitions.find? (·.weld == n + 1) = some x → x.switched[k] = false →
          t.transitions = s.transitions.map (fun y => if y.weld = n + 1 then { y with switched := y.switched.set k true } else y) ∧
          t.logs[LogNo.schedule] = s.logs[LogNo.schedule].append 32 s.logTime (.standSwitched x.toTag k (n + 1) x.coil)) ∧
        ((∀ x ∈ s.transitions, x.weld ≠ n + 1) → t.transitions = s.transitions)) ∧
      (p = PointNo.x1 →
        t.ring = s.ring.map (fun x => if x.number = n then { x with x1 := meanOf s.points[p] } else x) ∧
        t.transitions = s.transitions ∧
        (∀ (g : Segment) (x : InForce) (m : Int × Nat) (r : StandParams), s.segment n = some g → s.inForce g.tag = some x →
          s.stands[k].params = some r → s.stands[k].mode = .gauge → meanOf s.points[p] = some m → g.ramp = none →
          t.stands = s.stands.set k { s.stands[k] with
            trim := clampInt (s.stands[k].trim - roundDiv (r.gm * (m.1 - x.effH n k) *
              roundDiv (256 * (r.modulus + x.sched.stands[k].q)) r.modulus) 65536) (-r.trimLimit) r.trimLimit }) ∧
        (s.stands[k].mode ≠ .gauge ∨ meanOf s.points[p] = none ∨ (∀ g, s.segment n = some g → g.ramp ≠ none) →
          t.stands = s.stands))

/-- R55, R59, R63, R80, R81, R89, R114, R157 to R160, R166 to R168: a ROLL_SPEED[6] sample that carries X6 over the end of
the oldest segment. Its measurement is closed, the trim of stand 6 updated by it, the segment classified and released PASSED:
it leaves the ring, TRACK_FULL ends, its reference is dropped and its coil's report accounts it. Off-gauge, it begins or
joins the run, whose N-th segment makes OFF_GAUGE_RUN active (stated where kind 21 is not an enabled tripping kind); on-gauge
or unmeasured, it ends the run, a LOGGED one leaving its defect entry. A report whose segments are all accounted and whose
coil is not the newest closes COMPLETE, a run of its coil ending first, with its coil entry and notice. Where X6 arrives at
the weld segment of an ACTIVE transition, that is COMPLETED by EXIT_GAUGE with its entry and notice. -/
def Obligations.ExitPassage : Prop :=
  ∀ (l : LinkNo) (f : SensorFields) (o : ReaderOrder) (e : EntryNo) (v : Int) (s : State) (g : Segment) (rest : List Segment)
    (x : InForce) (pre post : List CoilReport) (r : CoilReport) (vd : Option Verdict) (run : Option RunState) (acc : CoilReport),
    Brings s l f e (.rollSpeed 5) v → s.trip = .normal → PassesOnce s 5 PointNo.x6 7 g.number → s.ring = g :: rest →
    (∀ y ∈ rest, y.number ≠ g.number) → s.inForce g.tag = some x →
    s.reports = pre ++ r :: post → r.coil = g.coil → (∀ y ∈ pre ++ post, y.coil ≠ g.coil) → s.trips Kind.offGaugeRun = false →
    vd = (meanOf s.points[PointNo.x6]).map (fun m => verdict m.1 (x.effH g.number 5) x.sched.tol x.sched.bin) →
    run = (match vd with
      | some d => if d.off = true then some (match s.runState with
          | none => ⟨g.coil, g.number, g.number, 1, |d.deviation|, x.sched.mark,
              decide (1 ≤ s.line.runLength ∧ s.line.runLength ≤ 1)⟩
          | some q => { q with
              last := g.number, count := min (q.count + 1) 65535, maxDev := max q.maxDev |d.deviation|
              raised := q.raised || decide (1 ≤ s.line.runLength ∧ s.line.runLength ≤ min (q.count + 1) 65535) }) else none
      | none => none) →
    acc = (match vd with
      | some d => { r with
          bins := r.bins.set d.bin (r.bins[d.bin] + 1)
          offCount := r.offCount + (if d.off = true then 1 else 0)
          firstOff := if d.off = true ∧ r.firstOff = none then some g.number else r.firstOff
          maxDev := max r.maxDev |d.deviation|
          manualMarked := r.manualMarked + (if g.manual = true then 1 else 0)
          tripMarked := r.tripMarked + (if g.tripMark = true then 1 else 0) }
      | none => { r with
          unmeasured := r.unmeasured + 1
          manualMarked := r.manualMarked + (if g.manual = true then 1 else 0)
          tripMarked := r.tripMarked + (if g.tripMark = true then 1 else 0) }) →
    ∃ t, exec (.sensorFrame l (sensorFrameBytes f) o) s = .next t ∧
      t.ring = rest ∧ t.points[PointNo.x6] = { s.points[PointNo.x6] with
        cursor := g.number + 1, travelled := s.points[PointNo.x6].travelled + s.advanceOf 5 PointNo.x6 - s.line.segLen * 1024
        advanced := some s.time, sum := 0, count := 0 } ∧
      t.faults[Kind.trackFull].active = s.faults[Kind.trackFull].active.filter (· ≠ 0) ∧
      t.table = (s.table.map fun y => if y.sched.tag = g.tag then { y with refs := y.refs - 1 } else y).filter
        (fun y => y.isEntry || decide (0 < y.refs)) ∧
      (∀ j : Stand, j ≠ 5 → t.stands[j] = s.stands[j]) ∧
      (∀ (m : Int × Nat) (p : StandParams), s.stands[(5 : Stand)].params = some p → s.stands[(5 : Stand)].mode = .gauge →
        meanOf s.points[PointNo.x6] = some m → g.ramp = none → t.stands[(5 : Stand)] = { s.stands[(5 : Stand)] with
          trim := clampInt (s.stands[(5 : Stand)].trim - roundDiv (p.gm * (m.1 - x.effH g.number 5) *
            roundDiv (256 * (p.modulus + x.sched.stands[(5 : Stand)].q)) p.modulus) 65536) (-p.trimLimit) p.trimLimit }) ∧
      (s.stands[(5 : Stand)].mode ≠ .gauge ∨ meanOf s.points[PointNo.x6] = none ∨ g.ramp ≠ none →
        t.stands[(5 : Stand)] = s.stands[(5 : Stand)]) ∧
      (∀ q, run = some q → q.raised = true → (∀ q0, s.runState = some q0 → q0.raised = false) →
        (acc.accounted ≠ acc.created ∨ s.coilCounter = g.coil) → q.coil.toNat ∈ t.faults[Kind.offGaugeRun].active) ∧
      (acc.accounted ≠ acc.created ∨ s.coilCounter = g.coil →
        t.reports = pre ++ acc :: post ∧ t.runState = run ∧ t.logs[LogNo.coil] = s.logs[LogNo.coil] ∧
        t.logs[LogNo.defect] = s.logs[LogNo.defect].afterRun (if run = none then s.runState else none) s.logTime) ∧
      (acc.accounted = acc.created → s.coilCounter ≠ g.coil → ∀ (closed : CoilReport),
        closed = { acc with offLength := roundDiv (acc.offCount * s.line.segLen) 1000, state := .complete } →
        t.reports = pre ++ post ∧
        t.logs[LogNo.coil] = s.logs[LogNo.coil].append 16 s.logTime (.coil closed) ∧
        (s.port.notices.length ≤ 28 → Notice.coilReport closed ∈ t.port.notices) ∧
        t.runState = run.filter (fun q => q.coil ≠ g.coil) ∧
        t.logs[LogNo.defect] = s.logs[LogNo.defect].afterRun
          (if run = none then s.runState else run.filter (fun q => q.coil = g.coil)) s.logTime) ∧
      (∀ (w : Segment) (y : Transition), s.segment (g.number + 1) = some w → w.weld = true →
        s.transitions.find? (·.weld == g.number + 1) = some y →
        t.transitions = s.transitions.filter (fun z => z.weld ≠ g.number + 1) ∧
        t.logs[LogNo.schedule] = s.logs[LogNo.schedule].append 32 s.logTime (.completed y .exitGauge) ∧
        (s.port.notices.length ≤ 28 → Notice.transition .completed y (some .exitGauge) ∈ t.port.notices)) ∧
      ((∀ z ∈ s.transitions, z.weld ≠ g.number + 1) → t.transitions = s.transitions)

/-- R62, R63, R80, R81, R90, R113, R160, R166, R167: an ENTRY_LENGTH increment that carries X0 over the end of the open
segment w while the ring holds 256 segments. The oldest segment g is released FORCED: every point on it moves to the next
with travelled 0 and its accumulator empty, its clamp ended with its condition, and a bite point takes that segment into its
bite; a run of its coil ends; its reference is dropped; its coil's report accounts it as forced, and closes COMPLETE where
that was its last and the coil is not the newest; and an ACTIVE transition whose weld segment it is is COMPLETED by FORCED.
TRACK_FULL is active (stated where kind 18 is not an enabled tripping kind). Then the next segment is opened, and the ring
holds 256 again. -/
def Obligations.ForcedRelease : Prop :=
  ∀ (l : LinkNo) (f : SensorFields) (o : ReaderOrder) (s : State) (e : EntryNo) (c : ChannelConfig) (field r0 : Nat) (inc : Int)
    (g w : Segment) (mid : List Segment) (x : InForce) (pre post : List CoilReport) (r acc : CoilReport),
    s.links[l].mode = .up → s.links[l].rx = [] → f.headFault = false → s.points[PointNo.x0].started = true →
    s.trip = .normal → s.entryAt l f.slot = some e → s.channels[e].config = some c → c.item = .entryLength →
    (s.channels[e].state = .valid ∨ s.channels[e].state = .stale) → s.channels[e].lengthRef = some r0 →
    field = f.raw.toNat / 2 ^ c.start % 2 ^ c.length →
    inc = roundDiv (((field + 2 ^ c.length - r0) % 2 ^ c.length : Nat) * c.gain) 65536 → 0 ≤ inc → inc ≤ 1000000 →
    s.points[PointNo.x0].travelled < s.line.segLen * 1024 →
    s.line.segLen * 1024 ≤ s.points[PointNo.x0].travelled + inc.toNat * 1024 →
    s.points[PointNo.x0].travelled + inc.toNat * 1024 < 2 * (s.line.segLen * 1024) →
    s.ring = g :: (mid ++ [w]) → s.ring.length = 256 → s.points[PointNo.x0].cursor = w.number →
    (∀ y ∈ mid, y.number ≠ g.number ∧ y.number ≠ w.number ∧ y.number ≠ w.number + 1) → g.number ≠ w.number →
    w.number + 1 ≠ w.number → g.number ≠ w.number + 1 →
    s.entrySchedule = some x → s.trips Kind.trackFull = false →
    s.reports = pre ++ r :: post → r.coil = g.coil → (∀ y ∈ pre ++ post, y.coil ≠ g.coil) →
    acc = { r with
      forced := r.forced + 1
      manualMarked := r.manualMarked + (if g.manual = true then 1 else 0)
      tripMarked := r.tripMarked + (if g.tripMark = true then 1 else 0) } →
    ∃ t, exec (.sensorFrame l (sensorFrameBytes f) o) s = .next t ∧
      t.ring = mid ++ [{ w with entry := meanOf s.points[PointNo.x0] },
        ⟨w.number + 1, s.coilCounter, x.sched.tag, false, none, [], none, none, x.rampIndex (w.number + 1), none, false, false⟩] ∧
      t.points[PointNo.x0].cursor = w.number + 1 ∧
      t.points[PointNo.x0].travelled = s.points[PointNo.x0].travelled + inc.toNat * 1024 - s.line.segLen * 1024 ∧
      (∀ p : PointNo, p ≠ PointNo.x0 → s.points[p].started = true → s.points[p].cursor = g.number →
        t.points[p] = { s.points[p] with cursor := g.number + 1, travelled := 0, sum := 0, count := 0, clamped := false } ∧
        (s.points[p].clamped = true → p.val ∉ t.faults[Kind.trackOverrun].active)) ∧
      (∀ p : PointNo, p ≠ PointNo.x0 → (s.points[p].started = false ∨ s.points[p].cursor ≠ g.number) →
        t.points[p] = { s.points[p] with clamped := s.points[p].clamped &&
          !(p.val == 1 && s.points[p].started && s.points[p].cursor == w.number) }) ∧
      (∀ k : Stand, s.points[bitePoint k].started = true → s.points[bitePoint k].cursor = g.number →
        t.stands[k] = { s.stands[k] with bite := some (g.number + 1), sum := 0, count := 0 }) ∧
      (∀ k : Stand, (s.points[bitePoint k].started = false ∨ s.points[bitePoint k].cursor ≠ g.number) →
        t.stands[k] = s.stands[k]) ∧
      0 ∈ t.faults[Kind.trackFull].active ∧ t.faults[Kind.trackFull].latched = (s.faults[Kind.trackFull].latched ||
        !decide (0 ∈ s.faults[Kind.trackFull].active)) ∧
      t.table = (((s.table.map fun y => if y.sched.tag = g.tag then { y with refs := y.refs - 1 } else y).filter
        fun y => y.isEntry || decide (0 < y.refs)).map fun y =>
          if y.sched.tag = x.sched.tag then { y with refs := y.refs + 1 } else y) ∧
      t.runState = s.runState.filter (fun q => q.coil ≠ g.coil) ∧
      t.logs[LogNo.defect] = s.logs[LogNo.defect].afterRun (s.runState.filter fun q => q.coil = g.coil) s.logTime ∧
      (s.coilCounter = g.coil → t.reports = pre ++ { acc with created := acc.created + 1 } :: post) ∧
      (s.coilCounter ≠ g.coil → ∀ more : List CoilReport → List CoilReport,
        more = List.map (fun y => if y.coil = s.coilCounter then { y with created := y.created + 1 } else y) →
        (acc.accounted ≠ acc.created → t.reports = more pre ++ acc :: more post) ∧
        (acc.accounted = acc.created → t.reports = more pre ++ more post ∧
          t.logs[LogNo.coil] = s.logs[LogNo.coil].append 16 s.logTime
            (.coil { acc with offLength := roundDiv (acc.offCount * s.line.segLen) 1000, state := .complete }))) ∧
      (∀ y : Transition, s.transitions.find? (·.weld == g.number) = some y →
        (∀ z ∈ t.transitions, z.weld ≠ g.number) ∧
        t.logs[LogNo.schedule].entries.getLast?.map (·.content) = some (.completed y .forced))

/-- R96, R103, R104, R140, R149: an accepted FORCE[k] sample v. In THREAD and RUN a stand in POSITION, HOLD or GAUGE judges
it: loaded, above zero force + bite-on threshold, it stops the unload timer and ends STAND_UNLOADED k, otherwise it starts a
stopped one; a loaded sample with GAP_POS[k] usable adds clamp(S + round((F − F0) × 1000 / M) + C, 0, 100,000) to the
estimate while a segment is in the bite (stated where the sample neither starts a point nor a trip). Other stand modes and
other modes judge nothing. In every mode FORCE_LIMIT k and FORCE_NEAR_LIMIT k are active exactly at and above their levels,
and FORCE_LIMIT in READY, THREAD or RUN starts the trip (stated where kind 4 is not an enabled tripping kind, so that
FORCE_LIMIT is alone in tripping). -/
def Obligations.ForceSamplesJudged : Prop :=
  ∀ (l : LinkNo) (f : SensorFields) (o : ReaderOrder) (e : EntryNo) (k : Stand) (v : Int) (p : StandParams) (s : State)
    (started loaded : Bool), Brings s l f e (.force k) v → s.stands[k].params = some p → s.trips Kind.forceNearLimit = false →
    loaded = decide (p.zeroForce + p.bite < v) → started = s.points[bitePoint k].started →
    ((s.mode = .thread ∨ s.mode = .run) → s.trip = .normal → v < p.forceLimit → (loaded = true → started = true) →
      (s.stands[k].mode = .position ∨ s.stands[k].mode = .hold ∨ s.stands[k].mode = .gauge) →
      ∃ t, exec (.sensorFrame l (sensorFrameBytes f) o) s = .next t ∧
        t.stands[k].unload = (if loaded = true then .stopped else match s.stands[k].unload with
          | .stopped => .running s.time
          | .running t0 => .running t0
          | .expired => .expired) ∧
        (loaded = true → (k.val + 1) ∉ t.faults[Kind.standUnloaded].active) ∧
        (∀ gap : Int, loaded = true → s.heldOf (.gapPos k) = some gap → s.stands[k].bite.isSome = true →
          t.stands[k].sum = s.stands[k].sum +
            clampInt (gap + roundDiv ((v - p.zeroForce) * 1000) p.modulus + p.offset) 0 100000 ∧
          t.stands[k].count = s.stands[k].count + 1) ∧
        (loaded = false ∨ s.heldOf (.gapPos k) = none ∨ s.stands[k].bite = none →
          t.stands[k].sum = s.stands[k].sum ∧ t.stands[k].count = s.stands[k].count) ∧
        t.stands[k].mode = s.stands[k].mode ∧ (∀ j : Stand, j ≠ k → t.stands[j] = s.stands[j])) ∧
    (s.mode = .config ∨ s.mode = .ready ∨ s.mode = .tripped ∨ ((s.stands[k].mode = .off ∨ s.stands[k].mode = .opened) ∧
        (loaded = true → started = true)) → (v < p.forceLimit ∨ s.mode = .config) →
      ∃ t, exec (.sensorFrame l (sensorFrameBytes f) o) s = .next t ∧ t.stands = s.stands ∧ t.actuators = s.actuators ∧
        t.points = s.points ∧ t.sent = [] ∧ t.mode = s.mode ∧ t.trip = s.trip) ∧
    ((loaded = true → started = true) → ∃ t, exec (.sensorFrame l (sensorFrameBytes f) o) s = .next t ∧
      ((k.val + 1) ∈ t.faults[Kind.forceLimit].active ↔ p.forceLimit ≤ v) ∧
      ((k.val + 1) ∈ t.faults[Kind.forceNearLimit].active ↔ roundDiv (p.forceLimit * 19) 20 ≤ v) ∧
      (p.forceLimit ≤ v → s.trips Kind.forceLimit = true → (k.val + 1) ∉ s.faults[Kind.forceLimit].active →
        s.trip = .normal → (s.mode = .ready ∨ s.mode = .thread ∨ s.mode = .run) →
        TripsBy s t Kind.forceLimit (k.val + 1)))

/-- R86, R105 to R112, R116, R124: an accepted FORCE[k] sample of a stand in GAUGE makes one evaluation of S_set + trim +
feedback + feedforward: on a loaded sample with GAP_POS[k] usable the feedback −round(Gfb × e × Kq / 65536) on the gaugemeter
error and the feedforward −round(Gff × δH × Qf / 65536) on the deviation of the incoming thickness, 0 where no source is
present; otherwise both are 0. An actuator in IDLE or FOLLOWING that is handed a reference goes to FOLLOWING within the move
band of a usable gap position and otherwise to MOVING with its timer started, which ends POSITIONING_TIMEOUT k; one in MOVING
keeps its timer; in the other states nothing is sent and no actuator changes. The same holds for a stand that its actuator's
report has just taken from GAUGE to HOLD, where the order of the frame's readers puts the sample before the report (R124,
R131; the model's choice of notes/assumptions/33); it stays in HOLD. (Stated where the sample starts neither a point nor a
trip, and where a reference has been sent before, as R110 says it always has been.) -/
def Obligations.GaugeEvaluations : Prop :=
  ∀ (l : LinkNo) (f : SensorFields) (o : ReaderOrder) (e : EntryNo) (k : Stand) (v last : Int) (p : StandParams) (s : State)
    (g : Segment) (x : InForce) (n : SegNo) (gap hin : Option Int) (fb ff : Int),
    Brings s l f e (.force k) v → s.stands[k].params = some p → s.trips Kind.forceNearLimit = false →
    (s.mode = .thread ∨ s.mode = .run) → s.trip = .normal → v < p.forceLimit →
    (p.zeroForce + p.bite < v → s.points[bitePoint k].started = true) → TakesIn s k o .gauge →
    s.stands[k].bite = some n → s.segment n = some g → s.inForce g.tag = some x → s.stands[k].lastSent = some last →
    gap = (if p.zeroForce + p.bite < v then s.heldOf (.gapPos k) else none) →
    (k.val = 0 → hin = g.entry.map (·.1)) →
    (k.val = 1 → hin = (match g.x1 with
      | some m => some m.1
      | none => (g.estimates.find? (·.stand.val == 0)).bind (·.mean))) →
    (2 ≤ k.val → hin = (g.estimates.find? (·.stand.val + 1 == k.val)).bind (·.mean)) →
    fb = (match gap with
      | some d => -roundDiv (p.gfb * (clampInt (d + roundDiv ((v - p.zeroForce) * 1000) p.modulus + p.offset) 0 100000 -
          x.effH n k) * roundDiv (256 * (p.modulus + x.sched.stands[k].q)) p.modulus) 65536
      | none => 0) →
    ff = (match gap, hin with
      | some _, some a => -roundDiv (p.gff * (a - x.effBefore n k) * roundDiv (256 * x.sched.stands[k].q) p.modulus) 65536
      | _, _ => 0) →
    ∃ t, exec (.sensorFrame l (sensorFrameBytes f) o) s = .next t ∧
      Evaluates s t k p x.sched.stands[k] (some v) last (x.effS n k + s.stands[k].trim + fb + ff) ∧
      (∀ r : Int, t.sent = [⟨k, .gapSet r, commandFrameBytes (.gapSet r)⟩] →
        (s.actuators[k].mode = .idle ∨ s.actuators[k].mode = .following →
          ((∃ d, s.heldOf (.gapPos k) = some d ∧ |r - d| ≤ p.moveBand) →
            t.actuators[k].mode = .following ∧ t.actuators[k].posTimer = s.actuators[k].posTimer) ∧
          ((∀ d, s.heldOf (.gapPos k) = some d → p.moveBand < |r - d|) →
            t.actuators[k].mode = .moving ∧ t.actuators[k].posTimer = some s.time ∧
            (s.actuators[k].mode = .following → (k.val + 1) ∉ t.faults[Kind.positioningTimeout].active ∧
              t.stands[k].holds.posTimeout = false))) ∧
        (s.actuators[k].mode = .moving → t.actuators[k].mode = .moving ∧ t.actuators[k].posTimer = s.actuators[k].posTimer)) ∧
      (s.actuators[k].mode = .unlinked ∨ s.actuators[k].mode = .faulted ∨ s.actuators[k].mode = .opening ∨
        s.actuators[k].mode = .opened → t.actuators = s.actuators) ∧
      (∀ j : Stand, j ≠ k → t.actuators[j] = s.actuators[j]) ∧ t.stands[k].trim = s.stands[k].trim ∧
      t.stands[k].mode = s.stands[k].mode ∧ t.ring = s.ring ∧ t.points = s.points ∧ t.table = s.table

/-- R86, R100, R102, R108 to R112, R116, R125, R128: an accepted GAP_POS[k] sample v. In MOVING a sample within the move band
of the target makes the actuator FOLLOWING and stops its timer; in FOLLOWING it ends POSITIONING_TIMEOUT k with its hold
cause; in OPENING one at or above the open gap minus the move band makes it OPEN; every other sample leaves the actuator as
it was (stated where the stand makes no reference at the sample). A stand in POSITION in THREAD or RUN makes one evaluation
of S_set + trim, S_set being the effective value of its bite segment, or the entry schedule's record value before B_k has
started, with the force guard while FORCE[k] is usable (stated where a reference has been sent); so does one that its
actuator's report has just taken from POSITION to HOLD, where the order of the frame's readers puts the sample before the
report (R124, R131; the model's choice of notes/assumptions/33), and it stays in HOLD. While B_k has not started, a stand in
HOLD with no hold cause returns: to POSITION in THREAD (stated where it takes the sample after its actuator's report). A
sample that makes an INVALID channel VALID clears hold cause GAP_LOST. -/
def Obligations.GapSamplesJudged : Prop :=
  ∀ (l : LinkNo) (f : SensorFields) (o : ReaderOrder) (e : EntryNo) (k : Stand) (v : Int) (p : StandParams) (s : State)
    (within : Bool), s.stands[k].params = some p →
    within = (match s.actuators[k].target with
      | some d => decide (|v - d| ≤ p.moveBand)
      | none => false) →
    (Brings s l f e (.gapPos k) v →
      (¬ ((s.mode = .thread ∨ s.mode = .run) ∧ TakesIn s k o .position) →
        ∃ t, exec (.sensorFrame l (sensorFrameBytes f) o) s = .next t ∧ t.sent = [] ∧
          (s.actuators[k].mode = .moving → within = true →
            t.actuators = s.actuators.set k { s.actuators[k] with mode := .following, posTimer := none }) ∧
          (s.actuators[k].mode = .opening → p.openGap - p.moveBand ≤ v →
            t.actuators = s.actuators.set k { s.actuators[k] with mode := .opened, openTimer := none } ∧
            (k.val + 1) ∉ t.faults[Kind.openTimeout].active ∧ (s.trip = .opening → t.opened = s.opened.set k true ∧
              t.trip = (if s.opened.set k true = Vector.replicate 6 true then .safe else .opening))) ∧
          (s.actuators[k].mode ≠ .opening ∨ v < p.openGap - p.moveBand → t.opened = s.opened ∧ t.trip = s.trip ∧
            (s.actuators[k].mode ≠ .moving ∨ within = false → t.actuators = s.actuators)) ∧
          (s.actuators[k].mode = .following → within = true → (k.val + 1) ∈ s.faults[Kind.positioningTimeout].active →
            (k.val + 1) ∉ t.faults[Kind.positioningTimeout].active ∧ t.stands[k].holds.posTimeout = false) ∧
          (s.actuators[k].mode ≠ .following ∨ within = false → t.faults[Kind.positioningTimeout] =
            s.faults[Kind.positioningTimeout])) ∧
      (∀ (x : InForce) (base last : Int), (s.mode = .thread ∨ s.mode = .run) → TakesIn s k o .position →
        s.stands[k].lastSent = some last →
        (s.stands[k].bite = none → s.entrySchedule = some x ∧ base = x.sched.stands[k].sset) →
        (∀ n, s.stands[k].bite = some n → s.scheduleOf n = some x ∧ base = x.effS n k) →
        ∃ t, exec (.sensorFrame l (sensorFrameBytes f) o) s = .next t ∧
          Evaluates s t k p x.sched.stands[k] (s.heldOf (.force k)) last (base + s.stands[k].trim) ∧
          t.stands[k].trim = s.stands[k].trim ∧ (s.stands[k].mode = .hold → t.stands[k].mode = .hold) ∧
          (∀ j : Stand, j ≠ k → t.actuators[j] = s.actuators[j]) ∧
          t.ring = s.ring ∧ t.points = s.points ∧ t.table = s.table) ∧
      (s.mode = .thread → s.stands[k].mode = .hold → s.stands[k].bite = none →
        s.stands[k].holds = ⟨false, false, false, false⟩ → s.heldFrom[k] = none ∨ o.beforeReport = false →
        ∃ t, exec (.sensorFrame l (sensorFrameBytes f) o) s = .next t ∧ t.stands[k] = { s.stands[k] with mode := .position })) ∧
    (∀ c : ChannelConfig, s.links[l].mode = .up → s.links[l].rx = [] → f.headFault = false → s.entryAt l f.slot = some e →
      s.channels[e].config = some c → c.item = .gapPos k → s.channels[e].state.isInvalid = true →
      v = roundDiv (fieldValue f.raw c.start c.length c.signed * c.gain) 65536 + c.offset → -300000 ≤ v → v ≤ 400000 →
      ∃ t, exec (.sensorFrame l (sensorFrameBytes f) o) s = .next t ∧ t.stands[k].holds.gapLost = false ∧
        t.channels = s.channels.set e { s.channels[e] with state := .valid, held := some (v, s.time), consecutive := 0 } ∧
        (k.val + 1) ∉ t.faults[Kind.gapFeedbackLost].active)

/-- R38, R41, R43, R51, R100, R101, R140 to R143: an accepted TENSION[j] sample below the break threshold starts the STOPPED
break timer of an armed interstand, stops a RUNNING one of an unarmed interstand and leaves an EXPIRED one; one at or above
it stops the timer and ends STRIP_BREAK j. Nothing else changes. A channel that becomes INVALID by age, by a head fault or by
the third reject in a row: outside CONFIG its loss condition is active and latched; the break timer of its tension is stopped
with its condition; the RUNNING break timers (for stand 6) and the speed in force go, where it is a roll speed; the force
conditions and the unload timer of the stand end, and GAUGE is left for POSITION where the gap position is usable, where it
is a force; and a stand in POSITION, GAUGE or HOLD is in HOLD with GAP_LOST, where it is a gap position. No other reader
state changes, and for age and head fault nothing else at all (stated where its loss kind is not an enabled tripping kind,
and for a reject, whose frame may still be an early start, nor is kind 17). The loss of a whole link is
LinkLossMarksChannels. -/
def Obligations.BreakTimersAndLosses : Prop :=
  (∀ (l : LinkNo) (f : SensorFields) (o : ReaderOrder) (e : EntryNo) (j : Interstand) (v : Int) (s : State) (armed : Bool),
    Brings s l f e (.tension j) v →
    armed = (decide (s.mode = .run) && match s.heldOf (.rollSpeed 5) with
      | some w => decide ((s.line.breakMinSpeed : Int) ≤ w)
      | none => false) →
    (v < (s.line.breakThreshold : Int) → exec (.sensorFrame l (sensorFrameBytes f) o) s = .next ((s.sampled l f e v).setBreak j
      (match s.breakTimers[j] with
        | .stopped => if armed = true then .running s.time else .stopped
        | .running t0 => if armed = true then .running t0 else .stopped
        | .expired => .expired))) ∧
    ((s.line.breakThreshold : Int) ≤ v → exec (.sensorFrame l (sensorFrameBytes f) o) s = .next
      (((s.sampled l f e v).setBreak j .stopped).inactive Kind.stripBreak (j.val + 1)))) ∧
  (∀ (e : EntryNo) (c : ChannelConfig) (s : State), s.channels[e].config = some c →
    (s.channels[e].state = .noData ∨ s.channels[e].state = .valid ∨ s.channels[e].state = .stale) →
    (∀ (d : Kind) (loc : Nat), lossOf c.item = some (d, loc) → s.trips d = false) →
    (∀ (v : Int) (t0 : Micros), s.channels[e].held = some (v, t0) → s.channels[e].state ≠ .noData → 4 * c.stale ≤ s.age t0 →
      ∃ t, exec (.invalidExpiry e) s = .next t ∧ ChannelsLost s t (fun i => i == c.item) ∧ LossAlone s.stepStart t) ∧
    (∀ (l : LinkNo) (f : SensorFields) (o : ReaderOrder), s.links[l].mode = .up → s.links[l].rx = [] →
      s.entryAt l f.slot = some e →
      (f.headFault = true → ∃ t, exec (.sensorFrame l (sensorFrameBytes f) o) s = .next t ∧
        ChannelsLost s t (fun i => i == c.item) ∧ LossAlone s.stepStart t) ∧
      (∀ v : Int, f.headFault = false → c.item ≠ .entryLength →
        v = roundDiv (fieldValue f.raw c.start c.length c.signed * c.gain) 65536 + c.offset →
        v < (roleRange c.item).1 ∨ (roleRange c.item).2 < v → 2 ≤ s.channels[e].consecutive →
        s.trips Kind.trackOverrun = false →
        ∃ t, exec (.sensorFrame l (sensorFrameBytes f) o) s = .next t ∧ ChannelsLost s t (fun i => i == c.item) ∧
          (c.item ≠ .stand1Thick → c.item ≠ .exitThick → LossAlone s.stepStart t))))

/-! ### Welds and tracking -/

/-- R64 to R66: a WELD_DETECT pulse outside THREAD and RUN is ignored. In THREAD and RUN a pulse on an open segment that
carries a weld flag already, or while 4 reports are open, marks nothing. An accepted pulse with no schedule pending raises
the coil counter, gives the open segment its weld flag and the new coil number, and opens that coil's report with the segment
counted in it instead of in the old one. (Stated for a rejected weld where kind 20 (WELD_REJECTED, R132) is not an enabled
tripping kind; TrippingKindsTrip has the other case.) -/
def Obligations.WeldMarksCoil : Prop :=
  (∀ s : State, s.mode = .config ∨ s.mode = .ready ∨ s.mode = .tripped → exec .weldDetect s = .next s.stepStart) ∧
  (∀ (s : State) (pre : List Segment) (g : Segment), s.mode = .thread ∨ s.mode = .run → s.trip = .normal →
    s.trips Kind.weldRejected = false → s.ring = pre ++ [g] → g.weld = true ∨ 4 ≤ s.reports.length →
    ∃ t, exec .weldDetect s = .next t ∧ t.ring = s.ring ∧ t.coilCounter = s.coilCounter ∧ t.reports = s.reports ∧
      t.queue = s.queue ∧ t.table = s.table ∧ t.transitions = s.transitions ∧ t.mode = s.mode ∧
      t.faults[Kind.weldRejected].active = s.faults[Kind.weldRejected].active.filter (· ≠ 0) ∧
      (0 ∉ s.faults[Kind.weldRejected].active → t.faults[Kind.weldRejected].latched = true)) ∧
  (∀ (s : State) (pre : List Segment) (g : Segment), s.mode = .thread ∨ s.mode = .run → s.trip = .normal →
    s.ring = pre ++ [g] → g.weld = false → s.reports.length < 4 → s.queue = [] → (∀ x ∈ pre, x.number ≠ g.number) →
    (∀ r ∈ s.reports, r.coil ≠ s.coilCounter + 1) → g.coil ≠ s.coilCounter + 1 →
    (∀ x ∈ s.transitions, x.weld ≠ g.number) →
    ∃ t, exec .weldDetect s = .next t ∧ t.coilCounter = s.coilCounter + 1 ∧
      t.ring = pre ++ [{ g with weld := true, coil := s.coilCounter + 1 }] ∧
      t.report (s.coilCounter + 1) = some (CoilReport.fresh (s.coilCounter + 1) g.tag 1) ∧
      ((∀ r ∈ s.reports, r.coil = g.coil → r.accounted + 1 < r.created) →
        t = { s.stepStart with
          coilCounter := s.coilCounter + 1
          ring := pre ++ [{ g with weld := true, coil := s.coilCounter + 1 }]
          reports := s.reports.map (fun r => if r.coil = g.coil then { r with created := r.created - 1 } else r) ++
            [CoilReport.fresh (s.coilCounter + 1) g.tag 1] }))

/-- R82, R83: an accepted weld with a schedule pending. With room in the in-force table and a transition slot free the head
is taken: it leaves the queue, becomes the one entry schedule with the open segment its first reference, the open segment
carries its tag, and a transition is ACTIVE at that segment, the stands switched whose bite point stands there already. With
the table or the slots full it stays at the head, and the open segment keeps its tag. (Stated for a deferral where kind 19
(CHANGE_DEFERRED, R132) is not an enabled tripping kind; TrippingKindsTrip has the other case.) -/
def Obligations.WeldTakesSchedule : Prop :=
  ∀ (s : State) (pre : List Segment) (g : Segment) (head : Schedule) (rest : List Schedule),
    s.mode = .thread ∨ s.mode = .run → s.trip = .normal → s.ring = pre ++ [g] → g.weld = false → s.reports.length < 4 →
    s.queue = head :: rest → (∀ x ∈ pre, x.number ≠ g.number) → (∀ e ∈ s.table, e.sched.tag ≠ head.tag) → g.tag ≠ head.tag →
    (∀ x ∈ s.transitions, x.weld ≠ g.number) →
    (s.points[PointNo.x6].started = true → s.points[PointNo.x6].cursor ≠ g.number) →
    (s.table.length < 3 → s.transitions.length < 2 → ∃ t, exec .weldDetect s = .next t ∧
      t.queue = rest ∧ t.coilCounter = s.coilCounter + 1 ∧
      (∃ x, t.table.filter (·.isEntry) = [x] ∧ x.sched = head ∧ x.refs = 1) ∧
      (∃ x, t.ring = pre ++ [x] ∧ x.number = g.number ∧ x.tag = head.tag ∧ x.weld = true ∧ x.coil = s.coilCounter + 1) ∧
      t.transitions = s.transitions ++ [⟨g.tag, head.tag, g.number, s.coilCounter + 1,
        Vector.ofFn fun k => s.points[bitePoint k].started && s.points[bitePoint k].cursor == g.number⟩]) ∧
    (3 ≤ s.table.length ∨ 2 ≤ s.transitions.length → s.trips Kind.changeDeferred = false → ∃ t, exec .weldDetect s = .next t ∧
      t.queue = s.queue ∧ t.table = s.table ∧ t.transitions = s.transitions ∧ t.coilCounter = s.coilCounter + 1 ∧
      t.ring = pre ++ [{ g with weld := true, coil := s.coilCounter + 1 }] ∧
      (0 ∉ s.faults[Kind.changeDeferred].active → t.faults[Kind.changeDeferred].latched = true ∧
        t.faults[Kind.changeDeferred].active = s.faults[Kind.changeDeferred].active))

/-- R52, R55, R57, R61: an advance of a point raises its travelled length; below the segment length nothing else changes. X0
that reaches it passes the open segment: a new one is opened with the next number, and X0 stands on it with the excess. A
point on the same segment as its started upstream neighbour does not pass: it is held at L × 1024 − 1 and clamped. -/
def Obligations.PointsAdvance : Prop :=
  (∀ (p : PointNo) (d : Nat) (s : State), s.points[p].travelled + d < s.line.segLen * 1024 →
    advanceBy p d s = s.setPoint p { s.points[p] with travelled := s.points[p].travelled + d }) ∧
  (∀ (d : Nat) (s : State) (pre : List Segment) (g : Segment) (e : InForce), 0 < s.line.segLen → s.trip = .normal →
    s.points[PointNo.x0].started = true → s.ring = pre ++ [g] → g.number = s.points[PointNo.x0].cursor →
    (∀ x ∈ pre, x.number ≠ g.number) → (∀ x ∈ s.ring, x.number ≠ g.number + 1) → s.ring.length < 256 →
    s.entrySchedule = some e →
    s.line.segLen * 1024 ≤ s.points[PointNo.x0].travelled + d →
    s.points[PointNo.x0].travelled + d < 2 * (s.line.segLen * 1024) →
    (advanceBy PointNo.x0 d s).ring = pre ++ [{ g with
        entry := if s.points[PointNo.x0].count = 0 then none
          else some (roundDiv s.points[PointNo.x0].sum s.points[PointNo.x0].count, s.points[PointNo.x0].count) },
      ⟨g.number + 1, s.coilCounter, e.sched.tag, false, none, [], none, none, e.rampIndex (g.number + 1), none, false, false⟩] ∧
    (advanceBy PointNo.x0 d s).points[PointNo.x0].cursor = g.number + 1 ∧
    (advanceBy PointNo.x0 d s).points[PointNo.x0].travelled =
      s.points[PointNo.x0].travelled + d - s.line.segLen * 1024) ∧
  (∀ (p q : PointNo) (d : Nat) (s : State), 0 < s.line.segLen → s.trip = .normal → s.trips Kind.trackOverrun = false →
    q.val + 1 = p.val → s.points[q].started = true → s.points[q].cursor = s.points[p].cursor →
    s.line.segLen * 1024 ≤ s.points[p].travelled + d →
    (advanceBy p d s).points[p] = { s.points[p] with travelled := s.line.segLen * 1024 - 1, clamped := true } ∧
    (s.points[p].clamped = false → p.val ∈ (advanceBy p d s).faults[Kind.trackOverrun].active) ∧
    (advanceBy p d s).ring = s.ring)

/-! ### Control -/

/-- R104, R109 to R112, R114: whatever the raw reference, a reference that an evaluation sends lies within the governing
schedule's limits, within one step of the last sent reference, at least the deadband and 1 gu from it, and, with the force at
or above the near level, not below it; a gaugemeter thickness lies in 0..100,000 gu and a monitor trim within its limit. R4,
R86, R157, R158: a division rounds to the nearest integer, halves away from zero; a ramped quantity lies between its two
ends; a deviation falls into the one bin whose bounds hold it, the outer bins being open-ended, and is off-gauge exactly
beyond the tolerance. -/
def Obligations.ReferencesRampsAndBins : Prop :=
  ((∀ (p : StandParams) (last force : Option Int) (smin smax raw r : Int), smin ≤ smax → 0 ≤ p.stepLimit →
    (∀ l, last = some l → smin ≤ l ∧ l ≤ smax) → (guards p last smin smax force raw).send = some r →
    smin ≤ r ∧ r ≤ smax ∧
      (∀ l, last = some l → |r - l| ≤ p.stepLimit ∧ p.deadband ≤ |r - l| ∧ r ≠ l ∧ (∀ f, force = some f → p.nearLevel ≤ f → l ≤ r)) ∧
      (last = none → r = clampInt raw smin smax)) ∧
  (∀ (p : StandParams) (l : Int) (force : Option Int) (smin smax raw : Int), smin ≤ smax → 0 ≤ p.stepLimit →
    l + p.stepLimit < smin ∨ smax < l - p.stepLimit →
    (guards p (some l) smin smax force raw).send = none ∧ (guards p (some l) smin smax force raw).blocked = true) ∧
  (∀ (p : StandParams) (f gap : Int), 0 ≤ gaugemeter p f gap ∧ gaugemeter p f gap ≤ 100000) ∧
  (∀ (p : StandParams) (trim q err : Int), 0 ≤ p.trimLimit → |trimNext p trim q err| ≤ p.trimLimit)) ∧
  ((∀ n d : Int, 0 < d → 2 * |roundDiv n d * d - n| ≤ d ∧
    (2 * |roundDiv n d * d - n| = d → |n| < |roundDiv n d * d|) ∧ roundDiv (-n) d = -roundDiv n d) ∧
  (∀ (a b : Int) (i w : Nat), i < w → min a b ≤ ramped a b i w ∧ ramped a b i w ≤ max a b) ∧
  (∀ (m target tol w : Int), 0 < w →
    ((verdict m target tol w).bin = 0 ↔ m - target < -7 * w) ∧
    ((verdict m target tol w).bin = 15 ↔ 7 * w ≤ m - target) ∧
    (∀ b : Fin 16, 0 < b → b < 15 →
      ((verdict m target tol w).bin = b ↔ ((b.val : Int) - 8) * w ≤ m - target ∧ m - target < ((b.val : Int) - 7) * w)) ∧
    ((verdict m target tol w).off = true ↔ tol < |m - target|)))

/-! ### Actuator links -/

/-- R118, R120, R121, R123, R128, R151, R193: what each status frame does, by the actuator's state (section 6.2); every one
that passes its check lowers the unanswered count and is counted; the stand is told of FAULTED (R100; the mode that a sample
of the same microsecond may still find is the model's field of notes/assumptions/33). (The cases that fault the actuator are
stated where kind 14 is not an enabled tripping kind, so that no trip follows in the same step, and TrippingKindsTrip has the
trip of the default; OPEN is stated outside a trip and at the last actuator of one.) A frame that fails its check is counted
and changes nothing else. -/
def Obligations.ActuatorStatuses : Prop :=
  ∀ (k : Stand) (s : State) (u : State) (a : Actuator), s.actuators[k].rx = [] →
    a = { s.actuators[k] with
      unanswered := s.actuators[k].unanswered - 1, statuses := min (s.actuators[k].statuses + 1) 65535
      replyTimer := if 1 < s.actuators[k].unanswered then some s.time else none } →
    u = s.stepStart.setActuator k a →
    (∀ ready : Bool, (s.actuators[k].mode = .opening ∨ s.actuators[k].mode = .opened ∨
        (s.actuators[k].mode = .faulted ∧ ready = false) ∨
        (ready = true ∧ (s.actuators[k].mode = .idle ∨ s.actuators[k].mode = .following ∨ s.actuators[k].mode = .moving))) →
      exec (.ack k ready) s = .next (u.setActuator k { a with readyFlag := some ready })) ∧
    (∀ ready : Bool, s.actuators[k].mode = .unlinked → ready = true ∨ s.actuators[k].demand = true →
      ∃ t, exec (.ack k ready) s = .next t ∧ t.actuators[k] = { a with
          readyFlag := some ready, mode := if s.actuators[k].demand then .opening else .idle } ∧
        t.stands[k].holds.unlinked = false ∧ (k.val + 1) ∉ t.faults[Kind.actuatorSilent].active) ∧
    (s.actuators[k].mode = .faulted → ∃ t, exec (.ack k true) s = .next t ∧ t.actuators[k] = { a with
          readyFlag := some true, mode := if s.actuators[k].demand then .opening else .idle } ∧
        t.stands[k].holds.faulted = false ∧ (k.val + 1) ∉ t.faults[Kind.actuatorFault].active) ∧
    (s.trips Kind.actuatorFault = false → s.actuators[k].mode = .idle ∨ s.actuators[k].mode = .following ∨
        s.actuators[k].mode = .moving ∨ (s.actuators[k].mode = .unlinked ∧ s.actuators[k].demand = false) →
      (∃ t, exec (.ack k false) s = .next t ∧ t.actuators[k] = { a with
          readyFlag := some false, mode := .faulted, faultCode := some 0xFE
          posTimer := if s.actuators[k].mode = .moving then none else a.posTimer } ∧
        (k.val + 1) ∈ t.faults[Kind.actuatorFault].active ∧ ToldHold s t k Holds.faulted) ∧
      (∃ t, exec (.openConfirmed k) s = .next t ∧ t.actuators[k] = { a with
          mode := .faulted, faultCode := some 0xFF
          posTimer := if s.actuators[k].mode = .moving then none else a.posTimer } ∧
        (k.val + 1) ∈ t.faults[Kind.actuatorFault].active ∧ ToldHold s t k Holds.faulted)) ∧
    (∀ code : Byte, code ≠ 0 → code ≠ 0xFE → code ≠ 0xFF →
      (s.actuators[k].mode = .faulted →
        exec (.faultStatus k code) s = .next (u.setActuator k { a with faultCode := some code })) ∧
      (s.actuators[k].mode ≠ .faulted → s.trips Kind.actuatorFault = false →
        ∃ t, exec (.faultStatus k code) s = .next t ∧ t.actuators[k] = { a with
            mode := .faulted, faultCode := some code
            posTimer := if s.actuators[k].mode = .moving then none else a.posTimer } ∧
          (k.val + 1) ∈ t.faults[Kind.actuatorFault].active ∧ ToldHold s t k Holds.faulted)) ∧
    (s.actuators[k].mode = .opened ∨ (s.actuators[k].mode = .faulted ∧ s.actuators[k].demand = false) →
      exec (.openConfirmed k) s = .next u) ∧
    (s.actuators[k].mode = .opening ∨
        ((s.actuators[k].mode = .faulted ∨ s.actuators[k].mode = .unlinked) ∧ s.actuators[k].demand = true) →
      ∃ t, exec (.openConfirmed k) s = .next t ∧ t.actuators[k] = { a with mode := .opened, openTimer := none } ∧
        (s.trip = .opening → t.opened = s.opened.set k true ∧
          t.trip = (if s.opened.set k true = Vector.replicate 6 true then .safe else .opening))) ∧
    (∀ (code arg crc : Byte), code ≠ 0x3C → arg ≠ 0x3C → crc ≠ 0x3C →
      crc ≠ crc8 [code, arg] ∨ statusOf [code, arg] = none →
      exec (.actuatorBadFrame k [0x3C, code, arg, crc]) s = .next (s.stepStart.setActuator k { s.actuators[k] with
        badFrames := min (s.actuators[k].badFrames + 1) 65535 }))

/-- R119, R121, R122: silence in UNLINKED empties the unanswered count and raises nothing; in any other state it takes the
actuator to UNLINKED, counts the silence and makes ACTUATOR_SILENT active, and the stand is told (R100; the mode that a
sample of the same microsecond may still find is the model's field of notes/assumptions/33; stated where kind 15 is not an
enabled tripping kind; TrippingKindsTrip has the trip of the default). A keep-alive command, OPEN on an open demand and POLL
otherwise, is sent and counted when 100 ms have passed since the last command; where none has been sent since power-on it is
due at once (the model's choice of notes/assumptions/21), and a silence in UNLINKED is not counted (notes/assumptions/14).
Neither does anything before it is due. -/
def Obligations.ActuatorSupervision : Prop :=
  ∀ (k : Stand) (s : State),
    (∀ t0, s.actuators[k].replyTimer = some t0 → 10000 ≤ s.age t0 →
      (s.actuators[k].mode = .unlinked → exec (.replyTimerExpiry k) s = .next
        (s.stepStart.setActuator k { s.actuators[k] with unanswered := 0, replyTimer := none })) ∧
      (s.actuators[k].mode ≠ .unlinked → s.trips Kind.actuatorSilent = false →
        ∃ t, exec (.replyTimerExpiry k) s = .next t ∧ t.actuators[k] = { s.actuators[k] with
            mode := .unlinked, unanswered := 0, replyTimer := none, silences := min (s.actuators[k].silences + 1) 65535
            posTimer := if s.actuators[k].mode = .moving then none else s.actuators[k].posTimer } ∧
          (k.val + 1) ∈ t.faults[Kind.actuatorSilent].active ∧ ToldHold s t k Holds.unlinked)) ∧
    ((∀ t0, s.actuators[k].replyTimer = some t0 → s.age t0 < 10000) → exec (.replyTimerExpiry k) s = .next s.stepStart) ∧
    ((∀ t0, s.actuators[k].lastSent = some t0 → 100000 ≤ s.age t0) → ∀ (c : Command) (frame : List Byte),
      c = (if s.actuators[k].demand ∧ s.actuators[k].mode ≠ .opened then .openGap else .poll) →
      frame = (if s.actuators[k].demand ∧ s.actuators[k].mode ≠ .opened then [0x3C, 0x02, 0, 0, 0, 0, crc8 [0x02, 0, 0, 0, 0]]
        else [0x3C, 0x03, 0, 0, 0, 0, crc8 [0x03, 0, 0, 0, 0]]) →
      exec (.keepAlive k) s = .next { s.stepStart with
        actuators := s.actuators.set k { s.actuators[k] with
          unanswered := min (s.actuators[k].unanswered + 1) 65535
          replyTimer := if s.actuators[k].unanswered = 0 then some s.time else s.actuators[k].replyTimer
          lastSent := some s.time, commandsSent := min (s.actuators[k].commandsSent + 1) 65535 }
        sent := [⟨k, c, frame⟩] }) ∧
    (∀ t0, s.actuators[k].lastSent = some t0 → s.age t0 < 100000 → exec (.keepAlive k) s = .next s.stepStart)

/-- R100, R126, R129, R152: a move that has not arrived in time leaves the actuator in FOLLOWING with POSITIONING_TIMEOUT
active and its stand in HOLD (the mode that a sample of the same microsecond may still find is the model's field of
notes/assumptions/33; stated where kind 13 is not an enabled tripping kind, as is the default; TrippingKindsTrip has the
other case). The open timers that have run out are stopped, each actuator among them that is not OPEN has OPEN_TIMEOUT
active, and the first such take in OPENING moves the trip to HARD_STOP. Timers that are not due do nothing. -/
def Obligations.MoveAndOpenTimers : Prop :=
  (∀ (k : Stand) (s : State) (t0 : Micros) (p : StandParams), s.actuators[k].mode = .moving → s.actuators[k].posTimer = some t0 →
    s.stands[k].params = some p →
    (p.posTimeout * 1000 ≤ s.age t0 → s.trips Kind.positioningTimeout = false →
      ∃ t, exec (.positioningTimerExpiry k) s = .next t ∧
        t.actuators[k] = { s.actuators[k] with mode := .following, posTimer := none } ∧
        (k.val + 1) ∈ t.faults[Kind.positioningTimeout].active ∧ ToldHold s t k Holds.posTimeout) ∧
    (s.age t0 < p.posTimeout * 1000 → exec (.positioningTimerExpiry k) s = .next s.stepStart)) ∧
  (∀ (s : State) (ks : List Stand), s.mode = .tripped → s.trip ≠ .normal →
    ks = (List.finRange 6).filter (fun k => match s.actuators[k].openTimer with
      | some t0 => decide (s.line.openTimeout * 1000 ≤ s.age t0)
      | none => false) →
    ∃ t, exec .openTimerExpiry s = .next t ∧ t.mode = .tripped ∧
      (∀ k ∈ ks, t.actuators[k] = { s.actuators[k] with openTimer := none }) ∧
      (∀ k : Stand, k ∉ ks → t.actuators[k] = s.actuators[k]) ∧
      (∀ k ∈ ks, s.actuators[k].mode ≠ .opened → (k.val + 1) ∈ t.faults[Kind.openTimeout].active) ∧
      (s.trip = .opening → (∃ k ∈ ks, s.actuators[k].mode ≠ .opened ∧ (k.val + 1) ∉ s.faults[Kind.openTimeout].active) →
        t.trip = .hardStop ∧ t.hardStop = true) ∧
      (s.trip ≠ .opening ∨ (∀ k ∈ ks, s.actuators[k].mode = .opened) → t.trip = s.trip ∧ t.hardStop = s.hardStop)) ∧
  (∀ s : State, (∀ (k : Stand) (t0 : Micros), s.actuators[k].openTimer = some t0 → s.age t0 < s.line.openTimeout * 1000) →
    exec .openTimerExpiry s = .next s.stepStart)

/-! ### Protection -/

/-- R103, R136, R142, R149: an unload timer or a break timer whose time is up. In THREAD (and for an unload timer in any mode
but RUN) the unload timer becomes EXPIRED and raises nothing. In RUN the condition is taken: of an enabled tripping kind it
starts the trip, with the kind and stand or interstand as first-out; of another it stays active with its timer EXPIRED. A
timer that is not due does nothing. -/
def Obligations.ConditionTimersExpire : Prop :=
  (∀ (k : Stand) (s : State) (t0 : Micros) (p : StandParams), s.stands[k].unload = .running t0 → s.stands[k].params = some p →
    (s.age t0 < p.unload * 1000 → exec (.unloadTimerExpiry k) s = .next s.stepStart) ∧
    (p.unload * 1000 ≤ s.age t0 → s.mode ≠ .run →
      exec (.unloadTimerExpiry k) s = .next (s.stepStart.setStand k { s.stands[k] with unload := .expired })) ∧
    (p.unload * 1000 ≤ s.age t0 → s.mode = .run → (k.val + 1) ∉ s.faults[Kind.standUnloaded].active →
      (s.trips Kind.standUnloaded = true → s.trip = .normal → ∃ t, exec (.unloadTimerExpiry k) s = .next t ∧
        t.mode = .tripped ∧ t.trip = .opening ∧ t.firstOut = some ⟨Kind.standUnloaded, k.val + 1, s.logTime, .run, 0⟩ ∧
        t.faults[Kind.standUnloaded].latched = true ∧ t.faults[Kind.standUnloaded].active = []) ∧
      (s.trips Kind.standUnloaded = false → ∃ t, exec (.unloadTimerExpiry k) s = .next t ∧ t.mode = .run ∧ t.trip = s.trip ∧
        t.stands[k] = { s.stands[k] with unload := .expired } ∧ (k.val + 1) ∈ t.faults[Kind.standUnloaded].active ∧
        t.faults[Kind.standUnloaded].latched = true ∧
        t.faults[Kind.standUnloaded].count = min (s.faults[Kind.standUnloaded].count + 1) 255))) ∧
  (∀ (j : Interstand) (s : State) (t0 : Micros), s.breakTimers[j] = .running t0 →
    (s.age t0 < s.line.breakConfirm * 1000 → exec (.breakTimerExpiry j) s = .next s.stepStart) ∧
    (s.line.breakConfirm * 1000 ≤ s.age t0 → s.mode = .run → (j.val + 1) ∉ s.faults[Kind.stripBreak].active →
      (s.trips Kind.stripBreak = true → s.trip = .normal → ∃ t, exec (.breakTimerExpiry j) s = .next t ∧
        t.mode = .tripped ∧ t.trip = .opening ∧ t.firstOut = some ⟨Kind.stripBreak, j.val + 1, s.logTime, .run, 0⟩ ∧
        t.faults[Kind.stripBreak].latched = true ∧ t.faults[Kind.stripBreak].active = [] ∧
        t.breakTimers = Vector.replicate 5 .stopped) ∧
      (s.trips Kind.stripBreak = false → ∃ t, exec (.breakTimerExpiry j) s = .next t ∧ t.mode = .run ∧ t.trip = s.trip ∧
        t.breakTimers = s.breakTimers.set j .expired ∧ (j.val + 1) ∈ t.faults[Kind.stripBreak].active ∧
        t.faults[Kind.stripBreak].latched = true ∧
        t.faults[Kind.stripBreak].count = min (s.faults[Kind.stripBreak].count + 1) 255)))

/-- R12, R67, R99, R127, R136, R139, R149, R150, R153: EXTERNAL_STOP asserted. From READY, THREAD or RUN with the trip state
NORMAL it starts the trip, whole in one step: the first-out record, OPENING, TRIPPED with the outputs asserted, every stand
OPEN, an OPEN sent to all six actuators, every segment trip-marked, and (where the notice queue has room for them) the
notices FAULT, TRIP, MODE_CHANGED in that order. In CONFIG it is latched and nothing trips; in a trip it counts as a
subsequent fault. Released, the condition ends and the latch stays. -/
def Obligations.ExternalStopTrips : Prop :=
  (∀ (s : State) (old : FaultEntry), s.mode = .ready ∨ s.mode = .thread ∨ s.mode = .run → s.trip = .normal → s.trips 0 = true →
    old = s.faults[(0 : Kind)] → old.active = [] →
    ∃ t, exec .externalStopAsserted s = .next t ∧ t.externalStop = true ∧
      t.mode = .tripped ∧ t.millStop = true ∧ t.standTrip = Vector.replicate 6 true ∧ t.hardStop = s.hardStop ∧
      t.trip = .opening ∧ t.opened = Vector.replicate 6 false ∧ t.firstOut = some ⟨0, 0, s.logTime, s.mode, 0⟩ ∧
      t.faults[(0 : Kind)] = ⟨true, [0], min (old.count + 1) 255, if old.latched then old.first else some (0, s.logTime), some 0⟩ ∧
      (∀ k : Stand, t.stands[k] = { s.stands[k] with
        mode := .opened, holds := ⟨false, false, false, false⟩, unload := .stopped }) ∧
      (∀ k : Stand, t.actuators[k].demand = true ∧ t.actuators[k].posTimer = none ∧ t.actuators[k].lastSent = some s.time ∧
        t.actuators[k].mode = (if s.actuators[k].mode = .idle ∨ s.actuators[k].mode = .following ∨ s.actuators[k].mode = .moving
          then .opening else s.actuators[k].mode) ∧
        (s.actuators[k].mode ≠ .opening → s.actuators[k].mode ≠ .opened → t.actuators[k].openTimer = some s.time)) ∧
      t.sent.map (fun x => (x.stand, x.command)) = (List.finRange 6).map (fun k => (k, .openGap)) ∧
      t.ring = s.ring.map (fun g => { g with tripMark := true }) ∧ t.runState = none ∧
      t.breakTimers = Vector.replicate 5 .stopped ∧
      (s.received.port.notices.length + 3 ≤ 32 → t.port.notices = s.received.port.notices ++
        [.fault 0 0 (min (old.count + 1) 255) true s.mode .normal .firstOut, .trip .opening 0 0 s.mode,
          .modeChanged (some s.mode) .tripped .trip]) ∧
      t.logs[LogNo.fault].next = s.logs[LogNo.fault].next + 2 ∧
      t.queue = s.queue ∧ t.table = s.table ∧ t.transitions = s.transitions ∧ t.reports = s.reports ∧ t.channels = s.channels ∧
      t.links = s.links ∧ t.line = s.line ∧ t.policy = s.policy ∧ t.points = s.points ∧ t.committed = s.committed) ∧
  (∀ s : State, s.mode = .config → s.faults[(0 : Kind)].active = [] → ∃ t, exec .externalStopAsserted s = .next t ∧
    t.externalStop = true ∧ t.mode = .config ∧ t.trip = s.trip ∧ t.faults[(0 : Kind)].latched = true ∧
    t.faults[(0 : Kind)].active = [0] ∧ t.stands = s.stands ∧ t.actuators = s.actuators ∧ t.ring = s.ring) ∧
  (∀ (s : State) (f : FirstOut), s.mode = .tripped → s.trip ≠ .normal → s.trips 0 = true → s.faults[(0 : Kind)].active = [] →
    s.firstOut = some f → ∃ t, exec .externalStopAsserted s = .next t ∧ t.mode = .tripped ∧ t.trip = s.trip ∧
      t.firstOut = some { f with subsequent := min (f.subsequent + 1) 255 } ∧ t.faults[(0 : Kind)].latched = true ∧
      t.stands = s.stands ∧ t.actuators = s.actuators ∧ t.hardStop = s.hardStop ∧ t.ring = s.ring) ∧
  (∀ s : State, exec .externalStopReleased s = .next
    { s.stepStart with externalStop := false, faults := s.faults.set 0 { s.faults[(0 : Kind)] with
      active := s.faults[(0 : Kind)].active.filter (· ≠ 0) } })

/-- R50, R61, R65, R82, R121 to R123, R126, R136, R149: the takes that start a trip where their kind is enabled and tripping
(14 and 15 are so by default; 13, 17, 19 and 20 where FAULT_POLICY has made them so), in READY, THREAD or RUN with the trip
state NORMAL: silence of an actuator that is not UNLINKED; a FAULT, an ACK with the ready flag clear, and an OPEN_CONFIRMED
that nothing commanded; the positioning timer's expiry; an early start; a point that the order clamp holds; a rejected weld;
a deferred change. Each trip is whole in the one step. -/
def Obligations.TrippingKindsTrip : Prop :=
  ∀ s : State, s.trip = .normal →
    (∀ k : Stand, (s.mode = .ready ∨ s.mode = .thread ∨ s.mode = .run) → s.actuators[k].rx = [] →
      (∀ t0, s.trips Kind.actuatorSilent = true → (k.val + 1) ∉ s.faults[Kind.actuatorSilent].active →
        s.actuators[k].mode ≠ .unlinked → s.actuators[k].replyTimer = some t0 → 10000 ≤ s.age t0 →
        ∃ t, exec (.replyTimerExpiry k) s = .next t ∧ TripsBy s t Kind.actuatorSilent (k.val + 1) ∧
          t.actuators[k].mode = .unlinked ∧ t.actuators[k].silences = min (s.actuators[k].silences + 1) 65535) ∧
      (s.trips Kind.actuatorFault = true → (k.val + 1) ∉ s.faults[Kind.actuatorFault].active →
        (∀ code : Byte, code ≠ 0 → code ≠ 0xFE → code ≠ 0xFF → s.actuators[k].mode ≠ .faulted →
          ∃ t, exec (.faultStatus k code) s = .next t ∧ TripsBy s t Kind.actuatorFault (k.val + 1) ∧
            t.actuators[k].mode = .faulted ∧ t.actuators[k].faultCode = some code) ∧
        (s.actuators[k].mode = .idle ∨ s.actuators[k].mode = .following ∨ s.actuators[k].mode = .moving ∨
            (s.actuators[k].mode = .unlinked ∧ s.actuators[k].demand = false) →
          (∃ t, exec (.ack k false) s = .next t ∧ TripsBy s t Kind.actuatorFault (k.val + 1) ∧
            t.actuators[k].mode = .faulted ∧ t.actuators[k].faultCode = some 0xFE) ∧
          (∃ t, exec (.openConfirmed k) s = .next t ∧ TripsBy s t Kind.actuatorFault (k.val + 1) ∧
            t.actuators[k].mode = .faulted ∧ t.actuators[k].faultCode = some 0xFF))) ∧
      (∀ (t0 : Micros) (p : StandParams), s.trips Kind.positioningTimeout = true →
        (k.val + 1) ∉ s.faults[Kind.positioningTimeout].active → s.actuators[k].mode = .moving →
        s.actuators[k].posTimer = some t0 → s.stands[k].params = some p → p.posTimeout * 1000 ≤ s.age t0 →
        ∃ t, exec (.positioningTimerExpiry k) s = .next t ∧ TripsBy s t Kind.positioningTimeout (k.val + 1) ∧
          t.actuators[k].mode = .opening)) ∧
    ((s.mode = .thread ∨ s.mode = .run) →
      (∀ (l : LinkNo) (f : SensorFields) (o : ReaderOrder) (e : EntryNo) (i : Item) (v : Int) (p u : PointNo),
        (i = .stand1Thick ∧ p = PointNo.x1) ∨ (i = .exitThick ∧ p = PointNo.x6) → u.val + 1 = p.val →
        Brings s l f e i v → f.strip = true → s.points[p].started = false → s.points[p].early = false →
        s.points[u].started = false → s.trips Kind.trackOverrun = true → p.val ∉ s.faults[Kind.trackOverrun].active →
        ∃ t, exec (.sensorFrame l (sensorFrameBytes f) o) s = .next t ∧ TripsBy s t Kind.trackOverrun p.val ∧
          t.points = s.points.set p { s.points[p] with early := true }) ∧
      (∀ (l : LinkNo) (f : SensorFields) (o : ReaderOrder) (e : EntryNo) (k : Stand) (v : Int) (p u : PointNo),
        Brings s l f e (.rollSpeed k) v → drivenBy s k p = true → s.points[p].started = true → s.points[p].clamped = false →
        u.val + 1 = p.val → s.points[u].started = true → s.points[u].cursor = s.points[p].cursor →
        s.points[p].travelled < s.line.segLen * 1024 → s.line.segLen * 1024 ≤ s.points[p].travelled + s.advanceOf k p →
        (∀ q : PointNo, q ≠ p → drivenBy s k q = true → s.points[q].started = true →
          s.points[q].travelled + s.advanceOf k q < s.line.segLen * 1024) →
        s.trips Kind.trackOverrun = true → p.val ∉ s.faults[Kind.trackOverrun].active →
        ∃ t, exec (.sensorFrame l (sensorFrameBytes f) o) s = .next t ∧ TripsBy s t Kind.trackOverrun p.val ∧
          t.points[p].travelled = s.line.segLen * 1024 - 1 ∧ t.points[p].clamped = true ∧
          t.points[p].cursor = s.points[p].cursor) ∧
      (∀ (pre : List Segment) (g : Segment), s.ring = pre ++ [g] → g.weld = true ∨ 4 ≤ s.reports.length →
        s.trips Kind.weldRejected = true → 0 ∉ s.faults[Kind.weldRejected].active →
        ∃ t, exec .weldDetect s = .next t ∧ TripsBy s t Kind.weldRejected 0 ∧ t.coilCounter = s.coilCounter) ∧
      (∀ (pre : List Segment) (g : Segment), s.ring = pre ++ [g] → g.weld = false → s.reports.length < 4 → s.queue ≠ [] →
        (3 ≤ s.table.length ∨ 2 ≤ s.transitions.length) → s.trips Kind.changeDeferred = true →
        0 ∉ s.faults[Kind.changeDeferred].active →
        ∃ t, exec .weldDetect s = .next t ∧ TripsBy s t Kind.changeDeferred 0 ∧ t.coilCounter = s.coilCounter + 1 ∧
          t.queue = s.queue ∧ t.table = s.table))
end

