-- ==== Sys2Proof/Laws/State.lean ====
section
/-! SUPPORT. One lemma for each field and each update of the state, true by rfl, so that no later proof unfolds a record
update; and reading a row after it has been written. -/

namespace Sys2Proof.Machine

/-! ### State.setLink -/

@[simp] theorem State.setLink_mode (s : State) (l : LinkNo) (x : Link) : (s.setLink l x).mode = s.mode := rfl
@[simp] theorem State.setLink_committed (s : State) (l : LinkNo) (x : Link) : (s.setLink l x).committed = s.committed := rfl
@[simp] theorem State.setLink_time (s : State) (l : LinkNo) (x : Link) : (s.setLink l x).time = s.time := rfl
@[simp] theorem State.setLink_logTime (s : State) (l : LinkNo) (x : Link) : (s.setLink l x).logTime = s.logTime := rfl
@[simp] theorem State.setLink_msPhase (s : State) (l : LinkNo) (x : Link) : (s.setLink l x).msPhase = s.msPhase := rfl
@[simp] theorem State.setLink_externalStop (s : State) (l : LinkNo) (x : Link) : (s.setLink l x).externalStop = s.externalStop := rfl
@[simp] theorem State.setLink_millStop (s : State) (l : LinkNo) (x : Link) : (s.setLink l x).millStop = s.millStop := rfl
@[simp] theorem State.setLink_standTrip (s : State) (l : LinkNo) (x : Link) : (s.setLink l x).standTrip = s.standTrip := rfl
@[simp] theorem State.setLink_hardStop (s : State) (l : LinkNo) (x : Link) : (s.setLink l x).hardStop = s.hardStop := rfl
@[simp] theorem State.setLink_links (s : State) (l : LinkNo) (x : Link) : (s.setLink l x).links = s.links.set l x := rfl
@[simp] theorem State.setLink_channels (s : State) (l : LinkNo) (x : Link) : (s.setLink l x).channels = s.channels := rfl
@[simp] theorem State.setLink_line (s : State) (l : LinkNo) (x : Link) : (s.setLink l x).line = s.line := rfl
@[simp] theorem State.setLink_ring (s : State) (l : LinkNo) (x : Link) : (s.setLink l x).ring = s.ring := rfl
@[simp] theorem State.setLink_points (s : State) (l : LinkNo) (x : Link) : (s.setLink l x).points = s.points := rfl
@[simp] theorem State.setLink_coilCounter (s : State) (l : LinkNo) (x : Link) : (s.setLink l x).coilCounter = s.coilCounter := rfl
@[simp] theorem State.setLink_speeds (s : State) (l : LinkNo) (x : Link) : (s.setLink l x).speeds = s.speeds := rfl
@[simp] theorem State.setLink_queue (s : State) (l : LinkNo) (x : Link) : (s.setLink l x).queue = s.queue := rfl
@[simp] theorem State.setLink_table (s : State) (l : LinkNo) (x : Link) : (s.setLink l x).table = s.table := rfl
@[simp] theorem State.setLink_transitions (s : State) (l : LinkNo) (x : Link) : (s.setLink l x).transitions = s.transitions := rfl
@[simp] theorem State.setLink_stands (s : State) (l : LinkNo) (x : Link) : (s.setLink l x).stands = s.stands := rfl
@[simp] theorem State.setLink_heldFrom (s : State) (l : LinkNo) (x : Link) : (s.setLink l x).heldFrom = s.heldFrom := rfl
@[simp] theorem State.setLink_actuators (s : State) (l : LinkNo) (x : Link) : (s.setLink l x).actuators = s.actuators := rfl
@[simp] theorem State.setLink_policy (s : State) (l : LinkNo) (x : Link) : (s.setLink l x).policy = s.policy := rfl
@[simp] theorem State.setLink_faults (s : State) (l : LinkNo) (x : Link) : (s.setLink l x).faults = s.faults := rfl
@[simp] theorem State.setLink_breakTimers (s : State) (l : LinkNo) (x : Link) : (s.setLink l x).breakTimers = s.breakTimers := rfl
@[simp] theorem State.setLink_firstOut (s : State) (l : LinkNo) (x : Link) : (s.setLink l x).firstOut = s.firstOut := rfl
@[simp] theorem State.setLink_trip (s : State) (l : LinkNo) (x : Link) : (s.setLink l x).trip = s.trip := rfl
@[simp] theorem State.setLink_opened (s : State) (l : LinkNo) (x : Link) : (s.setLink l x).opened = s.opened := rfl
@[simp] theorem State.setLink_reports (s : State) (l : LinkNo) (x : Link) : (s.setLink l x).reports = s.reports := rfl
@[simp] theorem State.setLink_runState (s : State) (l : LinkNo) (x : Link) : (s.setLink l x).runState = s.runState := rfl
@[simp] theorem State.setLink_logs (s : State) (l : LinkNo) (x : Link) : (s.setLink l x).logs = s.logs := rfl
@[simp] theorem State.setLink_port (s : State) (l : LinkNo) (x : Link) : (s.setLink l x).port = s.port := rfl
@[simp] theorem State.setLink_sent (s : State) (l : LinkNo) (x : Link) : (s.setLink l x).sent = s.sent := rfl
@[simp] theorem State.setLink_freeIndex (s : State) (l : LinkNo) (x : Link) : (s.setLink l x).freeIndex = s.freeIndex := rfl
@[simp] theorem State.setLink_pending (s : State) (l : LinkNo) (x : Link) : (s.setLink l x).pending = s.pending := rfl

/-! ### State.setChannel -/

@[simp] theorem State.setChannel_mode (s : State) (e : EntryNo) (x : Channel) : (s.setChannel e x).mode = s.mode := rfl
@[simp] theorem State.setChannel_committed (s : State) (e : EntryNo) (x : Channel) : (s.setChannel e x).committed = s.committed := rfl
@[simp] theorem State.setChannel_time (s : State) (e : EntryNo) (x : Channel) : (s.setChannel e x).time = s.time := rfl
@[simp] theorem State.setChannel_logTime (s : State) (e : EntryNo) (x : Channel) : (s.setChannel e x).logTime = s.logTime := rfl
@[simp] theorem State.setChannel_msPhase (s : State) (e : EntryNo) (x : Channel) : (s.setChannel e x).msPhase = s.msPhase := rfl
@[simp] theorem State.setChannel_externalStop (s : State) (e : EntryNo) (x : Channel) : (s.setChannel e x).externalStop = s.externalStop := rfl
@[simp] theorem State.setChannel_millStop (s : State) (e : EntryNo) (x : Channel) : (s.setChannel e x).millStop = s.millStop := rfl
@[simp] theorem State.setChannel_standTrip (s : State) (e : EntryNo) (x : Channel) : (s.setChannel e x).standTrip = s.standTrip := rfl
@[simp] theorem State.setChannel_hardStop (s : State) (e : EntryNo) (x : Channel) : (s.setChannel e x).hardStop = s.hardStop := rfl
@[simp] theorem State.setChannel_links (s : State) (e : EntryNo) (x : Channel) : (s.setChannel e x).links = s.links := rfl
@[simp] theorem State.setChannel_channels (s : State) (e : EntryNo) (x : Channel) : (s.setChannel e x).channels = s.channels.set e x := rfl
@[simp] theorem State.setChannel_line (s : State) (e : EntryNo) (x : Channel) : (s.setChannel e x).line = s.line := rfl
@[simp] theorem State.setChannel_ring (s : State) (e : EntryNo) (x : Channel) : (s.setChannel e x).ring = s.ring := rfl
@[simp] theorem State.setChannel_points (s : State) (e : EntryNo) (x : Channel) : (s.setChannel e x).points = s.points := rfl
@[simp] theorem State.setChannel_coilCounter (s : State) (e : EntryNo) (x : Channel) : (s.setChannel e x).coilCounter = s.coilCounter := rfl
@[simp] theorem State.setChannel_speeds (s : State) (e : EntryNo) (x : Channel) : (s.setChannel e x).speeds = s.speeds := rfl
@[simp] theorem State.setChannel_queue (s : State) (e : EntryNo) (x : Channel) : (s.setChannel e x).queue = s.queue := rfl
@[simp] theorem State.setChannel_table (s : State) (e : EntryNo) (x : Channel) : (s.setChannel e x).table = s.table := rfl
@[simp] theorem State.setChannel_transitions (s : State) (e : EntryNo) (x : Channel) : (s.setChannel e x).transitions = s.transitions := rfl
@[simp] theorem State.setChannel_stands (s : State) (e : EntryNo) (x : Channel) : (s.setChannel e x).stands = s.stands := rfl
@[simp] theorem State.setChannel_heldFrom (s : State) (e : EntryNo) (x : Channel) : (s.setChannel e x).heldFrom = s.heldFrom := rfl
@[simp] theorem State.setChannel_actuators (s : State) (e : EntryNo) (x : Channel) : (s.setChannel e x).actuators = s.actuators := rfl
@[simp] theorem State.setChannel_policy (s : State) (e : EntryNo) (x : Channel) : (s.setChannel e x).policy = s.policy := rfl
@[simp] theorem State.setChannel_faults (s : State) (e : EntryNo) (x : Channel) : (s.setChannel e x).faults = s.faults := rfl
@[simp] theorem State.setChannel_breakTimers (s : State) (e : EntryNo) (x : Channel) : (s.setChannel e x).breakTimers = s.breakTimers := rfl
@[simp] theorem State.setChannel_firstOut (s : State) (e : EntryNo) (x : Channel) : (s.setChannel e x).firstOut = s.firstOut := rfl
@[simp] theorem State.setChannel_trip (s : State) (e : EntryNo) (x : Channel) : (s.setChannel e x).trip = s.trip := rfl
@[simp] theorem State.setChannel_opened (s : State) (e : EntryNo) (x : Channel) : (s.setChannel e x).opened = s.opened := rfl
@[simp] theorem State.setChannel_reports (s : State) (e : EntryNo) (x : Channel) : (s.setChannel e x).reports = s.reports := rfl
@[simp] theorem State.setChannel_runState (s : State) (e : EntryNo) (x : Channel) : (s.setChannel e x).runState = s.runState := rfl
@[simp] theorem State.setChannel_logs (s : State) (e : EntryNo) (x : Channel) : (s.setChannel e x).logs = s.logs := rfl
@[simp] theorem State.setChannel_port (s : State) (e : EntryNo) (x : Channel) : (s.setChannel e x).port = s.port := rfl
@[simp] theorem State.setChannel_sent (s : State) (e : EntryNo) (x : Channel) : (s.setChannel e x).sent = s.sent := rfl
@[simp] theorem State.setChannel_freeIndex (s : State) (e : EntryNo) (x : Channel) : (s.setChannel e x).freeIndex = s.freeIndex := rfl
@[simp] theorem State.setChannel_pending (s : State) (e : EntryNo) (x : Channel) : (s.setChannel e x).pending = s.pending := rfl

/-! ### State.setPoint -/

@[simp] theorem State.setPoint_mode (s : State) (p : PointNo) (x : Point) : (s.setPoint p x).mode = s.mode := rfl
@[simp] theorem State.setPoint_committed (s : State) (p : PointNo) (x : Point) : (s.setPoint p x).committed = s.committed := rfl
@[simp] theorem State.setPoint_time (s : State) (p : PointNo) (x : Point) : (s.setPoint p x).time = s.time := rfl
@[simp] theorem State.setPoint_logTime (s : State) (p : PointNo) (x : Point) : (s.setPoint p x).logTime = s.logTime := rfl
@[simp] theorem State.setPoint_msPhase (s : State) (p : PointNo) (x : Point) : (s.setPoint p x).msPhase = s.msPhase := rfl
@[simp] theorem State.setPoint_externalStop (s : State) (p : PointNo) (x : Point) : (s.setPoint p x).externalStop = s.externalStop := rfl
@[simp] theorem State.setPoint_millStop (s : State) (p : PointNo) (x : Point) : (s.setPoint p x).millStop = s.millStop := rfl
@[simp] theorem State.setPoint_standTrip (s : State) (p : PointNo) (x : Point) : (s.setPoint p x).standTrip = s.standTrip := rfl
@[simp] theorem State.setPoint_hardStop (s : State) (p : PointNo) (x : Point) : (s.setPoint p x).hardStop = s.hardStop := rfl
@[simp] theorem State.setPoint_links (s : State) (p : PointNo) (x : Point) : (s.setPoint p x).links = s.links := rfl
@[simp] theorem State.setPoint_channels (s : State) (p : PointNo) (x : Point) : (s.setPoint p x).channels = s.channels := rfl
@[simp] theorem State.setPoint_line (s : State) (p : PointNo) (x : Point) : (s.setPoint p x).line = s.line := rfl
@[simp] theorem State.setPoint_ring (s : State) (p : PointNo) (x : Point) : (s.setPoint p x).ring = s.ring := rfl
@[simp] theorem State.setPoint_points (s : State) (p : PointNo) (x : Point) : (s.setPoint p x).points = s.points.set p x := rfl
@[simp] theorem State.setPoint_coilCounter (s : State) (p : PointNo) (x : Point) : (s.setPoint p x).coilCounter = s.coilCounter := rfl
@[simp] theorem State.setPoint_speeds (s : State) (p : PointNo) (x : Point) : (s.setPoint p x).speeds = s.speeds := rfl
@[simp] theorem State.setPoint_queue (s : State) (p : PointNo) (x : Point) : (s.setPoint p x).queue = s.queue := rfl
@[simp] theorem State.setPoint_table (s : State) (p : PointNo) (x : Point) : (s.setPoint p x).table = s.table := rfl
@[simp] theorem State.setPoint_transitions (s : State) (p : PointNo) (x : Point) : (s.setPoint p x).transitions = s.transitions := rfl
@[simp] theorem State.setPoint_stands (s : State) (p : PointNo) (x : Point) : (s.setPoint p x).stands = s.stands := rfl
@[simp] theorem State.setPoint_heldFrom (s : State) (p : PointNo) (x : Point) : (s.setPoint p x).heldFrom = s.heldFrom := rfl
@[simp] theorem State.setPoint_actuators (s : State) (p : PointNo) (x : Point) : (s.setPoint p x).actuators = s.actuators := rfl
@[simp] theorem State.setPoint_policy (s : State) (p : PointNo) (x : Point) : (s.setPoint p x).policy = s.policy := rfl
@[simp] theorem State.setPoint_faults (s : State) (p : PointNo) (x : Point) : (s.setPoint p x).faults = s.faults := rfl
@[simp] theorem State.setPoint_breakTimers (s : State) (p : PointNo) (x : Point) : (s.setPoint p x).breakTimers = s.breakTimers := rfl
@[simp] theorem State.setPoint_firstOut (s : State) (p : PointNo) (x : Point) : (s.setPoint p x).firstOut = s.firstOut := rfl
@[simp] theorem State.setPoint_trip (s : State) (p : PointNo) (x : Point) : (s.setPoint p x).trip = s.trip := rfl
@[simp] theorem State.setPoint_opened (s : State) (p : PointNo) (x : Point) : (s.setPoint p x).opened = s.opened := rfl
@[simp] theorem State.setPoint_reports (s : State) (p : PointNo) (x : Point) : (s.setPoint p x).reports = s.reports := rfl
@[simp] theorem State.setPoint_runState (s : State) (p : PointNo) (x : Point) : (s.setPoint p x).runState = s.runState := rfl
@[simp] theorem State.setPoint_logs (s : State) (p : PointNo) (x : Point) : (s.setPoint p x).logs = s.logs := rfl
@[simp] theorem State.setPoint_port (s : State) (p : PointNo) (x : Point) : (s.setPoint p x).port = s.port := rfl
@[simp] theorem State.setPoint_sent (s : State) (p : PointNo) (x : Point) : (s.setPoint p x).sent = s.sent := rfl
@[simp] theorem State.setPoint_freeIndex (s : State) (p : PointNo) (x : Point) : (s.setPoint p x).freeIndex = s.freeIndex := rfl
@[simp] theorem State.setPoint_pending (s : State) (p : PointNo) (x : Point) : (s.setPoint p x).pending = s.pending := rfl

/-! ### State.setSpeed -/

@[simp] theorem State.setSpeed_mode (s : State) (k : Stand) (x : Option Int) : (s.setSpeed k x).mode = s.mode := rfl
@[simp] theorem State.setSpeed_committed (s : State) (k : Stand) (x : Option Int) : (s.setSpeed k x).committed = s.committed := rfl
@[simp] theorem State.setSpeed_time (s : State) (k : Stand) (x : Option Int) : (s.setSpeed k x).time = s.time := rfl
@[simp] theorem State.setSpeed_logTime (s : State) (k : Stand) (x : Option Int) : (s.setSpeed k x).logTime = s.logTime := rfl
@[simp] theorem State.setSpeed_msPhase (s : State) (k : Stand) (x : Option Int) : (s.setSpeed k x).msPhase = s.msPhase := rfl
@[simp] theorem State.setSpeed_externalStop (s : State) (k : Stand) (x : Option Int) : (s.setSpeed k x).externalStop = s.externalStop := rfl
@[simp] theorem State.setSpeed_millStop (s : State) (k : Stand) (x : Option Int) : (s.setSpeed k x).millStop = s.millStop := rfl
@[simp] theorem State.setSpeed_standTrip (s : State) (k : Stand) (x : Option Int) : (s.setSpeed k x).standTrip = s.standTrip := rfl
@[simp] theorem State.setSpeed_hardStop (s : State) (k : Stand) (x : Option Int) : (s.setSpeed k x).hardStop = s.hardStop := rfl
@[simp] theorem State.setSpeed_links (s : State) (k : Stand) (x : Option Int) : (s.setSpeed k x).links = s.links := rfl
@[simp] theorem State.setSpeed_channels (s : State) (k : Stand) (x : Option Int) : (s.setSpeed k x).channels = s.channels := rfl
@[simp] theorem State.setSpeed_line (s : State) (k : Stand) (x : Option Int) : (s.setSpeed k x).line = s.line := rfl
@[simp] theorem State.setSpeed_ring (s : State) (k : Stand) (x : Option Int) : (s.setSpeed k x).ring = s.ring := rfl
@[simp] theorem State.setSpeed_points (s : State) (k : Stand) (x : Option Int) : (s.setSpeed k x).points = s.points := rfl
@[simp] theorem State.setSpeed_coilCounter (s : State) (k : Stand) (x : Option Int) : (s.setSpeed k x).coilCounter = s.coilCounter := rfl
@[simp] theorem State.setSpeed_speeds (s : State) (k : Stand) (x : Option Int) : (s.setSpeed k x).speeds = s.speeds.set k x := rfl
@[simp] theorem State.setSpeed_queue (s : State) (k : Stand) (x : Option Int) : (s.setSpeed k x).queue = s.queue := rfl
@[simp] theorem State.setSpeed_table (s : State) (k : Stand) (x : Option Int) : (s.setSpeed k x).table = s.table := rfl
@[simp] theorem State.setSpeed_transitions (s : State) (k : Stand) (x : Option Int) : (s.setSpeed k x).transitions = s.transitions := rfl
@[simp] theorem State.setSpeed_stands (s : State) (k : Stand) (x : Option Int) : (s.setSpeed k x).stands = s.stands := rfl
@[simp] theorem State.setSpeed_heldFrom (s : State) (k : Stand) (x : Option Int) : (s.setSpeed k x).heldFrom = s.heldFrom := rfl
@[simp] theorem State.setSpeed_actuators (s : State) (k : Stand) (x : Option Int) : (s.setSpeed k x).actuators = s.actuators := rfl
@[simp] theorem State.setSpeed_policy (s : State) (k : Stand) (x : Option Int) : (s.setSpeed k x).policy = s.policy := rfl
@[simp] theorem State.setSpeed_faults (s : State) (k : Stand) (x : Option Int) : (s.setSpeed k x).faults = s.faults := rfl
@[simp] theorem State.setSpeed_breakTimers (s : State) (k : Stand) (x : Option Int) : (s.setSpeed k x).breakTimers = s.breakTimers := rfl
@[simp] theorem State.setSpeed_firstOut (s : State) (k : Stand) (x : Option Int) : (s.setSpeed k x).firstOut = s.firstOut := rfl
@[simp] theorem State.setSpeed_trip (s : State) (k : Stand) (x : Option Int) : (s.setSpeed k x).trip = s.trip := rfl
@[simp] theorem State.setSpeed_opened (s : State) (k : Stand) (x : Option Int) : (s.setSpeed k x).opened = s.opened := rfl
@[simp] theorem State.setSpeed_reports (s : State) (k : Stand) (x : Option Int) : (s.setSpeed k x).reports = s.reports := rfl
@[simp] theorem State.setSpeed_runState (s : State) (k : Stand) (x : Option Int) : (s.setSpeed k x).runState = s.runState := rfl
@[simp] theorem State.setSpeed_logs (s : State) (k : Stand) (x : Option Int) : (s.setSpeed k x).logs = s.logs := rfl
@[simp] theorem State.setSpeed_port (s : State) (k : Stand) (x : Option Int) : (s.setSpeed k x).port = s.port := rfl
@[simp] theorem State.setSpeed_sent (s : State) (k : Stand) (x : Option Int) : (s.setSpeed k x).sent = s.sent := rfl
@[simp] theorem State.setSpeed_freeIndex (s : State) (k : Stand) (x : Option Int) : (s.setSpeed k x).freeIndex = s.freeIndex := rfl
@[simp] theorem State.setSpeed_pending (s : State) (k : Stand) (x : Option Int) : (s.setSpeed k x).pending = s.pending := rfl

/-! ### State.setStand -/

@[simp] theorem State.setStand_mode (s : State) (k : Stand) (x : StandCtl) : (s.setStand k x).mode = s.mode := rfl
@[simp] theorem State.setStand_committed (s : State) (k : Stand) (x : StandCtl) : (s.setStand k x).committed = s.committed := rfl
@[simp] theorem State.setStand_time (s : State) (k : Stand) (x : StandCtl) : (s.setStand k x).time = s.time := rfl
@[simp] theorem State.setStand_logTime (s : State) (k : Stand) (x : StandCtl) : (s.setStand k x).logTime = s.logTime := rfl
@[simp] theorem State.setStand_msPhase (s : State) (k : Stand) (x : StandCtl) : (s.setStand k x).msPhase = s.msPhase := rfl
@[simp] theorem State.setStand_externalStop (s : State) (k : Stand) (x : StandCtl) : (s.setStand k x).externalStop = s.externalStop := rfl
@[simp] theorem State.setStand_millStop (s : State) (k : Stand) (x : StandCtl) : (s.setStand k x).millStop = s.millStop := rfl
@[simp] theorem State.setStand_standTrip (s : State) (k : Stand) (x : StandCtl) : (s.setStand k x).standTrip = s.standTrip := rfl
@[simp] theorem State.setStand_hardStop (s : State) (k : Stand) (x : StandCtl) : (s.setStand k x).hardStop = s.hardStop := rfl
@[simp] theorem State.setStand_links (s : State) (k : Stand) (x : StandCtl) : (s.setStand k x).links = s.links := rfl
@[simp] theorem State.setStand_channels (s : State) (k : Stand) (x : StandCtl) : (s.setStand k x).channels = s.channels := rfl
@[simp] theorem State.setStand_line (s : State) (k : Stand) (x : StandCtl) : (s.setStand k x).line = s.line := rfl
@[simp] theorem State.setStand_ring (s : State) (k : Stand) (x : StandCtl) : (s.setStand k x).ring = s.ring := rfl
@[simp] theorem State.setStand_points (s : State) (k : Stand) (x : StandCtl) : (s.setStand k x).points = s.points := rfl
@[simp] theorem State.setStand_coilCounter (s : State) (k : Stand) (x : StandCtl) : (s.setStand k x).coilCounter = s.coilCounter := rfl
@[simp] theorem State.setStand_speeds (s : State) (k : Stand) (x : StandCtl) : (s.setStand k x).speeds = s.speeds := rfl
@[simp] theorem State.setStand_queue (s : State) (k : Stand) (x : StandCtl) : (s.setStand k x).queue = s.queue := rfl
@[simp] theorem State.setStand_table (s : State) (k : Stand) (x : StandCtl) : (s.setStand k x).table = s.table := rfl
@[simp] theorem State.setStand_transitions (s : State) (k : Stand) (x : StandCtl) : (s.setStand k x).transitions = s.transitions := rfl
@[simp] theorem State.setStand_stands (s : State) (k : Stand) (x : StandCtl) : (s.setStand k x).stands = s.stands.set k x := rfl
@[simp] theorem State.setStand_heldFrom (s : State) (k : Stand) (x : StandCtl) : (s.setStand k x).heldFrom = s.heldFrom := rfl
@[simp] theorem State.setStand_actuators (s : State) (k : Stand) (x : StandCtl) : (s.setStand k x).actuators = s.actuators := rfl
@[simp] theorem State.setStand_policy (s : State) (k : Stand) (x : StandCtl) : (s.setStand k x).policy = s.policy := rfl
@[simp] theorem State.setStand_faults (s : State) (k : Stand) (x : StandCtl) : (s.setStand k x).faults = s.faults := rfl
@[simp] theorem State.setStand_breakTimers (s : State) (k : Stand) (x : StandCtl) : (s.setStand k x).breakTimers = s.breakTimers := rfl
@[simp] theorem State.setStand_firstOut (s : State) (k : Stand) (x : StandCtl) : (s.setStand k x).firstOut = s.firstOut := rfl
@[simp] theorem State.setStand_trip (s : State) (k : Stand) (x : StandCtl) : (s.setStand k x).trip = s.trip := rfl
@[simp] theorem State.setStand_opened (s : State) (k : Stand) (x : StandCtl) : (s.setStand k x).opened = s.opened := rfl
@[simp] theorem State.setStand_reports (s : State) (k : Stand) (x : StandCtl) : (s.setStand k x).reports = s.reports := rfl
@[simp] theorem State.setStand_runState (s : State) (k : Stand) (x : StandCtl) : (s.setStand k x).runState = s.runState := rfl
@[simp] theorem State.setStand_logs (s : State) (k : Stand) (x : StandCtl) : (s.setStand k x).logs = s.logs := rfl
@[simp] theorem State.setStand_port (s : State) (k : Stand) (x : StandCtl) : (s.setStand k x).port = s.port := rfl
@[simp] theorem State.setStand_sent (s : State) (k : Stand) (x : StandCtl) : (s.setStand k x).sent = s.sent := rfl
@[simp] theorem State.setStand_freeIndex (s : State) (k : Stand) (x : StandCtl) : (s.setStand k x).freeIndex = s.freeIndex := rfl
@[simp] theorem State.setStand_pending (s : State) (k : Stand) (x : StandCtl) : (s.setStand k x).pending = s.pending := rfl

/-! ### State.setHeldFrom -/

@[simp] theorem State.setHeldFrom_mode (s : State) (k : Stand) (x : Option StandMode) : (s.setHeldFrom k x).mode = s.mode := rfl
@[simp] theorem State.setHeldFrom_committed (s : State) (k : Stand) (x : Option StandMode) : (s.setHeldFrom k x).committed = s.committed := rfl
@[simp] theorem State.setHeldFrom_time (s : State) (k : Stand) (x : Option StandMode) : (s.setHeldFrom k x).time = s.time := rfl
@[simp] theorem State.setHeldFrom_logTime (s : State) (k : Stand) (x : Option StandMode) : (s.setHeldFrom k x).logTime = s.logTime := rfl
@[simp] theorem State.setHeldFrom_msPhase (s : State) (k : Stand) (x : Option StandMode) : (s.setHeldFrom k x).msPhase = s.msPhase := rfl
@[simp] theorem State.setHeldFrom_externalStop (s : State) (k : Stand) (x : Option StandMode) : (s.setHeldFrom k x).externalStop = s.externalStop := rfl
@[simp] theorem State.setHeldFrom_millStop (s : State) (k : Stand) (x : Option StandMode) : (s.setHeldFrom k x).millStop = s.millStop := rfl
@[simp] theorem State.setHeldFrom_standTrip (s : State) (k : Stand) (x : Option StandMode) : (s.setHeldFrom k x).standTrip = s.standTrip := rfl
@[simp] theorem State.setHeldFrom_hardStop (s : State) (k : Stand) (x : Option StandMode) : (s.setHeldFrom k x).hardStop = s.hardStop := rfl
@[simp] theorem State.setHeldFrom_links (s : State) (k : Stand) (x : Option StandMode) : (s.setHeldFrom k x).links = s.links := rfl
@[simp] theorem State.setHeldFrom_channels (s : State) (k : Stand) (x : Option StandMode) : (s.setHeldFrom k x).channels = s.channels := rfl
@[simp] theorem State.setHeldFrom_line (s : State) (k : Stand) (x : Option StandMode) : (s.setHeldFrom k x).line = s.line := rfl
@[simp] theorem State.setHeldFrom_ring (s : State) (k : Stand) (x : Option StandMode) : (s.setHeldFrom k x).ring = s.ring := rfl
@[simp] theorem State.setHeldFrom_points (s : State) (k : Stand) (x : Option StandMode) : (s.setHeldFrom k x).points = s.points := rfl
@[simp] theorem State.setHeldFrom_coilCounter (s : State) (k : Stand) (x : Option StandMode) : (s.setHeldFrom k x).coilCounter = s.coilCounter := rfl
@[simp] theorem State.setHeldFrom_speeds (s : State) (k : Stand) (x : Option StandMode) : (s.setHeldFrom k x).speeds = s.speeds := rfl
@[simp] theorem State.setHeldFrom_queue (s : State) (k : Stand) (x : Option StandMode) : (s.setHeldFrom k x).queue = s.queue := rfl
@[simp] theorem State.setHeldFrom_table (s : State) (k : Stand) (x : Option StandMode) : (s.setHeldFrom k x).table = s.table := rfl
@[simp] theorem State.setHeldFrom_transitions (s : State) (k : Stand) (x : Option StandMode) : (s.setHeldFrom k x).transitions = s.transitions := rfl
@[simp] theorem State.setHeldFrom_stands (s : State) (k : Stand) (x : Option StandMode) : (s.setHeldFrom k x).stands = s.stands := rfl
@[simp] theorem State.setHeldFrom_heldFrom (s : State) (k : Stand) (x : Option StandMode) : (s.setHeldFrom k x).heldFrom = s.heldFrom.set k x := rfl
@[simp] theorem State.setHeldFrom_actuators (s : State) (k : Stand) (x : Option StandMode) : (s.setHeldFrom k x).actuators = s.actuators := rfl
@[simp] theorem State.setHeldFrom_policy (s : State) (k : Stand) (x : Option StandMode) : (s.setHeldFrom k x).policy = s.policy := rfl
@[simp] theorem State.setHeldFrom_faults (s : State) (k : Stand) (x : Option StandMode) : (s.setHeldFrom k x).faults = s.faults := rfl
@[simp] theorem State.setHeldFrom_breakTimers (s : State) (k : Stand) (x : Option StandMode) : (s.setHeldFrom k x).breakTimers = s.breakTimers := rfl
@[simp] theorem State.setHeldFrom_firstOut (s : State) (k : Stand) (x : Option StandMode) : (s.setHeldFrom k x).firstOut = s.firstOut := rfl
@[simp] theorem State.setHeldFrom_trip (s : State) (k : Stand) (x : Option StandMode) : (s.setHeldFrom k x).trip = s.trip := rfl
@[simp] theorem State.setHeldFrom_opened (s : State) (k : Stand) (x : Option StandMode) : (s.setHeldFrom k x).opened = s.opened := rfl
@[simp] theorem State.setHeldFrom_reports (s : State) (k : Stand) (x : Option StandMode) : (s.setHeldFrom k x).reports = s.reports := rfl
@[simp] theorem State.setHeldFrom_runState (s : State) (k : Stand) (x : Option StandMode) : (s.setHeldFrom k x).runState = s.runState := rfl
@[simp] theorem State.setHeldFrom_logs (s : State) (k : Stand) (x : Option StandMode) : (s.setHeldFrom k x).logs = s.logs := rfl
@[simp] theorem State.setHeldFrom_port (s : State) (k : Stand) (x : Option StandMode) : (s.setHeldFrom k x).port = s.port := rfl
@[simp] theorem State.setHeldFrom_sent (s : State) (k : Stand) (x : Option StandMode) : (s.setHeldFrom k x).sent = s.sent := rfl
@[simp] theorem State.setHeldFrom_freeIndex (s : State) (k : Stand) (x : Option StandMode) : (s.setHeldFrom k x).freeIndex = s.freeIndex := rfl
@[simp] theorem State.setHeldFrom_pending (s : State) (k : Stand) (x : Option StandMode) : (s.setHeldFrom k x).pending = s.pending := rfl

/-! ### State.setActuator -/

@[simp] theorem State.setActuator_mode (s : State) (k : Stand) (x : Actuator) : (s.setActuator k x).mode = s.mode := rfl
@[simp] theorem State.setActuator_committed (s : State) (k : Stand) (x : Actuator) : (s.setActuator k x).committed = s.committed := rfl
@[simp] theorem State.setActuator_time (s : State) (k : Stand) (x : Actuator) : (s.setActuator k x).time = s.time := rfl
@[simp] theorem State.setActuator_logTime (s : State) (k : Stand) (x : Actuator) : (s.setActuator k x).logTime = s.logTime := rfl
@[simp] theorem State.setActuator_msPhase (s : State) (k : Stand) (x : Actuator) : (s.setActuator k x).msPhase = s.msPhase := rfl
@[simp] theorem State.setActuator_externalStop (s : State) (k : Stand) (x : Actuator) : (s.setActuator k x).externalStop = s.externalStop := rfl
@[simp] theorem State.setActuator_millStop (s : State) (k : Stand) (x : Actuator) : (s.setActuator k x).millStop = s.millStop := rfl
@[simp] theorem State.setActuator_standTrip (s : State) (k : Stand) (x : Actuator) : (s.setActuator k x).standTrip = s.standTrip := rfl
@[simp] theorem State.setActuator_hardStop (s : State) (k : Stand) (x : Actuator) : (s.setActuator k x).hardStop = s.hardStop := rfl
@[simp] theorem State.setActuator_links (s : State) (k : Stand) (x : Actuator) : (s.setActuator k x).links = s.links := rfl
@[simp] theorem State.setActuator_channels (s : State) (k : Stand) (x : Actuator) : (s.setActuator k x).channels = s.channels := rfl
@[simp] theorem State.setActuator_line (s : State) (k : Stand) (x : Actuator) : (s.setActuator k x).line = s.line := rfl
@[simp] theorem State.setActuator_ring (s : State) (k : Stand) (x : Actuator) : (s.setActuator k x).ring = s.ring := rfl
@[simp] theorem State.setActuator_points (s : State) (k : Stand) (x : Actuator) : (s.setActuator k x).points = s.points := rfl
@[simp] theorem State.setActuator_coilCounter (s : State) (k : Stand) (x : Actuator) : (s.setActuator k x).coilCounter = s.coilCounter := rfl
@[simp] theorem State.setActuator_speeds (s : State) (k : Stand) (x : Actuator) : (s.setActuator k x).speeds = s.speeds := rfl
@[simp] theorem State.setActuator_queue (s : State) (k : Stand) (x : Actuator) : (s.setActuator k x).queue = s.queue := rfl
@[simp] theorem State.setActuator_table (s : State) (k : Stand) (x : Actuator) : (s.setActuator k x).table = s.table := rfl
@[simp] theorem State.setActuator_transitions (s : State) (k : Stand) (x : Actuator) : (s.setActuator k x).transitions = s.transitions := rfl
@[simp] theorem State.setActuator_stands (s : State) (k : Stand) (x : Actuator) : (s.setActuator k x).stands = s.stands := rfl
@[simp] theorem State.setActuator_heldFrom (s : State) (k : Stand) (x : Actuator) : (s.setActuator k x).heldFrom = s.heldFrom := rfl
@[simp] theorem State.setActuator_actuators (s : State) (k : Stand) (x : Actuator) : (s.setActuator k x).actuators = s.actuators.set k x := rfl
@[simp] theorem State.setActuator_policy (s : State) (k : Stand) (x : Actuator) : (s.setActuator k x).policy = s.policy := rfl
@[simp] theorem State.setActuator_faults (s : State) (k : Stand) (x : Actuator) : (s.setActuator k x).faults = s.faults := rfl
@[simp] theorem State.setActuator_breakTimers (s : State) (k : Stand) (x : Actuator) : (s.setActuator k x).breakTimers = s.breakTimers := rfl
@[simp] theorem State.setActuator_firstOut (s : State) (k : Stand) (x : Actuator) : (s.setActuator k x).firstOut = s.firstOut := rfl
@[simp] theorem State.setActuator_trip (s : State) (k : Stand) (x : Actuator) : (s.setActuator k x).trip = s.trip := rfl
@[simp] theorem State.setActuator_opened (s : State) (k : Stand) (x : Actuator) : (s.setActuator k x).opened = s.opened := rfl
@[simp] theorem State.setActuator_reports (s : State) (k : Stand) (x : Actuator) : (s.setActuator k x).reports = s.reports := rfl
@[simp] theorem State.setActuator_runState (s : State) (k : Stand) (x : Actuator) : (s.setActuator k x).runState = s.runState := rfl
@[simp] theorem State.setActuator_logs (s : State) (k : Stand) (x : Actuator) : (s.setActuator k x).logs = s.logs := rfl
@[simp] theorem State.setActuator_port (s : State) (k : Stand) (x : Actuator) : (s.setActuator k x).port = s.port := rfl
@[simp] theorem State.setActuator_sent (s : State) (k : Stand) (x : Actuator) : (s.setActuator k x).sent = s.sent := rfl
@[simp] theorem State.setActuator_freeIndex (s : State) (k : Stand) (x : Actuator) : (s.setActuator k x).freeIndex = s.freeIndex := rfl
@[simp] theorem State.setActuator_pending (s : State) (k : Stand) (x : Actuator) : (s.setActuator k x).pending = s.pending := rfl

/-! ### State.setFault -/

@[simp] theorem State.setFault_mode (s : State) (k : Kind) (x : FaultEntry) : (s.setFault k x).mode = s.mode := rfl
@[simp] theorem State.setFault_committed (s : State) (k : Kind) (x : FaultEntry) : (s.setFault k x).committed = s.committed := rfl
@[simp] theorem State.setFault_time (s : State) (k : Kind) (x : FaultEntry) : (s.setFault k x).time = s.time := rfl
@[simp] theorem State.setFault_logTime (s : State) (k : Kind) (x : FaultEntry) : (s.setFault k x).logTime = s.logTime := rfl
@[simp] theorem State.setFault_msPhase (s : State) (k : Kind) (x : FaultEntry) : (s.setFault k x).msPhase = s.msPhase := rfl
@[simp] theorem State.setFault_externalStop (s : State) (k : Kind) (x : FaultEntry) : (s.setFault k x).externalStop = s.externalStop := rfl
@[simp] theorem State.setFault_millStop (s : State) (k : Kind) (x : FaultEntry) : (s.setFault k x).millStop = s.millStop := rfl
@[simp] theorem State.setFault_standTrip (s : State) (k : Kind) (x : FaultEntry) : (s.setFault k x).standTrip = s.standTrip := rfl
@[simp] theorem State.setFault_hardStop (s : State) (k : Kind) (x : FaultEntry) : (s.setFault k x).hardStop = s.hardStop := rfl
@[simp] theorem State.setFault_links (s : State) (k : Kind) (x : FaultEntry) : (s.setFault k x).links = s.links := rfl
@[simp] theorem State.setFault_channels (s : State) (k : Kind) (x : FaultEntry) : (s.setFault k x).channels = s.channels := rfl
@[simp] theorem State.setFault_line (s : State) (k : Kind) (x : FaultEntry) : (s.setFault k x).line = s.line := rfl
@[simp] theorem State.setFault_ring (s : State) (k : Kind) (x : FaultEntry) : (s.setFault k x).ring = s.ring := rfl
@[simp] theorem State.setFault_points (s : State) (k : Kind) (x : FaultEntry) : (s.setFault k x).points = s.points := rfl
@[simp] theorem State.setFault_coilCounter (s : State) (k : Kind) (x : FaultEntry) : (s.setFault k x).coilCounter = s.coilCounter := rfl
@[simp] theorem State.setFault_speeds (s : State) (k : Kind) (x : FaultEntry) : (s.setFault k x).speeds = s.speeds := rfl
@[simp] theorem State.setFault_queue (s : State) (k : Kind) (x : FaultEntry) : (s.setFault k x).queue = s.queue := rfl
@[simp] theorem State.setFault_table (s : State) (k : Kind) (x : FaultEntry) : (s.setFault k x).table = s.table := rfl
@[simp] theorem State.setFault_transitions (s : State) (k : Kind) (x : FaultEntry) : (s.setFault k x).transitions = s.transitions := rfl
@[simp] theorem State.setFault_stands (s : State) (k : Kind) (x : FaultEntry) : (s.setFault k x).stands = s.stands := rfl
@[simp] theorem State.setFault_heldFrom (s : State) (k : Kind) (x : FaultEntry) : (s.setFault k x).heldFrom = s.heldFrom := rfl
@[simp] theorem State.setFault_actuators (s : State) (k : Kind) (x : FaultEntry) : (s.setFault k x).actuators = s.actuators := rfl
@[simp] theorem State.setFault_policy (s : State) (k : Kind) (x : FaultEntry) : (s.setFault k x).policy = s.policy := rfl
@[simp] theorem State.setFault_faults (s : State) (k : Kind) (x : FaultEntry) : (s.setFault k x).faults = s.faults.set k x := rfl
@[simp] theorem State.setFault_breakTimers (s : State) (k : Kind) (x : FaultEntry) : (s.setFault k x).breakTimers = s.breakTimers := rfl
@[simp] theorem State.setFault_firstOut (s : State) (k : Kind) (x : FaultEntry) : (s.setFault k x).firstOut = s.firstOut := rfl
@[simp] theorem State.setFault_trip (s : State) (k : Kind) (x : FaultEntry) : (s.setFault k x).trip = s.trip := rfl
@[simp] theorem State.setFault_opened (s : State) (k : Kind) (x : FaultEntry) : (s.setFault k x).opened = s.opened := rfl
@[simp] theorem State.setFault_reports (s : State) (k : Kind) (x : FaultEntry) : (s.setFault k x).reports = s.reports := rfl
@[simp] theorem State.setFault_runState (s : State) (k : Kind) (x : FaultEntry) : (s.setFault k x).runState = s.runState := rfl
@[simp] theorem State.setFault_logs (s : State) (k : Kind) (x : FaultEntry) : (s.setFault k x).logs = s.logs := rfl
@[simp] theorem State.setFault_port (s : State) (k : Kind) (x : FaultEntry) : (s.setFault k x).port = s.port := rfl
@[simp] theorem State.setFault_sent (s : State) (k : Kind) (x : FaultEntry) : (s.setFault k x).sent = s.sent := rfl
@[simp] theorem State.setFault_freeIndex (s : State) (k : Kind) (x : FaultEntry) : (s.setFault k x).freeIndex = s.freeIndex := rfl
@[simp] theorem State.setFault_pending (s : State) (k : Kind) (x : FaultEntry) : (s.setFault k x).pending = s.pending := rfl

/-! ### State.setBreak -/

@[simp] theorem State.setBreak_mode (s : State) (j : Interstand) (x : Timer) : (s.setBreak j x).mode = s.mode := rfl
@[simp] theorem State.setBreak_committed (s : State) (j : Interstand) (x : Timer) : (s.setBreak j x).committed = s.committed := rfl
@[simp] theorem State.setBreak_time (s : State) (j : Interstand) (x : Timer) : (s.setBreak j x).time = s.time := rfl
@[simp] theorem State.setBreak_logTime (s : State) (j : Interstand) (x : Timer) : (s.setBreak j x).logTime = s.logTime := rfl
@[simp] theorem State.setBreak_msPhase (s : State) (j : Interstand) (x : Timer) : (s.setBreak j x).msPhase = s.msPhase := rfl
@[simp] theorem State.setBreak_externalStop (s : State) (j : Interstand) (x : Timer) : (s.setBreak j x).externalStop = s.externalStop := rfl
@[simp] theorem State.setBreak_millStop (s : State) (j : Interstand) (x : Timer) : (s.setBreak j x).millStop = s.millStop := rfl
@[simp] theorem State.setBreak_standTrip (s : State) (j : Interstand) (x : Timer) : (s.setBreak j x).standTrip = s.standTrip := rfl
@[simp] theorem State.setBreak_hardStop (s : State) (j : Interstand) (x : Timer) : (s.setBreak j x).hardStop = s.hardStop := rfl
@[simp] theorem State.setBreak_links (s : State) (j : Interstand) (x : Timer) : (s.setBreak j x).links = s.links := rfl
@[simp] theorem State.setBreak_channels (s : State) (j : Interstand) (x : Timer) : (s.setBreak j x).channels = s.channels := rfl
@[simp] theorem State.setBreak_line (s : State) (j : Interstand) (x : Timer) : (s.setBreak j x).line = s.line := rfl
@[simp] theorem State.setBreak_ring (s : State) (j : Interstand) (x : Timer) : (s.setBreak j x).ring = s.ring := rfl
@[simp] theorem State.setBreak_points (s : State) (j : Interstand) (x : Timer) : (s.setBreak j x).points = s.points := rfl
@[simp] theorem State.setBreak_coilCounter (s : State) (j : Interstand) (x : Timer) : (s.setBreak j x).coilCounter = s.coilCounter := rfl
@[simp] theorem State.setBreak_speeds (s : State) (j : Interstand) (x : Timer) : (s.setBreak j x).speeds = s.speeds := rfl
@[simp] theorem State.setBreak_queue (s : State) (j : Interstand) (x : Timer) : (s.setBreak j x).queue = s.queue := rfl
@[simp] theorem State.setBreak_table (s : State) (j : Interstand) (x : Timer) : (s.setBreak j x).table = s.table := rfl
@[simp] theorem State.setBreak_transitions (s : State) (j : Interstand) (x : Timer) : (s.setBreak j x).transitions = s.transitions := rfl
@[simp] theorem State.setBreak_stands (s : State) (j : Interstand) (x : Timer) : (s.setBreak j x).stands = s.stands := rfl
@[simp] theorem State.setBreak_heldFrom (s : State) (j : Interstand) (x : Timer) : (s.setBreak j x).heldFrom = s.heldFrom := rfl
@[simp] theorem State.setBreak_actuators (s : State) (j : Interstand) (x : Timer) : (s.setBreak j x).actuators = s.actuators := rfl
@[simp] theorem State.setBreak_policy (s : State) (j : Interstand) (x : Timer) : (s.setBreak j x).policy = s.policy := rfl
@[simp] theorem State.setBreak_faults (s : State) (j : Interstand) (x : Timer) : (s.setBreak j x).faults = s.faults := rfl
@[simp] theorem State.setBreak_breakTimers (s : State) (j : Interstand) (x : Timer) : (s.setBreak j x).breakTimers = s.breakTimers.set j x := rfl
@[simp] theorem State.setBreak_firstOut (s : State) (j : Interstand) (x : Timer) : (s.setBreak j x).firstOut = s.firstOut := rfl
@[simp] theorem State.setBreak_trip (s : State) (j : Interstand) (x : Timer) : (s.setBreak j x).trip = s.trip := rfl
@[simp] theorem State.setBreak_opened (s : State) (j : Interstand) (x : Timer) : (s.setBreak j x).opened = s.opened := rfl
@[simp] theorem State.setBreak_reports (s : State) (j : Interstand) (x : Timer) : (s.setBreak j x).reports = s.reports := rfl
@[simp] theorem State.setBreak_runState (s : State) (j : Interstand) (x : Timer) : (s.setBreak j x).runState = s.runState := rfl
@[simp] theorem State.setBreak_logs (s : State) (j : Interstand) (x : Timer) : (s.setBreak j x).logs = s.logs := rfl
@[simp] theorem State.setBreak_port (s : State) (j : Interstand) (x : Timer) : (s.setBreak j x).port = s.port := rfl
@[simp] theorem State.setBreak_sent (s : State) (j : Interstand) (x : Timer) : (s.setBreak j x).sent = s.sent := rfl
@[simp] theorem State.setBreak_freeIndex (s : State) (j : Interstand) (x : Timer) : (s.setBreak j x).freeIndex = s.freeIndex := rfl
@[simp] theorem State.setBreak_pending (s : State) (j : Interstand) (x : Timer) : (s.setBreak j x).pending = s.pending := rfl

/-! ### State.setLog -/

@[simp] theorem State.setLog_mode (s : State) (g : LogNo) (x : Log) : (s.setLog g x).mode = s.mode := rfl
@[simp] theorem State.setLog_committed (s : State) (g : LogNo) (x : Log) : (s.setLog g x).committed = s.committed := rfl
@[simp] theorem State.setLog_time (s : State) (g : LogNo) (x : Log) : (s.setLog g x).time = s.time := rfl
@[simp] theorem State.setLog_logTime (s : State) (g : LogNo) (x : Log) : (s.setLog g x).logTime = s.logTime := rfl
@[simp] theorem State.setLog_msPhase (s : State) (g : LogNo) (x : Log) : (s.setLog g x).msPhase = s.msPhase := rfl
@[simp] theorem State.setLog_externalStop (s : State) (g : LogNo) (x : Log) : (s.setLog g x).externalStop = s.externalStop := rfl
@[simp] theorem State.setLog_millStop (s : State) (g : LogNo) (x : Log) : (s.setLog g x).millStop = s.millStop := rfl
@[simp] theorem State.setLog_standTrip (s : State) (g : LogNo) (x : Log) : (s.setLog g x).standTrip = s.standTrip := rfl
@[simp] theorem State.setLog_hardStop (s : State) (g : LogNo) (x : Log) : (s.setLog g x).hardStop = s.hardStop := rfl
@[simp] theorem State.setLog_links (s : State) (g : LogNo) (x : Log) : (s.setLog g x).links = s.links := rfl
@[simp] theorem State.setLog_channels (s : State) (g : LogNo) (x : Log) : (s.setLog g x).channels = s.channels := rfl
@[simp] theorem State.setLog_line (s : State) (g : LogNo) (x : Log) : (s.setLog g x).line = s.line := rfl
@[simp] theorem State.setLog_ring (s : State) (g : LogNo) (x : Log) : (s.setLog g x).ring = s.ring := rfl
@[simp] theorem State.setLog_points (s : State) (g : LogNo) (x : Log) : (s.setLog g x).points = s.points := rfl
@[simp] theorem State.setLog_coilCounter (s : State) (g : LogNo) (x : Log) : (s.setLog g x).coilCounter = s.coilCounter := rfl
@[simp] theorem State.setLog_speeds (s : State) (g : LogNo) (x : Log) : (s.setLog g x).speeds = s.speeds := rfl
@[simp] theorem State.setLog_queue (s : State) (g : LogNo) (x : Log) : (s.setLog g x).queue = s.queue := rfl
@[simp] theorem State.setLog_table (s : State) (g : LogNo) (x : Log) : (s.setLog g x).table = s.table := rfl
@[simp] theorem State.setLog_transitions (s : State) (g : LogNo) (x : Log) : (s.setLog g x).transitions = s.transitions := rfl
@[simp] theorem State.setLog_stands (s : State) (g : LogNo) (x : Log) : (s.setLog g x).stands = s.stands := rfl
@[simp] theorem State.setLog_heldFrom (s : State) (g : LogNo) (x : Log) : (s.setLog g x).heldFrom = s.heldFrom := rfl
@[simp] theorem State.setLog_actuators (s : State) (g : LogNo) (x : Log) : (s.setLog g x).actuators = s.actuators := rfl
@[simp] theorem State.setLog_policy (s : State) (g : LogNo) (x : Log) : (s.setLog g x).policy = s.policy := rfl
@[simp] theorem State.setLog_faults (s : State) (g : LogNo) (x : Log) : (s.setLog g x).faults = s.faults := rfl
@[simp] theorem State.setLog_breakTimers (s : State) (g : LogNo) (x : Log) : (s.setLog g x).breakTimers = s.breakTimers := rfl
@[simp] theorem State.setLog_firstOut (s : State) (g : LogNo) (x : Log) : (s.setLog g x).firstOut = s.firstOut := rfl
@[simp] theorem State.setLog_trip (s : State) (g : LogNo) (x : Log) : (s.setLog g x).trip = s.trip := rfl
@[simp] theorem State.setLog_opened (s : State) (g : LogNo) (x : Log) : (s.setLog g x).opened = s.opened := rfl
@[simp] theorem State.setLog_reports (s : State) (g : LogNo) (x : Log) : (s.setLog g x).reports = s.reports := rfl
@[simp] theorem State.setLog_runState (s : State) (g : LogNo) (x : Log) : (s.setLog g x).runState = s.runState := rfl
@[simp] theorem State.setLog_logs (s : State) (g : LogNo) (x : Log) : (s.setLog g x).logs = s.logs.set g x := rfl
@[simp] theorem State.setLog_port (s : State) (g : LogNo) (x : Log) : (s.setLog g x).port = s.port := rfl
@[simp] theorem State.setLog_sent (s : State) (g : LogNo) (x : Log) : (s.setLog g x).sent = s.sent := rfl
@[simp] theorem State.setLog_freeIndex (s : State) (g : LogNo) (x : Log) : (s.setLog g x).freeIndex = s.freeIndex := rfl
@[simp] theorem State.setLog_pending (s : State) (g : LogNo) (x : Log) : (s.setLog g x).pending = s.pending := rfl

/-! ### State.setPolicy -/

@[simp] theorem State.setPolicy_mode (s : State) (k : Kind) (x : Policy) : (s.setPolicy k x).mode = s.mode := rfl
@[simp] theorem State.setPolicy_committed (s : State) (k : Kind) (x : Policy) : (s.setPolicy k x).committed = s.committed := rfl
@[simp] theorem State.setPolicy_time (s : State) (k : Kind) (x : Policy) : (s.setPolicy k x).time = s.time := rfl
@[simp] theorem State.setPolicy_logTime (s : State) (k : Kind) (x : Policy) : (s.setPolicy k x).logTime = s.logTime := rfl
@[simp] theorem State.setPolicy_msPhase (s : State) (k : Kind) (x : Policy) : (s.setPolicy k x).msPhase = s.msPhase := rfl
@[simp] theorem State.setPolicy_externalStop (s : State) (k : Kind) (x : Policy) : (s.setPolicy k x).externalStop = s.externalStop := rfl
@[simp] theorem State.setPolicy_millStop (s : State) (k : Kind) (x : Policy) : (s.setPolicy k x).millStop = s.millStop := rfl
@[simp] theorem State.setPolicy_standTrip (s : State) (k : Kind) (x : Policy) : (s.setPolicy k x).standTrip = s.standTrip := rfl
@[simp] theorem State.setPolicy_hardStop (s : State) (k : Kind) (x : Policy) : (s.setPolicy k x).hardStop = s.hardStop := rfl
@[simp] theorem State.setPolicy_links (s : State) (k : Kind) (x : Policy) : (s.setPolicy k x).links = s.links := rfl
@[simp] theorem State.setPolicy_channels (s : State) (k : Kind) (x : Policy) : (s.setPolicy k x).channels = s.channels := rfl
@[simp] theorem State.setPolicy_line (s : State) (k : Kind) (x : Policy) : (s.setPolicy k x).line = s.line := rfl
@[simp] theorem State.setPolicy_ring (s : State) (k : Kind) (x : Policy) : (s.setPolicy k x).ring = s.ring := rfl
@[simp] theorem State.setPolicy_points (s : State) (k : Kind) (x : Policy) : (s.setPolicy k x).points = s.points := rfl
@[simp] theorem State.setPolicy_coilCounter (s : State) (k : Kind) (x : Policy) : (s.setPolicy k x).coilCounter = s.coilCounter := rfl
@[simp] theorem State.setPolicy_speeds (s : State) (k : Kind) (x : Policy) : (s.setPolicy k x).speeds = s.speeds := rfl
@[simp] theorem State.setPolicy_queue (s : State) (k : Kind) (x : Policy) : (s.setPolicy k x).queue = s.queue := rfl
@[simp] theorem State.setPolicy_table (s : State) (k : Kind) (x : Policy) : (s.setPolicy k x).table = s.table := rfl
@[simp] theorem State.setPolicy_transitions (s : State) (k : Kind) (x : Policy) : (s.setPolicy k x).transitions = s.transitions := rfl
@[simp] theorem State.setPolicy_stands (s : State) (k : Kind) (x : Policy) : (s.setPolicy k x).stands = s.stands := rfl
@[simp] theorem State.setPolicy_heldFrom (s : State) (k : Kind) (x : Policy) : (s.setPolicy k x).heldFrom = s.heldFrom := rfl
@[simp] theorem State.setPolicy_actuators (s : State) (k : Kind) (x : Policy) : (s.setPolicy k x).actuators = s.actuators := rfl
@[simp] theorem State.setPolicy_policy (s : State) (k : Kind) (x : Policy) : (s.setPolicy k x).policy = s.policy.set k x := rfl
@[simp] theorem State.setPolicy_faults (s : State) (k : Kind) (x : Policy) : (s.setPolicy k x).faults = s.faults := rfl
@[simp] theorem State.setPolicy_breakTimers (s : State) (k : Kind) (x : Policy) : (s.setPolicy k x).breakTimers = s.breakTimers := rfl
@[simp] theorem State.setPolicy_firstOut (s : State) (k : Kind) (x : Policy) : (s.setPolicy k x).firstOut = s.firstOut := rfl
@[simp] theorem State.setPolicy_trip (s : State) (k : Kind) (x : Policy) : (s.setPolicy k x).trip = s.trip := rfl
@[simp] theorem State.setPolicy_opened (s : State) (k : Kind) (x : Policy) : (s.setPolicy k x).opened = s.opened := rfl
@[simp] theorem State.setPolicy_reports (s : State) (k : Kind) (x : Policy) : (s.setPolicy k x).reports = s.reports := rfl
@[simp] theorem State.setPolicy_runState (s : State) (k : Kind) (x : Policy) : (s.setPolicy k x).runState = s.runState := rfl
@[simp] theorem State.setPolicy_logs (s : State) (k : Kind) (x : Policy) : (s.setPolicy k x).logs = s.logs := rfl
@[simp] theorem State.setPolicy_port (s : State) (k : Kind) (x : Policy) : (s.setPolicy k x).port = s.port := rfl
@[simp] theorem State.setPolicy_sent (s : State) (k : Kind) (x : Policy) : (s.setPolicy k x).sent = s.sent := rfl
@[simp] theorem State.setPolicy_freeIndex (s : State) (k : Kind) (x : Policy) : (s.setPolicy k x).freeIndex = s.freeIndex := rfl
@[simp] theorem State.setPolicy_pending (s : State) (k : Kind) (x : Policy) : (s.setPolicy k x).pending = s.pending := rfl

/-! ### State.setPort -/

@[simp] theorem State.setPort_mode (s : State) (x : Port) : (s.setPort x).mode = s.mode := rfl
@[simp] theorem State.setPort_committed (s : State) (x : Port) : (s.setPort x).committed = s.committed := rfl
@[simp] theorem State.setPort_time (s : State) (x : Port) : (s.setPort x).time = s.time := rfl
@[simp] theorem State.setPort_logTime (s : State) (x : Port) : (s.setPort x).logTime = s.logTime := rfl
@[simp] theorem State.setPort_msPhase (s : State) (x : Port) : (s.setPort x).msPhase = s.msPhase := rfl
@[simp] theorem State.setPort_externalStop (s : State) (x : Port) : (s.setPort x).externalStop = s.externalStop := rfl
@[simp] theorem State.setPort_millStop (s : State) (x : Port) : (s.setPort x).millStop = s.millStop := rfl
@[simp] theorem State.setPort_standTrip (s : State) (x : Port) : (s.setPort x).standTrip = s.standTrip := rfl
@[simp] theorem State.setPort_hardStop (s : State) (x : Port) : (s.setPort x).hardStop = s.hardStop := rfl
@[simp] theorem State.setPort_links (s : State) (x : Port) : (s.setPort x).links = s.links := rfl
@[simp] theorem State.setPort_channels (s : State) (x : Port) : (s.setPort x).channels = s.channels := rfl
@[simp] theorem State.setPort_line (s : State) (x : Port) : (s.setPort x).line = s.line := rfl
@[simp] theorem State.setPort_ring (s : State) (x : Port) : (s.setPort x).ring = s.ring := rfl
@[simp] theorem State.setPort_points (s : State) (x : Port) : (s.setPort x).points = s.points := rfl
@[simp] theorem State.setPort_coilCounter (s : State) (x : Port) : (s.setPort x).coilCounter = s.coilCounter := rfl
@[simp] theorem State.setPort_speeds (s : State) (x : Port) : (s.setPort x).speeds = s.speeds := rfl
@[simp] theorem State.setPort_queue (s : State) (x : Port) : (s.setPort x).queue = s.queue := rfl
@[simp] theorem State.setPort_table (s : State) (x : Port) : (s.setPort x).table = s.table := rfl
@[simp] theorem State.setPort_transitions (s : State) (x : Port) : (s.setPort x).transitions = s.transitions := rfl
@[simp] theorem State.setPort_stands (s : State) (x : Port) : (s.setPort x).stands = s.stands := rfl
@[simp] theorem State.setPort_heldFrom (s : State) (x : Port) : (s.setPort x).heldFrom = s.heldFrom := rfl
@[simp] theorem State.setPort_actuators (s : State) (x : Port) : (s.setPort x).actuators = s.actuators := rfl
@[simp] theorem State.setPort_policy (s : State) (x : Port) : (s.setPort x).policy = s.policy := rfl
@[simp] theorem State.setPort_faults (s : State) (x : Port) : (s.setPort x).faults = s.faults := rfl
@[simp] theorem State.setPort_breakTimers (s : State) (x : Port) : (s.setPort x).breakTimers = s.breakTimers := rfl
@[simp] theorem State.setPort_firstOut (s : State) (x : Port) : (s.setPort x).firstOut = s.firstOut := rfl
@[simp] theorem State.setPort_trip (s : State) (x : Port) : (s.setPort x).trip = s.trip := rfl
@[simp] theorem State.setPort_opened (s : State) (x : Port) : (s.setPort x).opened = s.opened := rfl
@[simp] theorem State.setPort_reports (s : State) (x : Port) : (s.setPort x).reports = s.reports := rfl
@[simp] theorem State.setPort_runState (s : State) (x : Port) : (s.setPort x).runState = s.runState := rfl
@[simp] theorem State.setPort_logs (s : State) (x : Port) : (s.setPort x).logs = s.logs := rfl
@[simp] theorem State.setPort_port (s : State) (x : Port) : (s.setPort x).port = x := rfl
@[simp] theorem State.setPort_sent (s : State) (x : Port) : (s.setPort x).sent = s.sent := rfl
@[simp] theorem State.setPort_freeIndex (s : State) (x : Port) : (s.setPort x).freeIndex = s.freeIndex := rfl
@[simp] theorem State.setPort_pending (s : State) (x : Port) : (s.setPort x).pending = s.pending := rfl

/-! ### State.setSegment -/

@[simp] theorem State.setSegment_mode (s : State) (n : SegNo) (f : Segment → Segment) : (s.setSegment n f).mode = s.mode := rfl
@[simp] theorem State.setSegment_committed (s : State) (n : SegNo) (f : Segment → Segment) : (s.setSegment n f).committed = s.committed := rfl
@[simp] theorem State.setSegment_time (s : State) (n : SegNo) (f : Segment → Segment) : (s.setSegment n f).time = s.time := rfl
@[simp] theorem State.setSegment_logTime (s : State) (n : SegNo) (f : Segment → Segment) : (s.setSegment n f).logTime = s.logTime := rfl
@[simp] theorem State.setSegment_msPhase (s : State) (n : SegNo) (f : Segment → Segment) : (s.setSegment n f).msPhase = s.msPhase := rfl
@[simp] theorem State.setSegment_externalStop (s : State) (n : SegNo) (f : Segment → Segment) : (s.setSegment n f).externalStop = s.externalStop := rfl
@[simp] theorem State.setSegment_millStop (s : State) (n : SegNo) (f : Segment → Segment) : (s.setSegment n f).millStop = s.millStop := rfl
@[simp] theorem State.setSegment_standTrip (s : State) (n : SegNo) (f : Segment → Segment) : (s.setSegment n f).standTrip = s.standTrip := rfl
@[simp] theorem State.setSegment_hardStop (s : State) (n : SegNo) (f : Segment → Segment) : (s.setSegment n f).hardStop = s.hardStop := rfl
@[simp] theorem State.setSegment_links (s : State) (n : SegNo) (f : Segment → Segment) : (s.setSegment n f).links = s.links := rfl
@[simp] theorem State.setSegment_channels (s : State) (n : SegNo) (f : Segment → Segment) : (s.setSegment n f).channels = s.channels := rfl
@[simp] theorem State.setSegment_line (s : State) (n : SegNo) (f : Segment → Segment) : (s.setSegment n f).line = s.line := rfl
@[simp] theorem State.setSegment_ring (s : State) (n : SegNo) (f : Segment → Segment) : (s.setSegment n f).ring = s.ring.map fun g => if g.number = n then f g else g := rfl
@[simp] theorem State.setSegment_points (s : State) (n : SegNo) (f : Segment → Segment) : (s.setSegment n f).points = s.points := rfl
@[simp] theorem State.setSegment_coilCounter (s : State) (n : SegNo) (f : Segment → Segment) : (s.setSegment n f).coilCounter = s.coilCounter := rfl
@[simp] theorem State.setSegment_speeds (s : State) (n : SegNo) (f : Segment → Segment) : (s.setSegment n f).speeds = s.speeds := rfl
@[simp] theorem State.setSegment_queue (s : State) (n : SegNo) (f : Segment → Segment) : (s.setSegment n f).queue = s.queue := rfl
@[simp] theorem State.setSegment_table (s : State) (n : SegNo) (f : Segment → Segment) : (s.setSegment n f).table = s.table := rfl
@[simp] theorem State.setSegment_transitions (s : State) (n : SegNo) (f : Segment → Segment) : (s.setSegment n f).transitions = s.transitions := rfl
@[simp] theorem State.setSegment_stands (s : State) (n : SegNo) (f : Segment → Segment) : (s.setSegment n f).stands = s.stands := rfl
@[simp] theorem State.setSegment_heldFrom (s : State) (n : SegNo) (f : Segment → Segment) : (s.setSegment n f).heldFrom = s.heldFrom := rfl
@[simp] theorem State.setSegment_actuators (s : State) (n : SegNo) (f : Segment → Segment) : (s.setSegment n f).actuators = s.actuators := rfl
@[simp] theorem State.setSegment_policy (s : State) (n : SegNo) (f : Segment → Segment) : (s.setSegment n f).policy = s.policy := rfl
@[simp] theorem State.setSegment_faults (s : State) (n : SegNo) (f : Segment → Segment) : (s.setSegment n f).faults = s.faults := rfl
@[simp] theorem State.setSegment_breakTimers (s : State) (n : SegNo) (f : Segment → Segment) : (s.setSegment n f).breakTimers = s.breakTimers := rfl
@[simp] theorem State.setSegment_firstOut (s : State) (n : SegNo) (f : Segment → Segment) : (s.setSegment n f).firstOut = s.firstOut := rfl
@[simp] theorem State.setSegment_trip (s : State) (n : SegNo) (f : Segment → Segment) : (s.setSegment n f).trip = s.trip := rfl
@[simp] theorem State.setSegment_opened (s : State) (n : SegNo) (f : Segment → Segment) : (s.setSegment n f).opened = s.opened := rfl
@[simp] theorem State.setSegment_reports (s : State) (n : SegNo) (f : Segment → Segment) : (s.setSegment n f).reports = s.reports := rfl
@[simp] theorem State.setSegment_runState (s : State) (n : SegNo) (f : Segment → Segment) : (s.setSegment n f).runState = s.runState := rfl
@[simp] theorem State.setSegment_logs (s : State) (n : SegNo) (f : Segment → Segment) : (s.setSegment n f).logs = s.logs := rfl
@[simp] theorem State.setSegment_port (s : State) (n : SegNo) (f : Segment → Segment) : (s.setSegment n f).port = s.port := rfl
@[simp] theorem State.setSegment_sent (s : State) (n : SegNo) (f : Segment → Segment) : (s.setSegment n f).sent = s.sent := rfl
@[simp] theorem State.setSegment_freeIndex (s : State) (n : SegNo) (f : Segment → Segment) : (s.setSegment n f).freeIndex = s.freeIndex := rfl
@[simp] theorem State.setSegment_pending (s : State) (n : SegNo) (f : Segment → Segment) : (s.setSegment n f).pending = s.pending := rfl

/-! ### State.setMode -/

@[simp] theorem State.setMode_mode (s : State) (m : Mode) : (s.setMode m).mode = m := rfl
@[simp] theorem State.setMode_committed (s : State) (m : Mode) : (s.setMode m).committed = s.committed := rfl
@[simp] theorem State.setMode_time (s : State) (m : Mode) : (s.setMode m).time = s.time := rfl
@[simp] theorem State.setMode_logTime (s : State) (m : Mode) : (s.setMode m).logTime = s.logTime := rfl
@[simp] theorem State.setMode_msPhase (s : State) (m : Mode) : (s.setMode m).msPhase = s.msPhase := rfl
@[simp] theorem State.setMode_externalStop (s : State) (m : Mode) : (s.setMode m).externalStop = s.externalStop := rfl
@[simp] theorem State.setMode_millStop (s : State) (m : Mode) : (s.setMode m).millStop = stopsAsserted m := rfl
@[simp] theorem State.setMode_standTrip (s : State) (m : Mode) : (s.setMode m).standTrip = Vector.replicate 6 (stopsAsserted m) := rfl
@[simp] theorem State.setMode_hardStop (s : State) (m : Mode) : (s.setMode m).hardStop = s.hardStop := rfl
@[simp] theorem State.setMode_links (s : State) (m : Mode) : (s.setMode m).links = s.links := rfl
@[simp] theorem State.setMode_channels (s : State) (m : Mode) : (s.setMode m).channels = s.channels := rfl
@[simp] theorem State.setMode_line (s : State) (m : Mode) : (s.setMode m).line = s.line := rfl
@[simp] theorem State.setMode_ring (s : State) (m : Mode) : (s.setMode m).ring = s.ring := rfl
@[simp] theorem State.setMode_points (s : State) (m : Mode) : (s.setMode m).points = s.points := rfl
@[simp] theorem State.setMode_coilCounter (s : State) (m : Mode) : (s.setMode m).coilCounter = s.coilCounter := rfl
@[simp] theorem State.setMode_speeds (s : State) (m : Mode) : (s.setMode m).speeds = s.speeds := rfl
@[simp] theorem State.setMode_queue (s : State) (m : Mode) : (s.setMode m).queue = s.queue := rfl
@[simp] theorem State.setMode_table (s : State) (m : Mode) : (s.setMode m).table = s.table := rfl
@[simp] theorem State.setMode_transitions (s : State) (m : Mode) : (s.setMode m).transitions = s.transitions := rfl
@[simp] theorem State.setMode_stands (s : State) (m : Mode) : (s.setMode m).stands = s.stands := rfl
@[simp] theorem State.setMode_heldFrom (s : State) (m : Mode) : (s.setMode m).heldFrom = s.heldFrom := rfl
@[simp] theorem State.setMode_actuators (s : State) (m : Mode) : (s.setMode m).actuators = s.actuators := rfl
@[simp] theorem State.setMode_policy (s : State) (m : Mode) : (s.setMode m).policy = s.policy := rfl
@[simp] theorem State.setMode_faults (s : State) (m : Mode) : (s.setMode m).faults = s.faults := rfl
@[simp] theorem State.setMode_breakTimers (s : State) (m : Mode) : (s.setMode m).breakTimers = s.breakTimers := rfl
@[simp] theorem State.setMode_firstOut (s : State) (m : Mode) : (s.setMode m).firstOut = s.firstOut := rfl
@[simp] theorem State.setMode_trip (s : State) (m : Mode) : (s.setMode m).trip = s.trip := rfl
@[simp] theorem State.setMode_opened (s : State) (m : Mode) : (s.setMode m).opened = s.opened := rfl
@[simp] theorem State.setMode_reports (s : State) (m : Mode) : (s.setMode m).reports = s.reports := rfl
@[simp] theorem State.setMode_runState (s : State) (m : Mode) : (s.setMode m).runState = s.runState := rfl
@[simp] theorem State.setMode_logs (s : State) (m : Mode) : (s.setMode m).logs = s.logs := rfl
@[simp] theorem State.setMode_port (s : State) (m : Mode) : (s.setMode m).port = s.port := rfl
@[simp] theorem State.setMode_sent (s : State) (m : Mode) : (s.setMode m).sent = s.sent := rfl
@[simp] theorem State.setMode_freeIndex (s : State) (m : Mode) : (s.setMode m).freeIndex = s.freeIndex := rfl
@[simp] theorem State.setMode_pending (s : State) (m : Mode) : (s.setMode m).pending = s.pending := rfl

/-! ### State.notify -/

@[simp] theorem State.notify_mode (s : State) (n : Notice) : (s.notify n).mode = s.mode := rfl
@[simp] theorem State.notify_committed (s : State) (n : Notice) : (s.notify n).committed = s.committed := rfl
@[simp] theorem State.notify_time (s : State) (n : Notice) : (s.notify n).time = s.time := rfl
@[simp] theorem State.notify_logTime (s : State) (n : Notice) : (s.notify n).logTime = s.logTime := rfl
@[simp] theorem State.notify_msPhase (s : State) (n : Notice) : (s.notify n).msPhase = s.msPhase := rfl
@[simp] theorem State.notify_externalStop (s : State) (n : Notice) : (s.notify n).externalStop = s.externalStop := rfl
@[simp] theorem State.notify_millStop (s : State) (n : Notice) : (s.notify n).millStop = s.millStop := rfl
@[simp] theorem State.notify_standTrip (s : State) (n : Notice) : (s.notify n).standTrip = s.standTrip := rfl
@[simp] theorem State.notify_hardStop (s : State) (n : Notice) : (s.notify n).hardStop = s.hardStop := rfl
@[simp] theorem State.notify_links (s : State) (n : Notice) : (s.notify n).links = s.links := rfl
@[simp] theorem State.notify_channels (s : State) (n : Notice) : (s.notify n).channels = s.channels := rfl
@[simp] theorem State.notify_line (s : State) (n : Notice) : (s.notify n).line = s.line := rfl
@[simp] theorem State.notify_ring (s : State) (n : Notice) : (s.notify n).ring = s.ring := rfl
@[simp] theorem State.notify_points (s : State) (n : Notice) : (s.notify n).points = s.points := rfl
@[simp] theorem State.notify_coilCounter (s : State) (n : Notice) : (s.notify n).coilCounter = s.coilCounter := rfl
@[simp] theorem State.notify_speeds (s : State) (n : Notice) : (s.notify n).speeds = s.speeds := rfl
@[simp] theorem State.notify_queue (s : State) (n : Notice) : (s.notify n).queue = s.queue := rfl
@[simp] theorem State.notify_table (s : State) (n : Notice) : (s.notify n).table = s.table := rfl
@[simp] theorem State.notify_transitions (s : State) (n : Notice) : (s.notify n).transitions = s.transitions := rfl
@[simp] theorem State.notify_stands (s : State) (n : Notice) : (s.notify n).stands = s.stands := rfl
@[simp] theorem State.notify_heldFrom (s : State) (n : Notice) : (s.notify n).heldFrom = s.heldFrom := rfl
@[simp] theorem State.notify_actuators (s : State) (n : Notice) : (s.notify n).actuators = s.actuators := rfl
@[simp] theorem State.notify_policy (s : State) (n : Notice) : (s.notify n).policy = s.policy := rfl
@[simp] theorem State.notify_faults (s : State) (n : Notice) : (s.notify n).faults = s.faults := rfl
@[simp] theorem State.notify_breakTimers (s : State) (n : Notice) : (s.notify n).breakTimers = s.breakTimers := rfl
@[simp] theorem State.notify_firstOut (s : State) (n : Notice) : (s.notify n).firstOut = s.firstOut := rfl
@[simp] theorem State.notify_trip (s : State) (n : Notice) : (s.notify n).trip = s.trip := rfl
@[simp] theorem State.notify_opened (s : State) (n : Notice) : (s.notify n).opened = s.opened := rfl
@[simp] theorem State.notify_reports (s : State) (n : Notice) : (s.notify n).reports = s.reports := rfl
@[simp] theorem State.notify_runState (s : State) (n : Notice) : (s.notify n).runState = s.runState := rfl
@[simp] theorem State.notify_logs (s : State) (n : Notice) : (s.notify n).logs = s.logs := rfl
@[simp] theorem State.notify_port (s : State) (n : Notice) : (s.notify n).port = s.port.queueNotice n := rfl
@[simp] theorem State.notify_sent (s : State) (n : Notice) : (s.notify n).sent = s.sent := rfl
@[simp] theorem State.notify_freeIndex (s : State) (n : Notice) : (s.notify n).freeIndex = s.freeIndex := rfl
@[simp] theorem State.notify_pending (s : State) (n : Notice) : (s.notify n).pending = s.pending := rfl

/-! ### State.append -/

@[simp] theorem State.append_mode (s : State) (g : LogNo) (c : LogContent) : (s.append g c).mode = s.mode := rfl
@[simp] theorem State.append_committed (s : State) (g : LogNo) (c : LogContent) : (s.append g c).committed = s.committed := rfl
@[simp] theorem State.append_time (s : State) (g : LogNo) (c : LogContent) : (s.append g c).time = s.time := rfl
@[simp] theorem State.append_logTime (s : State) (g : LogNo) (c : LogContent) : (s.append g c).logTime = s.logTime := rfl
@[simp] theorem State.append_msPhase (s : State) (g : LogNo) (c : LogContent) : (s.append g c).msPhase = s.msPhase := rfl
@[simp] theorem State.append_externalStop (s : State) (g : LogNo) (c : LogContent) : (s.append g c).externalStop = s.externalStop := rfl
@[simp] theorem State.append_millStop (s : State) (g : LogNo) (c : LogContent) : (s.append g c).millStop = s.millStop := rfl
@[simp] theorem State.append_standTrip (s : State) (g : LogNo) (c : LogContent) : (s.append g c).standTrip = s.standTrip := rfl
@[simp] theorem State.append_hardStop (s : State) (g : LogNo) (c : LogContent) : (s.append g c).hardStop = s.hardStop := rfl
@[simp] theorem State.append_links (s : State) (g : LogNo) (c : LogContent) : (s.append g c).links = s.links := rfl
@[simp] theorem State.append_channels (s : State) (g : LogNo) (c : LogContent) : (s.append g c).channels = s.channels := rfl
@[simp] theorem State.append_line (s : State) (g : LogNo) (c : LogContent) : (s.append g c).line = s.line := rfl
@[simp] theorem State.append_ring (s : State) (g : LogNo) (c : LogContent) : (s.append g c).ring = s.ring := rfl
@[simp] theorem State.append_points (s : State) (g : LogNo) (c : LogContent) : (s.append g c).points = s.points := rfl
@[simp] theorem State.append_coilCounter (s : State) (g : LogNo) (c : LogContent) : (s.append g c).coilCounter = s.coilCounter := rfl
@[simp] theorem State.append_speeds (s : State) (g : LogNo) (c : LogContent) : (s.append g c).speeds = s.speeds := rfl
@[simp] theorem State.append_queue (s : State) (g : LogNo) (c : LogContent) : (s.append g c).queue = s.queue := rfl
@[simp] theorem State.append_table (s : State) (g : LogNo) (c : LogContent) : (s.append g c).table = s.table := rfl
@[simp] theorem State.append_transitions (s : State) (g : LogNo) (c : LogContent) : (s.append g c).transitions = s.transitions := rfl
@[simp] theorem State.append_stands (s : State) (g : LogNo) (c : LogContent) : (s.append g c).stands = s.stands := rfl
@[simp] theorem State.append_heldFrom (s : State) (g : LogNo) (c : LogContent) : (s.append g c).heldFrom = s.heldFrom := rfl
@[simp] theorem State.append_actuators (s : State) (g : LogNo) (c : LogContent) : (s.append g c).actuators = s.actuators := rfl
@[simp] theorem State.append_policy (s : State) (g : LogNo) (c : LogContent) : (s.append g c).policy = s.policy := rfl
@[simp] theorem State.append_faults (s : State) (g : LogNo) (c : LogContent) : (s.append g c).faults = s.faults := rfl
@[simp] theorem State.append_breakTimers (s : State) (g : LogNo) (c : LogContent) : (s.append g c).breakTimers = s.breakTimers := rfl
@[simp] theorem State.append_firstOut (s : State) (g : LogNo) (c : LogContent) : (s.append g c).firstOut = s.firstOut := rfl
@[simp] theorem State.append_trip (s : State) (g : LogNo) (c : LogContent) : (s.append g c).trip = s.trip := rfl
@[simp] theorem State.append_opened (s : State) (g : LogNo) (c : LogContent) : (s.append g c).opened = s.opened := rfl
@[simp] theorem State.append_reports (s : State) (g : LogNo) (c : LogContent) : (s.append g c).reports = s.reports := rfl
@[simp] theorem State.append_runState (s : State) (g : LogNo) (c : LogContent) : (s.append g c).runState = s.runState := rfl
@[simp] theorem State.append_logs (s : State) (g : LogNo) (c : LogContent) : (s.append g c).logs = s.logs.set g (s.logs[g].append Config.logCapacity[g] s.logTime c) := rfl
@[simp] theorem State.append_port (s : State) (g : LogNo) (c : LogContent) : (s.append g c).port = s.port := rfl
@[simp] theorem State.append_sent (s : State) (g : LogNo) (c : LogContent) : (s.append g c).sent = s.sent := rfl
@[simp] theorem State.append_freeIndex (s : State) (g : LogNo) (c : LogContent) : (s.append g c).freeIndex = s.freeIndex := rfl
@[simp] theorem State.append_pending (s : State) (g : LogNo) (c : LogContent) : (s.append g c).pending = s.pending := rfl

/-! ### State.inactive -/

@[simp] theorem State.inactive_mode (s : State) (k : Kind) (loc : Nat) : (s.inactive k loc).mode = s.mode := rfl
@[simp] theorem State.inactive_committed (s : State) (k : Kind) (loc : Nat) : (s.inactive k loc).committed = s.committed := rfl
@[simp] theorem State.inactive_time (s : State) (k : Kind) (loc : Nat) : (s.inactive k loc).time = s.time := rfl
@[simp] theorem State.inactive_logTime (s : State) (k : Kind) (loc : Nat) : (s.inactive k loc).logTime = s.logTime := rfl
@[simp] theorem State.inactive_msPhase (s : State) (k : Kind) (loc : Nat) : (s.inactive k loc).msPhase = s.msPhase := rfl
@[simp] theorem State.inactive_externalStop (s : State) (k : Kind) (loc : Nat) : (s.inactive k loc).externalStop = s.externalStop := rfl
@[simp] theorem State.inactive_millStop (s : State) (k : Kind) (loc : Nat) : (s.inactive k loc).millStop = s.millStop := rfl
@[simp] theorem State.inactive_standTrip (s : State) (k : Kind) (loc : Nat) : (s.inactive k loc).standTrip = s.standTrip := rfl
@[simp] theorem State.inactive_hardStop (s : State) (k : Kind) (loc : Nat) : (s.inactive k loc).hardStop = s.hardStop := rfl
@[simp] theorem State.inactive_links (s : State) (k : Kind) (loc : Nat) : (s.inactive k loc).links = s.links := rfl
@[simp] theorem State.inactive_channels (s : State) (k : Kind) (loc : Nat) : (s.inactive k loc).channels = s.channels := rfl
@[simp] theorem State.inactive_line (s : State) (k : Kind) (loc : Nat) : (s.inactive k loc).line = s.line := rfl
@[simp] theorem State.inactive_ring (s : State) (k : Kind) (loc : Nat) : (s.inactive k loc).ring = s.ring := rfl
@[simp] theorem State.inactive_points (s : State) (k : Kind) (loc : Nat) : (s.inactive k loc).points = s.points := rfl
@[simp] theorem State.inactive_coilCounter (s : State) (k : Kind) (loc : Nat) : (s.inactive k loc).coilCounter = s.coilCounter := rfl
@[simp] theorem State.inactive_speeds (s : State) (k : Kind) (loc : Nat) : (s.inactive k loc).speeds = s.speeds := rfl
@[simp] theorem State.inactive_queue (s : State) (k : Kind) (loc : Nat) : (s.inactive k loc).queue = s.queue := rfl
@[simp] theorem State.inactive_table (s : State) (k : Kind) (loc : Nat) : (s.inactive k loc).table = s.table := rfl
@[simp] theorem State.inactive_transitions (s : State) (k : Kind) (loc : Nat) : (s.inactive k loc).transitions = s.transitions := rfl
@[simp] theorem State.inactive_stands (s : State) (k : Kind) (loc : Nat) : (s.inactive k loc).stands = s.stands := rfl
@[simp] theorem State.inactive_heldFrom (s : State) (k : Kind) (loc : Nat) : (s.inactive k loc).heldFrom = s.heldFrom := rfl
@[simp] theorem State.inactive_actuators (s : State) (k : Kind) (loc : Nat) : (s.inactive k loc).actuators = s.actuators := rfl
@[simp] theorem State.inactive_policy (s : State) (k : Kind) (loc : Nat) : (s.inactive k loc).policy = s.policy := rfl
@[simp] theorem State.inactive_faults (s : State) (k : Kind) (loc : Nat) : (s.inactive k loc).faults = s.faults.set k { s.faults[k] with active := s.faults[k].active.filter (· ≠ loc) } := rfl
@[simp] theorem State.inactive_breakTimers (s : State) (k : Kind) (loc : Nat) : (s.inactive k loc).breakTimers = s.breakTimers := rfl
@[simp] theorem State.inactive_firstOut (s : State) (k : Kind) (loc : Nat) : (s.inactive k loc).firstOut = s.firstOut := rfl
@[simp] theorem State.inactive_trip (s : State) (k : Kind) (loc : Nat) : (s.inactive k loc).trip = s.trip := rfl
@[simp] theorem State.inactive_opened (s : State) (k : Kind) (loc : Nat) : (s.inactive k loc).opened = s.opened := rfl
@[simp] theorem State.inactive_reports (s : State) (k : Kind) (loc : Nat) : (s.inactive k loc).reports = s.reports := rfl
@[simp] theorem State.inactive_runState (s : State) (k : Kind) (loc : Nat) : (s.inactive k loc).runState = s.runState := rfl
@[simp] theorem State.inactive_logs (s : State) (k : Kind) (loc : Nat) : (s.inactive k loc).logs = s.logs := rfl
@[simp] theorem State.inactive_port (s : State) (k : Kind) (loc : Nat) : (s.inactive k loc).port = s.port := rfl
@[simp] theorem State.inactive_sent (s : State) (k : Kind) (loc : Nat) : (s.inactive k loc).sent = s.sent := rfl
@[simp] theorem State.inactive_freeIndex (s : State) (k : Kind) (loc : Nat) : (s.inactive k loc).freeIndex = s.freeIndex := rfl
@[simp] theorem State.inactive_pending (s : State) (k : Kind) (loc : Nat) : (s.inactive k loc).pending = s.pending := rfl

/-! ### State.markActive -/

@[simp] theorem State.markActive_mode (s : State) (k : Kind) (loc : Nat) : (s.markActive k loc).mode = s.mode := rfl
@[simp] theorem State.markActive_committed (s : State) (k : Kind) (loc : Nat) : (s.markActive k loc).committed = s.committed := rfl
@[simp] theorem State.markActive_time (s : State) (k : Kind) (loc : Nat) : (s.markActive k loc).time = s.time := rfl
@[simp] theorem State.markActive_logTime (s : State) (k : Kind) (loc : Nat) : (s.markActive k loc).logTime = s.logTime := rfl
@[simp] theorem State.markActive_msPhase (s : State) (k : Kind) (loc : Nat) : (s.markActive k loc).msPhase = s.msPhase := rfl
@[simp] theorem State.markActive_externalStop (s : State) (k : Kind) (loc : Nat) : (s.markActive k loc).externalStop = s.externalStop := rfl
@[simp] theorem State.markActive_millStop (s : State) (k : Kind) (loc : Nat) : (s.markActive k loc).millStop = s.millStop := rfl
@[simp] theorem State.markActive_standTrip (s : State) (k : Kind) (loc : Nat) : (s.markActive k loc).standTrip = s.standTrip := rfl
@[simp] theorem State.markActive_hardStop (s : State) (k : Kind) (loc : Nat) : (s.markActive k loc).hardStop = s.hardStop := rfl
@[simp] theorem State.markActive_links (s : State) (k : Kind) (loc : Nat) : (s.markActive k loc).links = s.links := rfl
@[simp] theorem State.markActive_channels (s : State) (k : Kind) (loc : Nat) : (s.markActive k loc).channels = s.channels := rfl
@[simp] theorem State.markActive_line (s : State) (k : Kind) (loc : Nat) : (s.markActive k loc).line = s.line := rfl
@[simp] theorem State.markActive_ring (s : State) (k : Kind) (loc : Nat) : (s.markActive k loc).ring = s.ring := rfl
@[simp] theorem State.markActive_points (s : State) (k : Kind) (loc : Nat) : (s.markActive k loc).points = s.points := rfl
@[simp] theorem State.markActive_coilCounter (s : State) (k : Kind) (loc : Nat) : (s.markActive k loc).coilCounter = s.coilCounter := rfl
@[simp] theorem State.markActive_speeds (s : State) (k : Kind) (loc : Nat) : (s.markActive k loc).speeds = s.speeds := rfl
@[simp] theorem State.markActive_queue (s : State) (k : Kind) (loc : Nat) : (s.markActive k loc).queue = s.queue := rfl
@[simp] theorem State.markActive_table (s : State) (k : Kind) (loc : Nat) : (s.markActive k loc).table = s.table := rfl
@[simp] theorem State.markActive_transitions (s : State) (k : Kind) (loc : Nat) : (s.markActive k loc).transitions = s.transitions := rfl
@[simp] theorem State.markActive_stands (s : State) (k : Kind) (loc : Nat) : (s.markActive k loc).stands = s.stands := rfl
@[simp] theorem State.markActive_heldFrom (s : State) (k : Kind) (loc : Nat) : (s.markActive k loc).heldFrom = s.heldFrom := rfl
@[simp] theorem State.markActive_actuators (s : State) (k : Kind) (loc : Nat) : (s.markActive k loc).actuators = s.actuators := rfl
@[simp] theorem State.markActive_policy (s : State) (k : Kind) (loc : Nat) : (s.markActive k loc).policy = s.policy := rfl
@[simp] theorem State.markActive_faults (s : State) (k : Kind) (loc : Nat) : (s.markActive k loc).faults = s.faults.set k { s.faults[k] with active := insertLoc loc s.faults[k].active } := rfl
@[simp] theorem State.markActive_breakTimers (s : State) (k : Kind) (loc : Nat) : (s.markActive k loc).breakTimers = s.breakTimers := rfl
@[simp] theorem State.markActive_firstOut (s : State) (k : Kind) (loc : Nat) : (s.markActive k loc).firstOut = s.firstOut := rfl
@[simp] theorem State.markActive_trip (s : State) (k : Kind) (loc : Nat) : (s.markActive k loc).trip = s.trip := rfl
@[simp] theorem State.markActive_opened (s : State) (k : Kind) (loc : Nat) : (s.markActive k loc).opened = s.opened := rfl
@[simp] theorem State.markActive_reports (s : State) (k : Kind) (loc : Nat) : (s.markActive k loc).reports = s.reports := rfl
@[simp] theorem State.markActive_runState (s : State) (k : Kind) (loc : Nat) : (s.markActive k loc).runState = s.runState := rfl
@[simp] theorem State.markActive_logs (s : State) (k : Kind) (loc : Nat) : (s.markActive k loc).logs = s.logs := rfl
@[simp] theorem State.markActive_port (s : State) (k : Kind) (loc : Nat) : (s.markActive k loc).port = s.port := rfl
@[simp] theorem State.markActive_sent (s : State) (k : Kind) (loc : Nat) : (s.markActive k loc).sent = s.sent := rfl
@[simp] theorem State.markActive_freeIndex (s : State) (k : Kind) (loc : Nat) : (s.markActive k loc).freeIndex = s.freeIndex := rfl
@[simp] theorem State.markActive_pending (s : State) (k : Kind) (loc : Nat) : (s.markActive k loc).pending = s.pending := rfl

/-! ### State.allInactive -/

@[simp] theorem State.allInactive_mode (s : State) (k : Kind) : (s.allInactive k).mode = s.mode := rfl
@[simp] theorem State.allInactive_committed (s : State) (k : Kind) : (s.allInactive k).committed = s.committed := rfl
@[simp] theorem State.allInactive_time (s : State) (k : Kind) : (s.allInactive k).time = s.time := rfl
@[simp] theorem State.allInactive_logTime (s : State) (k : Kind) : (s.allInactive k).logTime = s.logTime := rfl
@[simp] theorem State.allInactive_msPhase (s : State) (k : Kind) : (s.allInactive k).msPhase = s.msPhase := rfl
@[simp] theorem State.allInactive_externalStop (s : State) (k : Kind) : (s.allInactive k).externalStop = s.externalStop := rfl
@[simp] theorem State.allInactive_millStop (s : State) (k : Kind) : (s.allInactive k).millStop = s.millStop := rfl
@[simp] theorem State.allInactive_standTrip (s : State) (k : Kind) : (s.allInactive k).standTrip = s.standTrip := rfl
@[simp] theorem State.allInactive_hardStop (s : State) (k : Kind) : (s.allInactive k).hardStop = s.hardStop := rfl
@[simp] theorem State.allInactive_links (s : State) (k : Kind) : (s.allInactive k).links = s.links := rfl
@[simp] theorem State.allInactive_channels (s : State) (k : Kind) : (s.allInactive k).channels = s.channels := rfl
@[simp] theorem State.allInactive_line (s : State) (k : Kind) : (s.allInactive k).line = s.line := rfl
@[simp] theorem State.allInactive_ring (s : State) (k : Kind) : (s.allInactive k).ring = s.ring := rfl
@[simp] theorem State.allInactive_points (s : State) (k : Kind) : (s.allInactive k).points = s.points := rfl
@[simp] theorem State.allInactive_coilCounter (s : State) (k : Kind) : (s.allInactive k).coilCounter = s.coilCounter := rfl
@[simp] theorem State.allInactive_speeds (s : State) (k : Kind) : (s.allInactive k).speeds = s.speeds := rfl
@[simp] theorem State.allInactive_queue (s : State) (k : Kind) : (s.allInactive k).queue = s.queue := rfl
@[simp] theorem State.allInactive_table (s : State) (k : Kind) : (s.allInactive k).table = s.table := rfl
@[simp] theorem State.allInactive_transitions (s : State) (k : Kind) : (s.allInactive k).transitions = s.transitions := rfl
@[simp] theorem State.allInactive_stands (s : State) (k : Kind) : (s.allInactive k).stands = s.stands := rfl
@[simp] theorem State.allInactive_heldFrom (s : State) (k : Kind) : (s.allInactive k).heldFrom = s.heldFrom := rfl
@[simp] theorem State.allInactive_actuators (s : State) (k : Kind) : (s.allInactive k).actuators = s.actuators := rfl
@[simp] theorem State.allInactive_policy (s : State) (k : Kind) : (s.allInactive k).policy = s.policy := rfl
@[simp] theorem State.allInactive_faults (s : State) (k : Kind) : (s.allInactive k).faults = s.faults.set k { s.faults[k] with active := [] } := rfl
@[simp] theorem State.allInactive_breakTimers (s : State) (k : Kind) : (s.allInactive k).breakTimers = s.breakTimers := rfl
@[simp] theorem State.allInactive_firstOut (s : State) (k : Kind) : (s.allInactive k).firstOut = s.firstOut := rfl
@[simp] theorem State.allInactive_trip (s : State) (k : Kind) : (s.allInactive k).trip = s.trip := rfl
@[simp] theorem State.allInactive_opened (s : State) (k : Kind) : (s.allInactive k).opened = s.opened := rfl
@[simp] theorem State.allInactive_reports (s : State) (k : Kind) : (s.allInactive k).reports = s.reports := rfl
@[simp] theorem State.allInactive_runState (s : State) (k : Kind) : (s.allInactive k).runState = s.runState := rfl
@[simp] theorem State.allInactive_logs (s : State) (k : Kind) : (s.allInactive k).logs = s.logs := rfl
@[simp] theorem State.allInactive_port (s : State) (k : Kind) : (s.allInactive k).port = s.port := rfl
@[simp] theorem State.allInactive_sent (s : State) (k : Kind) : (s.allInactive k).sent = s.sent := rfl
@[simp] theorem State.allInactive_freeIndex (s : State) (k : Kind) : (s.allInactive k).freeIndex = s.freeIndex := rfl
@[simp] theorem State.allInactive_pending (s : State) (k : Kind) : (s.allInactive k).pending = s.pending := rfl

/-! ### State.changeMode -/

@[simp] theorem State.changeMode_mode (s : State) (m : Mode) (c : ModeCause) : (s.changeMode m c).mode = m := rfl
@[simp] theorem State.changeMode_committed (s : State) (m : Mode) (c : ModeCause) : (s.changeMode m c).committed = s.committed := rfl
@[simp] theorem State.changeMode_time (s : State) (m : Mode) (c : ModeCause) : (s.changeMode m c).time = s.time := rfl
@[simp] theorem State.changeMode_logTime (s : State) (m : Mode) (c : ModeCause) : (s.changeMode m c).logTime = s.logTime := rfl
@[simp] theorem State.changeMode_msPhase (s : State) (m : Mode) (c : ModeCause) : (s.changeMode m c).msPhase = s.msPhase := rfl
@[simp] theorem State.changeMode_externalStop (s : State) (m : Mode) (c : ModeCause) : (s.changeMode m c).externalStop = s.externalStop := rfl
@[simp] theorem State.changeMode_millStop (s : State) (m : Mode) (c : ModeCause) : (s.changeMode m c).millStop = stopsAsserted m := rfl
@[simp] theorem State.changeMode_standTrip (s : State) (m : Mode) (c : ModeCause) : (s.changeMode m c).standTrip = Vector.replicate 6 (stopsAsserted m) := rfl
@[simp] theorem State.changeMode_hardStop (s : State) (m : Mode) (c : ModeCause) : (s.changeMode m c).hardStop = s.hardStop := rfl
@[simp] theorem State.changeMode_links (s : State) (m : Mode) (c : ModeCause) : (s.changeMode m c).links = s.links := rfl
@[simp] theorem State.changeMode_channels (s : State) (m : Mode) (c : ModeCause) : (s.changeMode m c).channels = s.channels := rfl
@[simp] theorem State.changeMode_line (s : State) (m : Mode) (c : ModeCause) : (s.changeMode m c).line = s.line := rfl
@[simp] theorem State.changeMode_ring (s : State) (m : Mode) (c : ModeCause) : (s.changeMode m c).ring = s.ring := rfl
@[simp] theorem State.changeMode_points (s : State) (m : Mode) (c : ModeCause) : (s.changeMode m c).points = s.points := rfl
@[simp] theorem State.changeMode_coilCounter (s : State) (m : Mode) (c : ModeCause) : (s.changeMode m c).coilCounter = s.coilCounter := rfl
@[simp] theorem State.changeMode_speeds (s : State) (m : Mode) (c : ModeCause) : (s.changeMode m c).speeds = s.speeds := rfl
@[simp] theorem State.changeMode_queue (s : State) (m : Mode) (c : ModeCause) : (s.changeMode m c).queue = s.queue := rfl
@[simp] theorem State.changeMode_table (s : State) (m : Mode) (c : ModeCause) : (s.changeMode m c).table = s.table := rfl
@[simp] theorem State.changeMode_transitions (s : State) (m : Mode) (c : ModeCause) : (s.changeMode m c).transitions = s.transitions := rfl
@[simp] theorem State.changeMode_stands (s : State) (m : Mode) (c : ModeCause) : (s.changeMode m c).stands = s.stands := rfl
@[simp] theorem State.changeMode_heldFrom (s : State) (m : Mode) (c : ModeCause) : (s.changeMode m c).heldFrom = s.heldFrom := rfl
@[simp] theorem State.changeMode_actuators (s : State) (m : Mode) (c : ModeCause) : (s.changeMode m c).actuators = s.actuators := rfl
@[simp] theorem State.changeMode_policy (s : State) (m : Mode) (c : ModeCause) : (s.changeMode m c).policy = s.policy := rfl
@[simp] theorem State.changeMode_faults (s : State) (m : Mode) (c : ModeCause) : (s.changeMode m c).faults = s.faults := rfl
@[simp] theorem State.changeMode_breakTimers (s : State) (m : Mode) (c : ModeCause) : (s.changeMode m c).breakTimers = s.breakTimers := rfl
@[simp] theorem State.changeMode_firstOut (s : State) (m : Mode) (c : ModeCause) : (s.changeMode m c).firstOut = s.firstOut := rfl
@[simp] theorem State.changeMode_trip (s : State) (m : Mode) (c : ModeCause) : (s.changeMode m c).trip = s.trip := rfl
@[simp] theorem State.changeMode_opened (s : State) (m : Mode) (c : ModeCause) : (s.changeMode m c).opened = s.opened := rfl
@[simp] theorem State.changeMode_reports (s : State) (m : Mode) (c : ModeCause) : (s.changeMode m c).reports = s.reports := rfl
@[simp] theorem State.changeMode_runState (s : State) (m : Mode) (c : ModeCause) : (s.changeMode m c).runState = s.runState := rfl
@[simp] theorem State.changeMode_logs (s : State) (m : Mode) (c : ModeCause) : (s.changeMode m c).logs = s.logs := rfl
@[simp] theorem State.changeMode_port (s : State) (m : Mode) (c : ModeCause) : (s.changeMode m c).port = s.port.queueNotice (.modeChanged (some s.mode) m c) := rfl
@[simp] theorem State.changeMode_sent (s : State) (m : Mode) (c : ModeCause) : (s.changeMode m c).sent = s.sent := rfl
@[simp] theorem State.changeMode_freeIndex (s : State) (m : Mode) (c : ModeCause) : (s.changeMode m c).freeIndex = s.freeIndex := rfl
@[simp] theorem State.changeMode_pending (s : State) (m : Mode) (c : ModeCause) : (s.changeMode m c).pending = s.pending := rfl

/-! ### State.count -/

@[simp] theorem State.count_mode (s : State) (f : PortCounters → PortCounters) : (s.count f).mode = s.mode := rfl
@[simp] theorem State.count_committed (s : State) (f : PortCounters → PortCounters) : (s.count f).committed = s.committed := rfl
@[simp] theorem State.count_time (s : State) (f : PortCounters → PortCounters) : (s.count f).time = s.time := rfl
@[simp] theorem State.count_logTime (s : State) (f : PortCounters → PortCounters) : (s.count f).logTime = s.logTime := rfl
@[simp] theorem State.count_msPhase (s : State) (f : PortCounters → PortCounters) : (s.count f).msPhase = s.msPhase := rfl
@[simp] theorem State.count_externalStop (s : State) (f : PortCounters → PortCounters) : (s.count f).externalStop = s.externalStop := rfl
@[simp] theorem State.count_millStop (s : State) (f : PortCounters → PortCounters) : (s.count f).millStop = s.millStop := rfl
@[simp] theorem State.count_standTrip (s : State) (f : PortCounters → PortCounters) : (s.count f).standTrip = s.standTrip := rfl
@[simp] theorem State.count_hardStop (s : State) (f : PortCounters → PortCounters) : (s.count f).hardStop = s.hardStop := rfl
@[simp] theorem State.count_links (s : State) (f : PortCounters → PortCounters) : (s.count f).links = s.links := rfl
@[simp] theorem State.count_channels (s : State) (f : PortCounters → PortCounters) : (s.count f).channels = s.channels := rfl
@[simp] theorem State.count_line (s : State) (f : PortCounters → PortCounters) : (s.count f).line = s.line := rfl
@[simp] theorem State.count_ring (s : State) (f : PortCounters → PortCounters) : (s.count f).ring = s.ring := rfl
@[simp] theorem State.count_points (s : State) (f : PortCounters → PortCounters) : (s.count f).points = s.points := rfl
@[simp] theorem State.count_coilCounter (s : State) (f : PortCounters → PortCounters) : (s.count f).coilCounter = s.coilCounter := rfl
@[simp] theorem State.count_speeds (s : State) (f : PortCounters → PortCounters) : (s.count f).speeds = s.speeds := rfl
@[simp] theorem State.count_queue (s : State) (f : PortCounters → PortCounters) : (s.count f).queue = s.queue := rfl
@[simp] theorem State.count_table (s : State) (f : PortCounters → PortCounters) : (s.count f).table = s.table := rfl
@[simp] theorem State.count_transitions (s : State) (f : PortCounters → PortCounters) : (s.count f).transitions = s.transitions := rfl
@[simp] theorem State.count_stands (s : State) (f : PortCounters → PortCounters) : (s.count f).stands = s.stands := rfl
@[simp] theorem State.count_heldFrom (s : State) (f : PortCounters → PortCounters) : (s.count f).heldFrom = s.heldFrom := rfl
@[simp] theorem State.count_actuators (s : State) (f : PortCounters → PortCounters) : (s.count f).actuators = s.actuators := rfl
@[simp] theorem State.count_policy (s : State) (f : PortCounters → PortCounters) : (s.count f).policy = s.policy := rfl
@[simp] theorem State.count_faults (s : State) (f : PortCounters → PortCounters) : (s.count f).faults = s.faults := rfl
@[simp] theorem State.count_breakTimers (s : State) (f : PortCounters → PortCounters) : (s.count f).breakTimers = s.breakTimers := rfl
@[simp] theorem State.count_firstOut (s : State) (f : PortCounters → PortCounters) : (s.count f).firstOut = s.firstOut := rfl
@[simp] theorem State.count_trip (s : State) (f : PortCounters → PortCounters) : (s.count f).trip = s.trip := rfl
@[simp] theorem State.count_opened (s : State) (f : PortCounters → PortCounters) : (s.count f).opened = s.opened := rfl
@[simp] theorem State.count_reports (s : State) (f : PortCounters → PortCounters) : (s.count f).reports = s.reports := rfl
@[simp] theorem State.count_runState (s : State) (f : PortCounters → PortCounters) : (s.count f).runState = s.runState := rfl
@[simp] theorem State.count_logs (s : State) (f : PortCounters → PortCounters) : (s.count f).logs = s.logs := rfl
@[simp] theorem State.count_port (s : State) (f : PortCounters → PortCounters) : (s.count f).port = { s.port with counters := f s.port.counters } := rfl
@[simp] theorem State.count_sent (s : State) (f : PortCounters → PortCounters) : (s.count f).sent = s.sent := rfl
@[simp] theorem State.count_freeIndex (s : State) (f : PortCounters → PortCounters) : (s.count f).freeIndex = s.freeIndex := rfl
@[simp] theorem State.count_pending (s : State) (f : PortCounters → PortCounters) : (s.count f).pending = s.pending := rfl

/-! ### State.stepStart -/

@[simp] theorem State.stepStart_mode (s : State) : (s.stepStart).mode = s.mode := rfl
@[simp] theorem State.stepStart_committed (s : State) : (s.stepStart).committed = s.committed := rfl
@[simp] theorem State.stepStart_time (s : State) : (s.stepStart).time = s.time := rfl
@[simp] theorem State.stepStart_logTime (s : State) : (s.stepStart).logTime = s.logTime := rfl
@[simp] theorem State.stepStart_msPhase (s : State) : (s.stepStart).msPhase = s.msPhase := rfl
@[simp] theorem State.stepStart_externalStop (s : State) : (s.stepStart).externalStop = s.externalStop := rfl
@[simp] theorem State.stepStart_millStop (s : State) : (s.stepStart).millStop = s.millStop := rfl
@[simp] theorem State.stepStart_standTrip (s : State) : (s.stepStart).standTrip = s.standTrip := rfl
@[simp] theorem State.stepStart_hardStop (s : State) : (s.stepStart).hardStop = s.hardStop := rfl
@[simp] theorem State.stepStart_links (s : State) : (s.stepStart).links = s.links := rfl
@[simp] theorem State.stepStart_channels (s : State) : (s.stepStart).channels = s.channels := rfl
@[simp] theorem State.stepStart_line (s : State) : (s.stepStart).line = s.line := rfl
@[simp] theorem State.stepStart_ring (s : State) : (s.stepStart).ring = s.ring := rfl
@[simp] theorem State.stepStart_points (s : State) : (s.stepStart).points = s.points := rfl
@[simp] theorem State.stepStart_coilCounter (s : State) : (s.stepStart).coilCounter = s.coilCounter := rfl
@[simp] theorem State.stepStart_speeds (s : State) : (s.stepStart).speeds = s.speeds := rfl
@[simp] theorem State.stepStart_queue (s : State) : (s.stepStart).queue = s.queue := rfl
@[simp] theorem State.stepStart_table (s : State) : (s.stepStart).table = s.table := rfl
@[simp] theorem State.stepStart_transitions (s : State) : (s.stepStart).transitions = s.transitions := rfl
@[simp] theorem State.stepStart_stands (s : State) : (s.stepStart).stands = s.stands := rfl
@[simp] theorem State.stepStart_heldFrom (s : State) : (s.stepStart).heldFrom = s.heldFrom := rfl
@[simp] theorem State.stepStart_actuators (s : State) : (s.stepStart).actuators = s.actuators := rfl
@[simp] theorem State.stepStart_policy (s : State) : (s.stepStart).policy = s.policy := rfl
@[simp] theorem State.stepStart_faults (s : State) : (s.stepStart).faults = s.faults := rfl
@[simp] theorem State.stepStart_breakTimers (s : State) : (s.stepStart).breakTimers = s.breakTimers := rfl
@[simp] theorem State.stepStart_firstOut (s : State) : (s.stepStart).firstOut = s.firstOut := rfl
@[simp] theorem State.stepStart_trip (s : State) : (s.stepStart).trip = s.trip := rfl
@[simp] theorem State.stepStart_opened (s : State) : (s.stepStart).opened = s.opened := rfl
@[simp] theorem State.stepStart_reports (s : State) : (s.stepStart).reports = s.reports := rfl
@[simp] theorem State.stepStart_runState (s : State) : (s.stepStart).runState = s.runState := rfl
@[simp] theorem State.stepStart_logs (s : State) : (s.stepStart).logs = s.logs := rfl
@[simp] theorem State.stepStart_port (s : State) : (s.stepStart).port = s.port.beginNext := rfl
@[simp] theorem State.stepStart_sent (s : State) : (s.stepStart).sent = [] := rfl
@[simp] theorem State.stepStart_freeIndex (s : State) : (s.stepStart).freeIndex = s.freeIndex := rfl
@[simp] theorem State.stepStart_pending (s : State) : (s.stepStart).pending = s.pending := rfl

/-! ### Reading a row of a table -/

/-- A row just written reads as what was written. -/
@[simp] theorem vector_set_same {α : Type} {n : Nat} (v : Vector α n) (i : Fin n) (x : α) : (v.set i x)[i] = x := by
  simp

/-- Writing a row leaves the others. -/
theorem vector_set_other {α : Type} {n : Nat} (v : Vector α n) (i j : Fin n) (x : α) (h : i ≠ j) :
    (v.set i x)[j] = v[j] := by
  have : i.val ≠ j.val := fun e => h (Fin.ext e)
  simp [this]

/-- A row after a write, in one equation. -/
theorem vector_set_get {α : Type} {n : Nat} (v : Vector α n) (i j : Fin n) (x : α) :
    (v.set i x)[j] = if i = j then x else v[j] := by
  by_cases h : i = j
  · subst h; simp
  · simp [h, vector_set_other v i j x h]

end Sys2Proof.Machine
end

