-- ==== Sys2Proof/Laws/Keeps.lean ====
section
/-! SUPPORT. What every operation of the part keeps. A predicate is `Steady` when the primitive changes that start no trip and
change no mode keep it, and `Tracks` when the changes that tracking and the taking of faults make keep it as well; each
operation then has one lemma, `<operation>_keeps`, which serves every such predicate (the invariants of Safety.lean among
them, in the files that follow). -/

namespace Sys2Proof.Machine

set_option linter.unusedTactic false
set_option linter.unreachableTactic false

/-- The fields on which the invariants of Safety.lean depend. -/
structure Core where
  mode : Mode
  committed : Bool
  millStop : Bool
  standTrip : Vector Bool 6
  hardStop : Bool
  policy : Vector Policy 22
  trip : TripState
  faults : Vector FaultEntry 22
  logs : Vector Log 5
  port : Port
  ring : List Segment
  points : Vector Point 9
  queue : List Schedule
  table : List InForce
  transitions : List Transition
  reports : List CoilReport

/-- The core of a state. -/
def State.core (s : State) : Core :=
  ⟨s.mode, s.committed, s.millStop, s.standTrip, s.hardStop, s.policy, s.trip, s.faults, s.logs, s.port, s.ring, s.points,
    s.queue, s.table, s.transitions, s.reports⟩

/-- Kept by every primitive change that starts no trip and changes no mode. -/
structure Steady (P : State → Prop) : Prop where
  other : ∀ {s t : State}, t.core = s.core → P s → P t
  fault : ∀ {s : State} (k : Kind) (e : FaultEntry), e.latched = s.faults[k].latched → e.first = s.faults[k].first →
    (s.faults[k].active = [] → e.active = []) → P s → P (s.setFault k e)
  safe : ∀ {s : State}, s.trip = .opening → P s → P { s with trip := .safe }
  log : ∀ {s : State} (g : LogNo) (c : LogContent), P s → P (s.append g c)
  notice : ∀ {s : State} (n : Notice), P s → P (s.notify n)
  segments : ∀ {s : State} (r : List Segment), r.length ≤ s.ring.length → P s → P { s with ring := r }
  point : ∀ {s : State} (p : PointNo) (x : Point), x.started = s.points[p].started → P s → P (s.setPoint p x)
  unstart : ∀ {s : State}, P s → P { s with points := Vector.replicate 9 .unstarted }
  records : ∀ {s : State} (r : List CoilReport), r.length ≤ s.reports.length → P s → P { s with reports := r }
  changes : ∀ {s : State} (r : List Transition), r.length ≤ s.transitions.length → P s → P { s with transitions := r }
  entries : ∀ {s : State} (r : List InForce), r.length ≤ s.table.length →
    (r.filter (·.isEntry)).length = (s.table.filter (·.isEntry)).length → P s → P { s with table := r }

/-- Kept by the taking of faults as well. -/
structure Raises (P : State → Prop) : Prop where
  steady : Steady P
  raise : ∀ {s : State} (cs : List (Kind × Nat)), P s → P (raiseAll cs s)

/-- Kept by the four ways in which samples reach tracking. -/
structure Fields (P : State → Prop) : Prop extends Raises P where
  starting : ∀ {s : State} (p : PointNo) (t : Micros), P s → P (startingEvent p t s)
  speed : ∀ {s : State} (k : Stand) (v : Int) (t : Micros), P s → P (speedSample k v t s)
  length : ∀ {s : State} (inc : Int) (t : Micros), P s → P (lengthSample inc t s)
  closing : ∀ {s : State} (t : Micros), P s → P (closingAdvance t s)

/-- Kept by the changes of tracking as well. -/
structure Tracks (P : State → Prop) : Prop extends Raises P where
  start : ∀ {s : State} (p : PointNo) (x : Point), P s → P (s.setPoint p x)
  opens : ∀ {s : State} (n : SegNo), P s → P (openNext n s)
  report : ∀ {s : State} (r : CoilReport), s.reports.length < Config.reportCapacity → P s →
    P { s with reports := s.reports ++ [r] }
  change : ∀ {s : State} (t : Transition), s.transitions.length < Config.transitionCapacity → P s →
    P { s with transitions := s.transitions ++ [t] }
  take : ∀ {s : State} (q : List Schedule) (new : InForce), q.length ≤ s.queue.length →
    s.table.length < Config.tableCapacity → new.isEntry = true → P s →
    P { s with queue := q, table := s.table.map (fun (e : InForce) => { e with isEntry := false }) ++ [new] }

variable {P : State → Prop}

theorem startingEvent_keeps (H : Fields P) (p : PointNo) (t : Micros) {s : State} (h : P s) : P (startingEvent p t s) :=
  H.starting p t h
theorem speedSample_keeps (H : Fields P) (k : Stand) (v : Int) (t : Micros) {s : State} (h : P s) :
    P (speedSample k v t s) := H.speed k v t h
theorem lengthSample_keeps (H : Fields P) (inc : Int) (t : Micros) {s : State} (h : P s) : P (lengthSample inc t s) :=
  H.length inc t h
theorem closingAdvance_keeps (H : Fields P) (t : Micros) {s : State} (h : P s) : P (closingAdvance t s) := H.closing t h

/-- Another state with the same core. -/
theorem Steady.same (H : Steady P) {s t : State} (h : P s) (e : t.core = s.core) : P t := H.other e h

/-! ### Folds -/

theorem foldl_keeps {α : Type} {f : State → α → State} (hf : ∀ s a, P s → P (f s a)) (l : List α) {s : State} (h : P s) :
    P (l.foldl f s) := by
  induction l generalizing s with
  | nil => exact h
  | cons a l ih => exact ih (hf _ _ h)

theorem forStands_keeps {f : Stand → State → State} (hf : ∀ k s, P s → P (f k s)) {s : State} (h : P s) :
    P (forStands f s) := foldl_keeps (fun s k h => hf k s h) _ h

/-! ### Fields outside the core -/

theorem setLink_keeps (H : Steady P) {s : State} (l x) (h : P s) : P (s.setLink l x) := H.other (s := s) rfl h
theorem setChannel_keeps (H : Steady P) {s : State} (e x) (h : P s) : P (s.setChannel e x) := H.other (s := s) rfl h
theorem setSpeed_keeps (H : Steady P) {s : State} (k x) (h : P s) : P (s.setSpeed k x) := H.other (s := s) rfl h
theorem setStand_keeps (H : Steady P) {s : State} (k x) (h : P s) : P (s.setStand k x) := H.other (s := s) rfl h
theorem setHeldFrom_keeps (H : Steady P) {s : State} (k x) (h : P s) : P (s.setHeldFrom k x) := H.other (s := s) rfl h
theorem setActuator_keeps (H : Steady P) {s : State} (k x) (h : P s) : P (s.setActuator k x) := H.other (s := s) rfl h
theorem setBreak_keeps (H : Steady P) {s : State} (j x) (h : P s) : P (s.setBreak j x) := H.other (s := s) rfl h
theorem setPoint_keeps (H : Steady P) {s : State} (p) (x : Point) (hx : x.started = s.points[p].started) (h : P s) :
    P (s.setPoint p x) := H.point p x hx h
theorem append_keeps (H : Steady P) {s : State} (g c) (h : P s) : P (s.append g c) := H.log g c h
theorem notify_keeps (H : Steady P) {s : State} (n) (h : P s) : P (s.notify n) := H.notice n h

/-! ### Active sets -/

theorem inactive_keeps (H : Steady P) {s : State} (k loc) (h : P s) : P (s.inactive k loc) :=
  H.fault k _ rfl rfl (fun e => by rw [e]; rfl) h

theorem allInactive_keeps (H : Steady P) {s : State} (k) (h : P s) : P (s.allInactive k) :=
  H.fault k _ rfl rfl (fun _ => rfl) h

theorem setSegment_keeps (H : Steady P) {s : State} (n f) (h : P s) : P (s.setSegment n f) :=
  H.segments _ (by simp) h


theorem raiseAll_keeps (H : Raises P) (cs : List (Kind × Nat)) {s : State} (h : P s) : P (raiseAll cs s) := H.raise cs h

theorem openNext_keeps (H : Tracks P) (n : SegNo) {s : State} (h : P s) : P (openNext n s) := H.opens n h


/-! ### Stands -/

theorem stopUnload_keeps (H : Steady P) (k : Stand) {s : State} (h : P s) :
    P (stopUnload k s) := by
  unfold stopUnload
  repeat' first
    | assumption
    | apply setStand_keeps H
    | apply inactive_keeps H
    | intro _
    | split
    | dsimp only

theorem enterIdleMode_keeps (H : Steady P) (m : StandMode) (k : Stand) {s : State} (h : P s) :
    P (enterIdleMode m k s) := by
  unfold enterIdleMode
  repeat' first
    | assumption
    | apply stopUnload_keeps H
    | apply setStand_keeps H
    | intro _
    | split
    | dsimp only

theorem goesToHold_keeps (H : Steady P) (c : HoldCause) (k : Stand) {s : State} (h : P s) : P (goesToHold c k s) :=
  setHeldFrom_keeps H _ _ (setStand_keeps H _ _ h)

/-- A sample that the stand takes after its actuator's report, or with no such report in this microsecond. -/
theorem takeSample_told (k : Stand) (before : Bool) (f : State → State) (s : State)
    (h : before = false ∨ s.stands[k].mode ≠ .hold ∨ s.heldFrom[k] = none) : takeSample k before f s = f s := by
  have e : earlierMode k before s = none := by
    unfold earlierMode
    split
    · rename_i hb
      obtain h | h | h := h
      · rw [h] at hb; exact absurd hb.1 (by decide)
      · exact absurd hb.2 h
      · rw [h]; rfl
    · rfl
  unfold takeSample
  rw [e]

/-- A sample that the stand takes before its actuator's report. -/
theorem takeSample_early (k : Stand) (m : StandMode) (f : State → State) (s : State) (h : s.stands[k].mode = .hold)
    (hm : s.heldFrom[k] = some m) (hv : m = .gauge ∨ m = .position) :
    takeSample k true f s =
      let t := f ((s.setStand k { s.stands[k] with mode := m }).setHeldFrom k none)
      t.setStand k { t.stands[k] with mode := .hold } := by
  have e : earlierMode k true s = some m := by
    unfold earlierMode
    rw [if_pos ⟨rfl, h⟩, hm]
    obtain rfl | rfl := hv <;> rfl
  unfold takeSample
  rw [e]

/-- What a reader keeps is kept where the sample is taken before the actuator's report. -/
theorem takeSample_keeps (H : Steady P) (k : Stand) (before : Bool) {f : State → State} (hf : ∀ s, P s → P (f s))
    {s : State} (h : P s) : P (takeSample k before f s) := by
  unfold takeSample
  split
  · exact setStand_keeps H _ _ (hf _ (setHeldFrom_keeps H _ _ (setStand_keeps H _ _ h)))
  · exact hf _ h

theorem causeArises_keeps (H : Steady P) (c : HoldCause) (k : Stand) {s : State} (h : P s) :
    P (causeArises c k s) := by
  unfold causeArises
  extract_lets +onlyGivenNames st
  repeat' first
    | assumption
    | apply goesToHold_keeps H
    | apply setHeldFrom_keeps H
    | apply setStand_keeps H
    | intro _
    | split
    | dsimp only

theorem causeClears_keeps (H : Steady P) (c : HoldCause) (k : Stand) {s : State} (h : P s) :
    P (causeClears c k s) := by
  unfold causeClears
  repeat' first
    | assumption
    | apply setStand_keeps H
    | intro _
    | split
    | dsimp only

theorem returnPoint_keeps (H : Steady P) (k : Stand) {s : State} (h : P s) :
    P (returnPoint k s) := by
  unfold returnPoint
  repeat' first
    | assumption
    | apply setStand_keeps H
    | intro _
    | split
    | dsimp only

theorem forceLost_keeps (H : Steady P) (k : Stand) {s : State} (h : P s) :
    P (forceLost k s) := by
  unfold forceLost
  extract_lets +onlyGivenNames st
  extract_lets +onlyGivenNames s1'
  have hs1' : P s1' := by
    dsimp only [s1']
    repeat' first
      | assumption
      | apply setStand_keeps H
      | apply setHeldFrom_keeps H
      | apply stopUnload_keeps H
      | intro _
      | split
      | dsimp only
  clear_value s1'
  repeat' first
    | assumption
    | apply setStand_keeps H
    | apply stopUnload_keeps H
    | intro _
    | split
    | dsimp only

theorem emptyEstimate_keeps (H : Steady P) (k : Stand) {s : State} (h : P s) :
    P (emptyEstimate k s) := by
  unfold emptyEstimate
  repeat' first
    | assumption
    | apply setStand_keeps H
    | intro _
    | split
    | dsimp only

theorem biteArrives_keeps (H : Steady P) (k : Stand) (n : SegNo) {s : State} (h : P s) :
    P (biteArrives k n s) := by
  unfold biteArrives
  repeat' first
    | assumption
    | apply setStand_keeps H
    | intro _
    | split
    | dsimp only

theorem biteCleared_keeps (H : Steady P) (k : Stand) {s : State} (h : P s) :
    P (biteCleared k s) := by
  unfold biteCleared
  repeat' first
    | assumption
    | apply setStand_keeps H
    | intro _
    | split
    | dsimp only

theorem judgeAtRun_keeps (H : Steady P) (k : Stand) {s : State} (h : P s) :
    P (judgeAtRun k s) := by
  unfold judgeAtRun
  extract_lets +onlyGivenNames st
  repeat' first
    | assumption
    | apply setStand_keeps H
    | intro _
    | split
    | dsimp only


/-! ### Actuators -/

theorem sendCommand_keeps (H : Steady P) (k : Stand) (c : Command) {s : State} (h : P s) :
    P (sendCommand k c s) := by
  exact H.other (s := s) rfl h

theorem answerCommand_keeps (H : Steady P) (k : Stand) {s : State} (h : P s) :
    P (answerCommand k s) := by
  unfold answerCommand
  extract_lets +onlyGivenNames a
  repeat' first
    | assumption
    | apply setActuator_keeps H
    | intro _
    | split
    | dsimp only

theorem reachedOpen_keeps (H : Steady P) (k : Stand) {s : State} (h : P s) :
    P (reachedOpen k s) := by
  unfold reachedOpen
  extract_lets x
  have hx : P x := by
    dsimp only [x]
    split
    · exact h
    · exact H.same h rfl
  clear_value x
  split
  · rename_i hc
    split
    · exact notify_keeps H _ (append_keeps H _ _ (H.safe hc.1 hx))
    · exact H.safe hc.1 hx
  · exact hx

theorem setActMode_keeps (H : Steady P) (k : Stand) (m : ActMode) {s : State} (h : P s) :
    P (setActMode k m s) := by
  unfold setActMode
  extract_lets +onlyGivenNames a old
  split
  · exact h
  extract_lets +onlyGivenNames s1
  have hs1 : P s1 := by
    dsimp only [s1]
    repeat' first
      | assumption
      | apply setActuator_keeps H
      | apply causeClears_keeps H
      | apply inactive_keeps H
      | apply causeArises_keeps H
      | split
  clear_value s1
  extract_lets +onlyGivenNames s2
  have hs2 : P s2 := by
    dsimp only [s2]
    repeat' first
      | assumption
      | apply setActuator_keeps H
      | apply causeClears_keeps H
      | apply inactive_keeps H
      | apply causeArises_keeps H
      | split
  clear_value s2
  extract_lets +onlyGivenNames s3
  have hs3 : P s3 := by
    dsimp only [s3]
    repeat' first
      | assumption
      | apply setActuator_keeps H
      | apply causeClears_keeps H
      | apply inactive_keeps H
      | apply causeArises_keeps H
      | split
  clear_value s3
  extract_lets +onlyGivenNames s4
  have hs4 : P s4 := by
    dsimp only [s4]
    repeat' first
      | assumption
      | apply setActuator_keeps H
      | apply causeClears_keeps H
      | apply inactive_keeps H
      | apply causeArises_keeps H
      | split
  clear_value s4
  extract_lets +onlyGivenNames s5
  have hs5 : P s5 := by
    dsimp only [s5]
    repeat' first
      | assumption
      | apply setActuator_keeps H
      | apply causeClears_keeps H
      | apply inactive_keeps H
      | apply causeArises_keeps H
      | split
  clear_value s5
  extract_lets +onlyGivenNames s6
  have hs6 : P s6 := by
    dsimp only [s6]
    repeat' first
      | assumption
      | apply setActuator_keeps H
      | apply causeClears_keeps H
      | apply inactive_keeps H
      | apply causeArises_keeps H
      | split
  clear_value s6
  
  split
  · exact reachedOpen_keeps H _ (inactive_keeps H _ _ hs6)
  · exact hs6

theorem takeGapSet_keeps (H : Steady P) (k : Stand) (reference : Int) {s : State} (h : P s) :
    P (takeGapSet k reference s) := by
  unfold takeGapSet
  extract_lets +onlyGivenNames a sendTo
  have hsend : ∀ t, P t → P (sendTo t) := fun t ht => sendCommand_keeps H _ _ (setActuator_keeps H _ _ ht)
  clear_value sendTo
  repeat' first
    | assumption
    | apply hsend
    | apply setActuator_keeps H
    | apply setActMode_keeps H
    | split

theorem handOpen_keeps (H : Steady P) (k : Stand) {s : State} (h : P s) :
    P (handOpen k s) := by
  unfold handOpen
  extract_lets +onlyGivenNames a
  extract_lets +onlyGivenNames s1'
  have hs1' : P s1' := by
    dsimp only [s1']
    repeat' first
      | assumption
      | apply setActuator_keeps H
      | apply causeClears_keeps H
      | apply inactive_keeps H
      | apply sendCommand_keeps H
      | apply setActMode_keeps H
      | intro _
      | split
      | dsimp only
  clear_value s1'
  extract_lets +onlyGivenNames s2'
  have hs2' : P s2' := by
    dsimp only [s2']
    repeat' first
      | assumption
      | apply setActuator_keeps H
      | apply causeClears_keeps H
      | apply inactive_keeps H
      | apply sendCommand_keeps H
      | apply setActMode_keeps H
      | intro _
      | split
      | dsimp only
  clear_value s2'
  extract_lets +onlyGivenNames s3'
  have hs3' : P s3' := by
    dsimp only [s3']
    repeat' first
      | assumption
      | apply setActuator_keeps H
      | apply causeClears_keeps H
      | apply inactive_keeps H
      | apply sendCommand_keeps H
      | apply setActMode_keeps H
      | intro _
      | split
      | dsimp only
  clear_value s3'
  repeat' first
    | assumption
    | apply setActuator_keeps H
    | apply causeClears_keeps H
    | apply inactive_keeps H
    | apply sendCommand_keeps H
    | apply setActMode_keeps H
    | intro _
    | split
    | dsimp only

theorem judgeGapSample_keeps (H : Steady P) (k : Stand) (v : Int) {s : State} (h : P s) :
    P (judgeGapSample k v s) := by
  unfold judgeGapSample
  extract_lets +onlyGivenNames a
  repeat' first
    | assumption
    | apply setActMode_keeps H
    | apply causeClears_keeps H
    | apply inactive_keeps H
    | intro _
    | split
    | dsimp only

theorem actuatorAtStop_keeps (H : Steady P) (k : Stand) {s : State} (h : P s) :
    P (actuatorAtStop k s) := by
  unfold actuatorAtStop
  extract_lets +onlyGivenNames s1'
  have hs1' : P s1' := by
    dsimp only [s1']
    repeat' first
      | assumption
      | apply setActMode_keeps H
      | apply setActuator_keeps H
      | intro _
      | split
      | dsimp only
  clear_value s1'
  repeat' first
    | assumption
    | apply setActMode_keeps H
    | apply setActuator_keeps H
    | intro _
    | split
    | dsimp only

theorem actuatorAtTripReset_keeps (H : Steady P) (k : Stand) {s : State} (h : P s) :
    P (actuatorAtTripReset k s) := by
  unfold actuatorAtTripReset
  extract_lets +onlyGivenNames m
  extract_lets +onlyGivenNames s1'
  have hs1' : P s1' := by
    dsimp only [s1']
    repeat' first
      | assumption
      | apply setActMode_keeps H
      | apply setActuator_keeps H
      | apply inactive_keeps H
      | intro _
      | split
      | dsimp only
  clear_value s1'
  repeat' first
    | assumption
    | apply setActMode_keeps H
    | apply setActuator_keeps H
    | apply inactive_keeps H
    | intro _
    | split
    | dsimp only


/-! ### Protection -/

theorem endRun_keeps (H : Steady P) {s : State} (h : P s) :
    P (endRun s) := by
  unfold endRun
  split
  · exact h
  · rename_i r _
    extract_lets +onlyGivenNames s1
    have hs1 : P s1 := by
      dsimp only [s1]
      repeat' first
        | assumption
        | apply append_keeps H
        | apply inactive_keeps H
        | split
    clear_value s1
    extract_lets +onlyGivenNames s2
    have hs2 : P s2 := by
      dsimp only [s2]
      repeat' first
        | assumption
        | apply append_keeps H
        | apply inactive_keeps H
        | split
    clear_value s2
    exact H.same hs2 rfl

theorem leaveRun_keeps (H : Steady P) {s : State} (h : P s) :
    P (leaveRun s) := by
  exact allInactive_keeps H _ (allInactive_keeps H _ (H.other (s := s) rfl h))

theorem raise_keeps (H : Raises P) (k : Kind) (loc : Nat) {s : State} (h : P s) :
    P (raise k loc s) := by
  unfold raise
  repeat' first
    | assumption
    | apply raiseAll_keeps H
    | intro _
    | split
    | dsimp only

theorem raiseMomentary_keeps (H : Raises P) (k : Kind) {s : State} (h : P s) :
    P (raiseMomentary k s) := by
  unfold raiseMomentary
  repeat' first
    | assumption
    | apply raise_keeps H
    | apply inactive_keeps H.steady
    | intro _
    | split
    | dsimp only

theorem lossesInactive_keeps (H : Steady P) {s : State} (h : P s) :
    P (lossesInactive s) := by
  exact foldl_keeps (fun s k h => allInactive_keeps H k h) _ h

theorem forceConditionsEnd_keeps (H : Steady P) (k : Stand) {s : State} (h : P s) :
    P (forceConditionsEnd k s) := by
  unfold forceConditionsEnd
  repeat' first
    | assumption
    | apply inactive_keeps H
    | intro _
    | split
    | dsimp only

theorem judgeForceLimits_keeps (H : Raises P) (k : Stand) (f : Int) {s : State} (h : P s) :
    P (judgeForceLimits k f s) := by
  unfold judgeForceLimits
  repeat' first
    | assumption
    | apply inactive_keeps H.steady
    | apply raiseAll_keeps H
    | intro _
    | split
    | dsimp only

theorem judgeTension_keeps (H : Steady P) (j : Interstand) (v : Int) {s : State} (h : P s) :
    P (judgeTension j v s) := by
  unfold judgeTension
  extract_lets +onlyGivenNames below
  extract_lets +onlyGivenNames t
  extract_lets +onlyGivenNames s1'
  have hs1' : P s1' := by
    dsimp only [s1']
    repeat' first
      | assumption
      | apply setBreak_keeps H
      | apply inactive_keeps H
      | intro _
      | split
      | dsimp only
  clear_value s1'
  repeat' first
    | assumption
    | apply setBreak_keeps H
    | apply inactive_keeps H
    | intro _
    | split
    | dsimp only

theorem stopRunningBreaks_keeps (H : Steady P) {s : State} (h : P s) :
    P (stopRunningBreaks s) := by
  exact foldl_keeps (fun s j h => setBreak_keeps H _ _ h) _ h

theorem judgeExitSpeed_keeps (H : Steady P) (v : Int) {s : State} (h : P s) :
    P (judgeExitSpeed v s) := by
  unfold judgeExitSpeed
  split
  · exact stopRunningBreaks_keeps H h
  · exact h

theorem tensionLost_keeps (H : Steady P) (j : Interstand) {s : State} (h : P s) :
    P (tensionLost j s) := by
  unfold tensionLost
  repeat' first
    | assumption
    | apply setBreak_keeps H
    | apply inactive_keeps H
    | intro _
    | split
    | dsimp only


/-! ### Schedules -/

theorem removeUnreferenced_keeps (H : Steady P) {s : State} (h : P s) :
    P (removeUnreferenced s) := by
  refine H.entries _ (List.length_filter_le _ _) ?_ h
  rw [List.filter_filter]
  congr 1
  apply List.filter_congr
  intro e _
  cases e.isEntry <;> rfl

theorem modifyEntry_keeps (H : Steady P) (t : Nat) (f : InForce → InForce) (hf : ∀ e, (f e).isEntry = e.isEntry)
    {s : State} (h : P s) : P (modifyEntry t f s) := by
  refine H.entries _ (by simp) ?_ h
  rw [List.filter_map, List.length_map]
  congr 1
  apply List.filter_congr
  intro e _
  show (if e.sched.tag = t then f e else e).isEntry = e.isEntry
  split
  · exact hf e
  · rfl

theorem addRef_keeps (H : Steady P) (t : Nat) {s : State} (h : P s) :
    P (addRef t s) := by
  unfold addRef
  refine modifyEntry_keeps H _ _ ?_ h
  exact fun _ => rfl

theorem dropRef_keeps (H : Steady P) (t : Nat) {s : State} (h : P s) :
    P (dropRef t s) := by
  unfold dropRef
  refine removeUnreferenced_keeps H (modifyEntry_keeps H _ _ ?_ h)
  exact fun _ => rfl

theorem switchStand_keeps (H : Steady P) (k : Stand) (n : SegNo) {s : State} (h : P s) :
    P (switchStand k n s) := by
  unfold switchStand
  split
  · split
    · exact h
    · exact append_keeps H _ _ (H.changes _ (by simp) h)
  · exact h

theorem completeTransition_keeps (H : Steady P) (n : SegNo) (c : CompletionCause) {s : State} (h : P s) :
    P (completeTransition n c s) := by
  unfold completeTransition
  split
  · exact H.changes _ (List.length_filter_le _ _) (notify_keeps H _ (append_keeps H _ _ h))
  · exact h

theorem scheduleArrival_keeps (H : Steady P) (p : PointNo) (n : SegNo) {s : State} (h : P s) :
    P (scheduleArrival p n s) := by
  unfold scheduleArrival
  repeat' first
    | assumption
    | apply switchStand_keeps H
    | apply completeTransition_keeps H
    | intro _
    | split
    | dsimp only

theorem cancelTransition_keeps (H : Steady P) (t : Transition) {s : State} (h : P s) :
    P (cancelTransition t s) := by
  unfold cancelTransition
  repeat' first
    | assumption
    | apply append_keeps H
    | apply notify_keeps H
    | intro _
    | split
    | dsimp only

theorem cancelTransitions_keeps (H : Steady P) {s : State} (h : P s) :
    P (cancelTransitions s) := by
  exact H.changes [] (Nat.zero_le _) (foldl_keeps (fun s t h => cancelTransition_keeps H t h) _ h)

theorem reduceTable_keeps (H : Steady P) {s : State} (h : P s) :
    P (reduceTable s) := by
  refine H.entries _ ?_ ?_ h
  · rw [List.length_map]
    exact List.length_filter_le _ _
  · rw [List.filter_map, List.length_map, List.filter_filter]
    congr 1
    apply List.filter_congr
    intro e _
    show (e.isEntry && e.isEntry) = e.isEntry
    cases e.isEntry <;> rfl

theorem takeSchedule_keeps (H : Tracks P) (head : Schedule) (rest : List Schedule) (g : Segment) (coil : CoilNo)
    {s : State} (hq : rest.length ≤ s.queue.length) (ht : s.table.length < Config.tableCapacity)
    (hc : s.transitions.length < Config.transitionCapacity) (h : P s) : P (takeSchedule head rest g coil s) := by
  unfold takeSchedule
  extract_lets +onlyGivenNames base new s1 s2 s3 s4 t s5 s6
  have h1 : P s1 := H.take rest new hq ht rfl h
  have h2 : P s2 := setSegment_keeps H.steady _ _ h1
  have h3 : P s3 := addRef_keeps H.steady _ h2
  have h4 : P s4 := dropRef_keeps H.steady _ h3
  have h5 : P s5 := H.change t hc h4
  exact notify_keeps H.steady _ (append_keeps H.steady _ _ h5)

theorem askSchedule_keeps (H : Tracks P) (g : Segment) (coil : CoilNo) {s : State} (h : P s) :
    P (askSchedule g coil s) := by
  unfold askSchedule
  split
  · exact h
  · rename_i head rest hq
    split
    · exact raiseMomentary_keeps H.toRaises _ (append_keeps H.steady _ _ h)
    · rename_i ht
      split
      · exact raiseMomentary_keeps H.toRaises _ (append_keeps H.steady _ _ h)
      · rename_i hc
        exact takeSchedule_keeps H _ _ _ _ (by rw [hq]; exact Nat.le_succ _) (Nat.lt_of_not_le ht) (Nat.lt_of_not_le hc) h


/-! ### Quality -/

theorem modifyReport_keeps (H : Steady P) (c : CoilNo) (f : CoilReport → CoilReport) {s : State} (h : P s) :
    P (modifyReport c f s) := by
  exact H.records _ (by simp) h

theorem closeReport_keeps (H : Steady P) (c : CoilNo) (st : ReportState) {s : State} (h : P s) :
    P (closeReport c st s) := by
  unfold closeReport
  split
  · exact notify_keeps H _ (append_keeps H _ _ (H.records _ (List.length_filter_le _ _) h))
  · exact h

theorem endRunOf_keeps (H : Steady P) (c : CoilNo) {s : State} (h : P s) :
    P (endRunOf c s) := by
  unfold endRunOf
  repeat' first
    | assumption
    | apply endRun_keeps H
    | intro _
    | split
    | dsimp only

theorem judgeCompletion_keeps (H : Steady P) (c : CoilNo) {s : State} (h : P s) :
    P (judgeCompletion c s) := by
  unfold judgeCompletion
  repeat' first
    | assumption
    | apply closeReport_keeps H
    | apply endRunOf_keeps H
    | intro _
    | split
    | dsimp only

theorem joinRun_keeps (H : Raises P) (coil : CoilNo) (n : SegNo) (dev : Int) (mark : MarkMode) {s : State} (h : P s) :
    P (joinRun coil n dev mark s) := by
  unfold joinRun
  extract_lets r
  split
  · exact raise_keeps H _ _ (H.steady.same h rfl)
  · exact H.steady.same h rfl

theorem applyVerdict_keeps (H : Raises P) (g : Segment) (v : Option Verdict) {s : State} (h : P s) :
    P (applyVerdict g v s) := by
  unfold applyVerdict
  repeat' first
    | assumption
    | apply joinRun_keeps H
    | apply setSegment_keeps H.steady
    | apply endRun_keeps H.steady
    | intro _
    | split
    | dsimp only

theorem releaseSegment_keeps (H : Steady P) (g : Segment) (c : ReleaseCause) (v : Option Verdict) {s : State} (h : P s) :
    P (releaseSegment g c v s) := by
  unfold releaseSegment
  extract_lets +onlyGivenNames s1
  have hs1 : P s1 := H.segments _ (by simp) h
  clear_value s1
  extract_lets +onlyGivenNames s2
  have hs2 : P s2 := by
    dsimp only [s2]
    repeat' first
      | assumption
      | apply endRunOf_keeps H
      | apply modifyReport_keeps H
      | apply judgeCompletion_keeps H
      | apply dropRef_keeps H
      | split
  clear_value s2
  extract_lets +onlyGivenNames s3
  have hs3 : P s3 := by
    dsimp only [s3]
    repeat' first
      | assumption
      | apply endRunOf_keeps H
      | apply modifyReport_keeps H
      | apply judgeCompletion_keeps H
      | apply dropRef_keeps H
      | split
  clear_value s3
  extract_lets +onlyGivenNames s4
  have hs4 : P s4 := by
    dsimp only [s4]
    repeat' first
      | assumption
      | apply endRunOf_keeps H
      | apply modifyReport_keeps H
      | apply judgeCompletion_keeps H
      | apply dropRef_keeps H
      | split
  clear_value s4
  extract_lets +onlyGivenNames s5
  have hs5 : P s5 := by
    dsimp only [s5]
    repeat' first
      | assumption
      | apply endRunOf_keeps H
      | apply modifyReport_keeps H
      | apply judgeCompletion_keeps H
      | apply dropRef_keeps H
      | split
  clear_value s5
  
  split
  · exact completeTransition_keeps H _ _ hs5
  · exact hs5

theorem releaseAll_keeps (H : Steady P) (c : ReleaseCause) {s : State} (h : P s) :
    P (releaseAll c s) := by
  unfold releaseAll
  repeat' first
    | assumption
    | apply releaseSegment_keeps H
    | refine foldl_keeps ?_ _ ?_
    | intro _
    | split
    | dsimp only

theorem closeAllReports_keeps (H : Steady P) (st : ReportState) {s : State} (h : P s) :
    P (closeAllReports st s) := by
  unfold closeAllReports
  repeat' first
    | assumption
    | apply closeReport_keeps H
    | refine foldl_keeps ?_ _ ?_
    | intro _
    | split
    | dsimp only


/-! ### Gap -/

theorem finishEvaluation_keeps (H : Steady P) (k : Stand) (p : StandParams) (t : StandTargets) (force : Option Int) (raw : Int) {s : State} (h : P s) :
    P (finishEvaluation k p t force raw s) := by
  unfold finishEvaluation
  extract_lets +onlyGivenNames st
  extract_lets +onlyGivenNames e
  extract_lets +onlyGivenNames s1'
  have hs1' : P s1' := by
    dsimp only [s1']
    repeat' first
      | assumption
      | apply setStand_keeps H
      | apply takeGapSet_keeps H
      | intro _
      | split
      | dsimp only
  clear_value s1'
  repeat' first
    | assumption
    | apply setStand_keeps H
    | apply takeGapSet_keeps H
    | intro _
    | split
    | dsimp only

theorem loadJudgement_keeps (H : Steady P) (k : Stand) (loaded : Bool) {s : State} (h : P s) :
    P (loadJudgement k loaded s) := by
  unfold loadJudgement
  dsimp only
  split
  · exact inactive_keeps H _ _ (setStand_keeps H _ _ h)
  · exact setStand_keeps H _ _ h

theorem accumulate_keeps (H : Steady P) (k : Stand) (x : Int) {s : State} (h : P s) : P (accumulate k x s) := by
  unfold accumulate
  dsimp only
  split
  · exact setStand_keeps H _ _ h
  · exact h

theorem gaugeEvaluation_keeps (H : Steady P) (k : Stand) (p : StandParams) (f : Int) (hgm : Option Int) {s : State} (h : P s) :
    P (gaugeEvaluation k p f hgm s) := by
  unfold gaugeEvaluation
  repeat' first
    | assumption
    | apply finishEvaluation_keeps H
    | intro _
    | split
    | dsimp only

theorem gapForceSample_keeps (H : Steady P) (k : Stand) (f : Int) {s : State} (h : P s) :
    P (gapForceSample k f s) := by
  unfold gapForceSample
  repeat' first
    | assumption
    | apply loadJudgement_keeps H
    | apply accumulate_keeps H
    | apply gaugeEvaluation_keeps H
    | intro _
    | split
    | dsimp only

theorem positionEvaluation_keeps (H : Steady P) (k : Stand) {s : State} (h : P s) :
    P (positionEvaluation k s) := by
  unfold positionEvaluation
  repeat' first
    | assumption
    | apply finishEvaluation_keeps H
    | intro _
    | split
    | dsimp only

theorem gapPosSample_keeps (H : Steady P) (k : Stand) {s : State} (h : P s) :
    P (gapPosSample k s) := by
  unfold gapPosSample
  extract_lets +onlyGivenNames s1'
  have hs1' : P s1' := by
    dsimp only [s1']
    repeat' first
      | assumption
      | apply positionEvaluation_keeps H
      | apply returnPoint_keeps H
      | intro _
      | split
      | dsimp only
  clear_value s1'
  repeat' first
    | assumption
    | apply positionEvaluation_keeps H
    | apply returnPoint_keeps H
    | intro _
    | split
    | dsimp only

theorem threadStand_keeps (H : Steady P) (e : InForce) (k : Stand) {s : State} (h : P s) :
    P (threadStand e k s) := by
  unfold threadStand
  dsimp only
  exact takeGapSet_keeps H _ _ (setStand_keeps H _ _ h)

theorem threadHold_keeps (H : Steady P) (k : Stand) {s : State} (h : P s) :
    P (threadHold k s) := by
  unfold threadHold
  repeat' first
    | assumption
    | apply causeArises_keeps H
    | intro _
    | split
    | dsimp only

theorem monitorTrim_keeps (H : Steady P) (k : Stand) (g : Segment) (mean : Option (Int × Nat)) {s : State} (h : P s) :
    P (monitorTrim k g mean s) := by
  unfold monitorTrim
  extract_lets +onlyGivenNames st
  repeat' first
    | assumption
    | apply setStand_keeps H
    | intro _
    | split
    | dsimp only


/-! ### Tracking -/

theorem arrive_keeps (H : Steady P) (p : PointNo) (n : SegNo) {s : State} (h : P s) :
    P (arrive p n s) := by
  unfold arrive
  extract_lets +onlyGivenNames s1'
  have hs1' : P s1' := by
    dsimp only [s1']
    repeat' first
      | assumption
      | apply biteArrives_keeps H
      | apply scheduleArrival_keeps H
      | intro _
      | split
      | dsimp only
  clear_value s1'
  repeat' first
    | assumption
    | apply biteArrives_keeps H
    | apply scheduleArrival_keeps H
    | intro _
    | split
    | dsimp only

theorem clearEarly_keeps (H : Steady P) (p : PointNo) {s : State} (h : P s) :
    P (clearEarly p s) := by
  unfold clearEarly
  repeat' first
    | assumption
    | apply setPoint_keeps H
    | apply inactive_keeps H
    | intro _
    | split
    | rfl
    | dsimp only

theorem startPoint_keeps (H : Steady P) (hst : ∀ {s : State} (p : PointNo) (x : Point), P s → P (s.setPoint p x))
    (p : PointNo) (t : Micros) {s : State} (h : P s) : P (startPoint p t s) := by
  unfold startPoint
  split
  · exact h
  · rename_i n _
    extract_lets +onlyGivenNames src s1
    have hs1 : P s1 := hst _ _ h
    clear_value s1
    extract_lets +onlyGivenNames s2
    have hs2 : P s2 := by
      dsimp only [s2]
      repeat' first
        | assumption
        | apply clearEarly_keeps H
        | apply arrive_keeps H
        | split
    clear_value s2
    extract_lets +onlyGivenNames s3
    have hs3 : P s3 := by
      dsimp only [s3]
      repeat' first
        | assumption
        | apply clearEarly_keeps H
        | apply arrive_keeps H
        | split
    clear_value s3

    split
    · exact returnPoint_keeps H _ hs3
    · exact hs3

theorem earlyStart_keeps (H : Raises P) (p : PointNo) {s : State} (h : P s) :
    P (earlyStart p s) := by
  unfold earlyStart
  repeat' first
    | assumption
    | apply raise_keeps H
    | apply setPoint_keeps H.steady
    | intro _
    | split
    | rfl
    | dsimp only

theorem startingEvent_tracked (H : Tracks P) (p : PointNo) (t : Micros) {s : State} (h : P s) :
    P (startingEvent p t s) := by
  unfold startingEvent
  split
  · split
    · split
      · exact startPoint_keeps H.steady H.start _ _ h
      · exact earlyStart_keeps H.toRaises _ h
    · exact h
  · exact h

theorem moveOff_keeps (H : Steady P) (n : SegNo) (p : PointNo) {s : State} (h : P s) :
    P (moveOff n p s) := by
  unfold moveOff
  extract_lets +onlyGivenNames pt
  repeat' first
    | assumption
    | apply setPoint_keeps H
    | apply inactive_keeps H
    | apply arrive_keeps H
    | intro _
    | split
    | rfl
    | dsimp only

theorem forceRelease_keeps (H : Raises P) {s : State} (h : P s) :
    P (forceRelease s) := by
  unfold forceRelease
  split
  · exact h
  · dsimp only
    exact raise_keeps H _ _ (releaseSegment_keeps H.steady _ _ _ (foldl_keeps (fun s p h => moveOff_keeps H.steady _ p h) _ h))

theorem passX0_keeps (H : Tracks P) (n : SegNo) {s : State} (h : P s) :
    P (passX0 n s) := by
  unfold passX0
  extract_lets +onlyGivenNames pt
  repeat' first
    | assumption
    | apply openNext_keeps H
    | apply setSegment_keeps H.steady
    | intro _
    | split
    | dsimp only

theorem passBite_keeps (H : Steady P) (k : Stand) (n : SegNo) {s : State} (h : P s) :
    P (passBite k n s) := by
  unfold passBite
  extract_lets +onlyGivenNames est
  extract_lets +onlyGivenNames s1'
  have hs1' : P s1' := by
    dsimp only [s1']
    repeat' first
      | assumption
      | apply setSegment_keeps H
      | apply returnPoint_keeps H
      | apply emptyEstimate_keeps H
      | intro _
      | split
      | dsimp only
  clear_value s1'
  repeat' first
    | assumption
    | apply setSegment_keeps H
    | apply returnPoint_keeps H
    | apply emptyEstimate_keeps H
    | intro _
    | split
    | dsimp only

theorem passX1_keeps (H : Steady P) (n : SegNo) {s : State} (h : P s) :
    P (passX1 n s) := by
  unfold passX1
  extract_lets +onlyGivenNames pt
  extract_lets +onlyGivenNames m
  extract_lets +onlyGivenNames s1'
  have hs1' : P s1' := by
    dsimp only [s1']
    repeat' first
      | assumption
      | apply setSegment_keeps H
      | apply monitorTrim_keeps H
      | intro _
      | split
      | dsimp only
  clear_value s1'
  repeat' first
    | assumption
    | apply setSegment_keeps H
    | apply monitorTrim_keeps H
    | intro _
    | split
    | dsimp only

theorem passX6_keeps (H : Raises P) (n : SegNo) {s : State} (h : P s) :
    P (passX6 n s) := by
  unfold passX6
  extract_lets +onlyGivenNames pt
  extract_lets +onlyGivenNames m
  extract_lets +onlyGivenNames s1'
  have hs1' : P s1' := by
    dsimp only [s1']
    repeat' first
      | assumption
      | apply setSegment_keeps H.steady
      | apply monitorTrim_keeps H.steady
      | apply applyVerdict_keeps H
      | apply releaseSegment_keeps H.steady
      | apply inactive_keeps H.steady
      | intro _
      | split
      | dsimp only
  clear_value s1'
  repeat' first
    | assumption
    | apply setSegment_keeps H.steady
    | apply monitorTrim_keeps H.steady
    | apply applyVerdict_keeps H
    | apply releaseSegment_keeps H.steady
    | apply inactive_keeps H.steady
    | intro _
    | split
    | dsimp only

theorem passageActions_keeps (H : Tracks P) (p : PointNo) (n : SegNo) {s : State} (h : P s) :
    P (passageActions p n s) := by
  unfold passageActions
  repeat' first
    | assumption
    | apply passBite_keeps H.steady
    | apply passX0_keeps H
    | apply passX1_keeps H.steady
    | apply passX6_keeps H.toRaises
    | intro _
    | split
    | dsimp only

theorem unclamp_keeps (H : Steady P) (p : PointNo) (n : SegNo) {s : State} (h : P s) :
    P (unclamp p n s) := by
  unfold unclamp
  extract_lets +onlyGivenNames pt
  repeat' first
    | assumption
    | apply setPoint_keeps H
    | apply inactive_keeps H
    | intro _
    | split
    | rfl
    | dsimp only

theorem passage_keeps (H : Tracks P) (p : PointNo) {s : State} (h : P s) :
    P (passage p s) := by
  unfold passage
  extract_lets +onlyGivenNames pt n excess s1
  have h1 : P s1 := passageActions_keeps H _ _ h
  clear_value s1
  extract_lets +onlyGivenNames src s2
  have h2 : P s2 := setPoint_keeps H.steady _ _ rfl h1
  clear_value s2
  extract_lets +onlyGivenNames s3
  have h3 : P s3 := by
    dsimp only [s3]
    split
    · exact unclamp_keeps H.steady _ _ h2
    · exact h2
  exact arrive_keeps H.steady _ _ h3

theorem clampPoint_keeps (H : Raises P) (p : PointNo) {s : State} (h : P s) :
    P (clampPoint p s) := by
  unfold clampPoint
  dsimp only
  split
  · exact setPoint_keeps H.steady _ _ rfl h
  · exact raise_keeps H _ _ (setPoint_keeps H.steady _ _ rfl h)

theorem passages_keeps (H : Tracks P) (fuel : Nat) (p : PointNo) {s : State} (h : P s) : P (passages fuel p s) := by
  induction fuel generalizing s with
  | zero => exact h
  | succ fuel ih =>
    unfold passages
    split
    · exact h
    · split
      · exact setPoint_keeps H.steady _ _ rfl h
      · split
        · exact clampPoint_keeps H.toRaises _ h
        · exact ih (passage_keeps H _ h)

theorem advanceBy_keeps (H : Tracks P) (p : PointNo) (d : Nat) {s : State} (h : P s) : P (advanceBy p d s) := by
  unfold advanceBy
  exact passages_keeps H _ _ (setPoint_keeps H.steady _ _ rfl h)

theorem speedAdvance_keeps (H : Tracks P) (p : PointNo) (t : Micros) {s : State} (h : P s) :
    P (speedAdvance p t s) := by
  unfold speedAdvance
  extract_lets +onlyGivenNames pt
  extract_lets +onlyGivenNames k
  extract_lets +onlyGivenNames s1'
  have hs1' : P s1' := by
    dsimp only [s1']
    repeat' first
      | assumption
      | apply advanceBy_keeps H
      | apply setPoint_keeps H.steady
      | intro _
      | split
      | rfl
      | dsimp only
  clear_value s1'
  repeat' first
    | assumption
    | apply advanceBy_keeps H
    | apply setPoint_keeps H.steady
    | intro _
    | split
    | rfl
    | dsimp only

theorem speedSample_tracked (H : Tracks P) (k : Stand) (v : Int) (t : Micros) {s : State} (h : P s) :
    P (speedSample k v t s) := by
  unfold speedSample
  extract_lets +onlyGivenNames s1'
  have hs1' : P s1' := by
    dsimp only [s1']
    repeat' first
      | assumption
      | apply speedAdvance_keeps H
      | apply setSpeed_keeps H.steady
      | refine foldl_keeps ?_ _ ?_
      | intro _
      | split
      | dsimp only
  clear_value s1'
  repeat' first
    | assumption
    | apply speedAdvance_keeps H
    | apply setSpeed_keeps H.steady
    | refine foldl_keeps ?_ _ ?_
    | intro _
    | split
    | dsimp only

theorem lengthSample_tracked (H : Tracks P) (inc : Int) (t : Micros) {s : State} (h : P s) :
    P (lengthSample inc t s) := by
  unfold lengthSample
  repeat' first
    | assumption
    | apply advanceBy_keeps H
    | apply setPoint_keeps H.steady
    | intro _
    | split
    | rfl
    | dsimp only

theorem closingAdvance_tracked (H : Tracks P) (t : Micros) {s : State} (h : P s) :
    P (closingAdvance t s) := by
  unfold closingAdvance
  repeat' first
    | assumption
    | apply speedAdvance_keeps H
    | intro _
    | split
    | dsimp only

theorem gaugeReading_keeps (H : Steady P) (p : PointNo) (v : Int) {s : State} (h : P s) :
    P (gaugeReading p v s) := by
  unfold gaugeReading
  extract_lets +onlyGivenNames pt
  repeat' first
    | assumption
    | apply setPoint_keeps H
    | intro _
    | split
    | rfl
    | dsimp only

theorem trackForceSample_keeps (H : Fields P) (k : Stand) (f : Int) {s : State} (h : P s) :
    P (trackForceSample k f s) := by
  unfold trackForceSample
  repeat' first
    | assumption
    | apply startingEvent_keeps H
    | intro _
    | split
    | dsimp only

theorem arrivalsMade_keeps (H : Steady P) (n : SegNo) {s : State} (h : P s) :
    P (arrivalsMade n s) := by
  refine foldl_keeps (fun s p h => ?_) _ h
  split
  · exact scheduleArrival_keeps H _ _ h
  · exact h

theorem acceptWeld_keeps (H : Tracks P) (g : Segment) {s : State} (hr : s.reports.length < Config.reportCapacity)
    (h : P s) : P (acceptWeld g s) := by
  unfold acceptWeld
  extract_lets +onlyGivenNames coil s1 s2 s3 s4 s5 s6 s7
  have h1 : P s1 := H.steady.same h rfl
  have h2 : P s2 := setSegment_keeps H.steady _ _ h1
  have h3 : P s3 := modifyReport_keeps H.steady _ _ h2
  have r3 : s3.reports.length < Config.reportCapacity := by
    show (List.map _ s.reports).length < _
    rw [List.length_map]
    exact hr
  have h4 : P s4 := H.report _ r3 h3
  have h5 : P s5 := judgeCompletion_keeps H.steady _ h4
  have h6 : P s6 := askSchedule_keeps H _ _ h5
  have h7 : P s7 := arrivalsMade_keeps H.steady _ h6
  clear_value s7
  split
  · exact modifyReport_keeps H.steady _ _ h7
  · exact h7

theorem weldPulse_keeps (H : Tracks P) {s : State} (h : P s) :
    P (weldPulse s) := by
  unfold weldPulse
  split
  · split
    · exact h
    · split
      · exact raiseMomentary_keeps H.toRaises _ h
      · rename_i hc
        exact acceptWeld_keeps H _ (Nat.lt_of_not_le fun hh => hc (Or.inr hh)) h
  · exact h

theorem unstartPoints_keeps (H : Steady P) {s : State} (h : P s) :
    P (unstartPoints s) := by
  unfold unstartPoints
  extract_lets +onlyGivenNames s1 s2
  have h1 : P s1 := H.same (H.unstart h) rfl
  have h2 : P s2 := forStands_keeps (fun k s h => biteCleared_keeps H k h) h1
  exact allInactive_keeps H _ (allInactive_keeps H _ (allInactive_keeps H _ h2))

theorem clearTracking_keeps (H : Steady P) (c : ReleaseCause) (st : ReportState) {s : State} (h : P s) :
    P (clearTracking c st s) := by
  exact unstartPoints_keeps H (reduceTable_keeps H (cancelTransitions_keeps H (closeAllReports_keeps H _ (releaseAll_keeps H _ h))))


/-! ### Measurement -/

theorem readersLose_keeps (H : Steady P) (i : Item) {s : State} (h : P s) :
    P (readersLose i s) := by
  unfold readersLose
  split
  · dsimp only
    split
    · exact stopRunningBreaks_keeps H (setSpeed_keeps H _ _ h)
    · exact setSpeed_keeps H _ _ h
  · exact forceConditionsEnd_keeps H _ (forceLost_keeps H _ h)
  · exact causeArises_keeps H _ _ h
  · exact tensionLost_keeps H _ h
  all_goals exact h

theorem readersRegain_keeps (H : Fields P) (i : Item) {s : State} (h : P s) :
    P (readersRegain i s) := by
  unfold readersRegain
  repeat' first
    | assumption
    | apply causeClears_keeps H.steady
    | apply closingAdvance_keeps H
    | intro _
    | split
    | dsimp only

theorem deliverForce_keeps (H : Fields P) (k : Stand) (v : Int) (o : ForceOrder) (before : Bool) {s : State} (h : P s) :
    P (deliverForce k v o before s) := by
  unfold deliverForce
  extract_lets +onlyGivenNames g
  extract_lets +onlyGivenNames t
  extract_lets +onlyGivenNames p
  repeat' first
    | assumption
    | apply takeSample_keeps H.steady k before (fun s h => gapForceSample_keeps H.steady k v h)
    | apply trackForceSample_keeps H
    | apply judgeForceLimits_keeps H.toRaises
    | intro _
    | split
    | dsimp only

theorem deliver_keeps (H : Fields P) (i : Item) (v : Int) (strip : Bool) (o : ReaderOrder) {s : State} (h : P s) :
    P (deliver i v strip o s) := by
  unfold deliver
  repeat' first
    | assumption
    | apply gaugeReading_keeps H.steady
    | apply lengthSample_keeps H
    | apply speedSample_keeps H
    | apply judgeExitSpeed_keeps H.steady
    | apply deliverForce_keeps H
    | apply takeSample_keeps H.steady _ _ (fun s h => gapPosSample_keeps H.steady _ h)
    | apply judgeGapSample_keeps H.steady
    | apply judgeTension_keeps H.steady
    | intro _
    | split
    | dsimp only

theorem markInvalid_keeps (H : Steady P) (e : EntryNo) (c : InvalidCause) {s : State} (h : P s) :
    P (markInvalid e c s) := by
  unfold markInvalid
  extract_lets +onlyGivenNames ch
  repeat' first
    | assumption
    | apply setChannel_keeps H
    | intro _
    | split
    | dsimp only

theorem loseChannel_keeps (H : Raises P) (e : EntryNo) (c : InvalidCause) {s : State} (h : P s) :
    P (loseChannel e c s) := by
  unfold loseChannel
  extract_lets +onlyGivenNames ch
  extract_lets +onlyGivenNames s1'
  have hs1' : P s1' := by
    dsimp only [s1']
    repeat' first
      | assumption
      | apply markInvalid_keeps H.steady
      | apply raiseAll_keeps H
      | apply readersLose_keeps H.steady
      | intro _
      | split
      | dsimp only
  clear_value s1'
  repeat' first
    | assumption
    | apply markInvalid_keeps H.steady
    | apply raiseAll_keeps H
    | apply readersLose_keeps H.steady
    | intro _
    | split
    | dsimp only

theorem acceptSample_keeps (H : Fields P) (e : EntryNo) (cfg : ChannelConfig) (v : Int) {s : State} (h : P s) :
    P (acceptSample e cfg v s) := by
  unfold acceptSample
  extract_lets +onlyGivenNames ch
  extract_lets +onlyGivenNames s1'
  have hs1' : P s1' := by
    dsimp only [s1']
    repeat' first
      | assumption
      | apply setChannel_keeps H.steady
      | apply inactive_keeps H.steady
      | apply readersRegain_keeps H
      | intro _
      | split
      | dsimp only
  clear_value s1'
  extract_lets +onlyGivenNames s2'
  have hs2' : P s2' := by
    dsimp only [s2']
    repeat' first
      | assumption
      | apply setChannel_keeps H.steady
      | apply inactive_keeps H.steady
      | apply readersRegain_keeps H
      | intro _
      | split
      | dsimp only
  clear_value s2'
  repeat' first
    | assumption
    | apply setChannel_keeps H.steady
    | apply inactive_keeps H.steady
    | apply readersRegain_keeps H
    | intro _
    | split
    | dsimp only

theorem rejectSample_keeps (H : Raises P) (e : EntryNo) {s : State} (h : P s) :
    P (rejectSample e s) := by
  unfold rejectSample
  extract_lets +onlyGivenNames ch
  extract_lets +onlyGivenNames n
  extract_lets +onlyGivenNames s1'
  have hs1' : P s1' := by
    dsimp only [s1']
    repeat' first
      | assumption
      | apply setChannel_keeps H.steady
      | apply loseChannel_keeps H
      | intro _
      | split
      | dsimp only
  clear_value s1'
  repeat' first
    | assumption
    | apply setChannel_keeps H.steady
    | apply loseChannel_keeps H
    | intro _
    | split
    | dsimp only

theorem takeLength_keeps (H : Fields P) (e : EntryNo) (cfg : ChannelConfig) (raw : BitVec 32) (o : ReaderOrder) {s : State} (h : P s) :
    P (takeLength e cfg raw o s) := by
  unfold takeLength
  extract_lets +onlyGivenNames field
  extract_lets +onlyGivenNames setRef
  repeat' first
    | assumption
    | apply setChannel_keeps H.steady
    | apply acceptSample_keeps H
    | apply deliver_keeps H
    | apply rejectSample_keeps H.toRaises
    | intro _
    | split
    | dsimp only

theorem takeValue_keeps (H : Fields P) (e : EntryNo) (cfg : ChannelConfig) (f : SensorFields) (o : ReaderOrder) {s : State} (h : P s) :
    P (takeValue e cfg f o s) := by
  unfold takeValue
  extract_lets +onlyGivenNames v
  repeat' first
    | assumption
    | apply deliver_keeps H
    | apply acceptSample_keeps H
    | apply rejectSample_keeps H.toRaises
    | intro _
    | split
    | dsimp only

theorem takeStrip_keeps (H : Fields P) (e : EntryNo) (i : Item) (strip : Bool) {s : State} (h : P s) :
    P (takeStrip e i strip s) := by
  unfold takeStrip
  repeat' first
    | assumption
    | apply setChannel_keeps H.steady
    | apply startingEvent_keeps H
    | intro _
    | split
    | dsimp only

theorem routeFrame_keeps (H : Fields P) (l : LinkNo) (f : SensorFields) (o : ReaderOrder) {s : State} (h : P s) :
    P (routeFrame l f o s) := by
  unfold routeFrame
  repeat' first
    | assumption
    | apply loseChannel_keeps H.toRaises
    | apply takeStrip_keeps H
    | apply takeLength_keeps H
    | apply takeValue_keeps H
    | intro _
    | split
    | dsimp only

theorem notifyLink_keeps (H : Steady P) (l : LinkNo) (prev : LinkMode) (c : LinkCause) {s : State} (h : P s) :
    P (notifyLink l prev c s) := by
  unfold notifyLink
  extract_lets +onlyGivenNames k
  repeat' first
    | assumption
    | apply notify_keeps H
    | intro _
    | split
    | dsimp only

theorem markLinkLost_keeps (H : Steady P) (l : LinkNo) {s : State} (h : P s) :
    P (markLinkLost l s) := by
  unfold markLinkLost
  repeat' first
    | assumption
    | apply markInvalid_keeps H
    | refine foldl_keeps ?_ _ ?_
    | intro _
    | split
    | dsimp only

theorem linkLost_keeps (H : Raises P) (l : LinkNo) (m : LinkMode) (c : LinkCause) {s : State} (h : P s) :
    P (linkLost l m c s) := by
  unfold linkLost
  extract_lets +onlyGivenNames k
  extract_lets +onlyGivenNames items
  extract_lets +onlyGivenNames s1'
  have hs1' : P s1' := by
    dsimp only [s1']
    repeat' first
      | assumption
      | apply setLink_keeps H.steady
      | apply inactive_keeps H.steady
      | apply markLinkLost_keeps H.steady
      | apply readersLose_keeps H.steady
      | apply notifyLink_keeps H.steady
      | apply raiseAll_keeps H
      | refine foldl_keeps ?_ _ ?_
      | intro _
      | split
      | dsimp only
  clear_value s1'
  extract_lets +onlyGivenNames s2'
  have hs2' : P s2' := by
    dsimp only [s2']
    repeat' first
      | assumption
      | apply setLink_keeps H.steady
      | apply inactive_keeps H.steady
      | apply markLinkLost_keeps H.steady
      | apply readersLose_keeps H.steady
      | apply notifyLink_keeps H.steady
      | apply raiseAll_keeps H
      | refine foldl_keeps ?_ _ ?_
      | intro _
      | split
      | dsimp only
  clear_value s2'
  extract_lets +onlyGivenNames s3'
  have hs3' : P s3' := by
    dsimp only [s3']
    repeat' first
      | assumption
      | apply setLink_keeps H.steady
      | apply inactive_keeps H.steady
      | apply markLinkLost_keeps H.steady
      | apply readersLose_keeps H.steady
      | apply notifyLink_keeps H.steady
      | apply raiseAll_keeps H
      | refine foldl_keeps ?_ _ ?_
      | intro _
      | split
      | dsimp only
  clear_value s3'
  extract_lets +onlyGivenNames s4'
  have hs4' : P s4' := by
    dsimp only [s4']
    repeat' first
      | assumption
      | apply setLink_keeps H.steady
      | apply inactive_keeps H.steady
      | apply markLinkLost_keeps H.steady
      | apply readersLose_keeps H.steady
      | apply notifyLink_keeps H.steady
      | apply raiseAll_keeps H
      | refine foldl_keeps ?_ _ ?_
      | intro _
      | split
      | dsimp only
  clear_value s4'
  extract_lets +onlyGivenNames losses
  extract_lets +onlyGivenNames down
  repeat' first
    | assumption
    | apply setLink_keeps H.steady
    | apply inactive_keeps H.steady
    | apply markLinkLost_keeps H.steady
    | apply readersLose_keeps H.steady
    | apply notifyLink_keeps H.steady
    | apply raiseAll_keeps H
    | refine foldl_keeps ?_ _ ?_
    | intro _
    | split
    | dsimp only

theorem retrainLink_keeps (H : Steady P) (l : LinkNo) (c : LinkCause) {s : State} (h : P s) :
    P (retrainLink l c s) := by
  unfold retrainLink
  repeat' first
    | assumption
    | apply notifyLink_keeps H
    | apply setLink_keeps H
    | intro _
    | split
    | dsimp only

theorem takeGoodFrame_keeps (H : Fields P) (l : LinkNo) (f : SensorFields) (o : ReaderOrder) {s : State} (h : P s) :
    P (takeGoodFrame l f o s) := by
  unfold takeGoodFrame
  extract_lets +onlyGivenNames k
  repeat' first
    | assumption
    | apply setLink_keeps H.steady
    | apply notifyLink_keeps H.steady
    | apply inactive_keeps H.steady
    | apply routeFrame_keeps H
    | intro _
    | split
    | dsimp only

theorem takeCrcError_keeps (H : Steady P) (l : LinkNo) {s : State} (h : P s) :
    P (takeCrcError l s) := by
  unfold takeCrcError
  extract_lets +onlyGivenNames k0
  extract_lets +onlyGivenNames k
  repeat' first
    | assumption
    | apply setLink_keeps H
    | apply retrainLink_keeps H
    | intro _
    | split
    | dsimp only

theorem takeSensorFrame_keeps (H : Fields P) (l : LinkNo) (o : ReaderOrder) (f : Option (List Byte)) {s : State} (h : P s) :
    P (takeSensorFrame l o f s) := by
  unfold takeSensorFrame
  repeat' first
    | assumption
    | apply takeGoodFrame_keeps H
    | apply takeCrcError_keeps H.steady
    | intro _
    | split
    | dsimp only

theorem sensorBytes_keeps (H : Fields P) (l : LinkNo) (bytes : List Byte) (o : ReaderOrder) {s : State} (h : P s) :
    P (sensorBytes l bytes o s) := by
  unfold sensorBytes
  extract_lets +onlyGivenNames k
  repeat' first
    | assumption
    | apply takeSensorFrame_keeps H
    | apply setLink_keeps H.steady
    | refine foldl_keeps ?_ _ ?_
    | intro _
    | split
    | dsimp only

theorem frameTimerExpires_keeps (H : Raises P) (l : LinkNo) {s : State} (h : P s) :
    P (frameTimerExpires l s) := by
  unfold frameTimerExpires
  extract_lets +onlyGivenNames k
  repeat' first
    | assumption
    | apply setLink_keeps H.steady
    | apply linkLost_keeps H
    | intro _
    | split
    | dsimp only

theorem staleExpires_keeps (H : Steady P) (e : EntryNo) {s : State} (h : P s) :
    P (staleExpires e s) := by
  unfold staleExpires
  extract_lets +onlyGivenNames ch
  repeat' first
    | assumption
    | apply setChannel_keeps H
    | intro _
    | split
    | dsimp only

theorem invalidExpires_keeps (H : Raises P) (e : EntryNo) {s : State} (h : P s) :
    P (invalidExpires e s) := by
  unfold invalidExpires
  extract_lets +onlyGivenNames ch
  repeat' first
    | assumption
    | apply loseChannel_keeps H
    | intro _
    | split
    | dsimp only


/-! ### ActuatorLinks -/

theorem faultActuator_keeps (H : Raises P) (k : Stand) (code : Byte) {s : State} (h : P s) :
    P (faultActuator k code s) := by
  exact raise_keeps H _ _ (setActMode_keeps H.steady _ _ (setActuator_keeps H.steady _ _ h))

theorem takeAck_keeps (H : Raises P) (k : Stand) (ready : Bool) {s : State} (h : P s) :
    P (takeAck k ready s) := by
  unfold takeAck
  extract_lets +onlyGivenNames src s1 demand
  have h1 : P s1 := setActuator_keeps H.steady _ _ h
  clear_value s1
  repeat' first
    | assumption
    | apply setActMode_keeps H.steady
    | apply faultActuator_keeps H
    | split

theorem takeFault_keeps (H : Raises P) (k : Stand) (code : Byte) {s : State} (h : P s) :
    P (takeFault k code s) := by
  unfold takeFault
  repeat' first
    | assumption
    | apply setActuator_keeps H.steady
    | apply faultActuator_keeps H
    | intro _
    | split
    | dsimp only

theorem takeOpenConfirmed_keeps (H : Raises P) (k : Stand) {s : State} (h : P s) :
    P (takeOpenConfirmed k s) := by
  unfold takeOpenConfirmed
  extract_lets +onlyGivenNames demand
  repeat' first
    | assumption
    | apply setActMode_keeps H.steady
    | apply faultActuator_keeps H
    | intro _
    | split
    | dsimp only

theorem takeStatus_keeps (H : Raises P) (k : Stand) (st : Status) {s : State} (h : P s) :
    P (takeStatus k st s) := by
  unfold takeStatus
  extract_lets +onlyGivenNames s1'
  have hs1' : P s1' := by
    dsimp only [s1']
    repeat' first
      | assumption
      | apply answerCommand_keeps H.steady
      | apply takeAck_keeps H
      | apply takeFault_keeps H
      | apply takeOpenConfirmed_keeps H
      | intro _
      | split
      | dsimp only
  clear_value s1'
  repeat' first
    | assumption
    | apply answerCommand_keeps H.steady
    | apply takeAck_keeps H
    | apply takeFault_keeps H
    | apply takeOpenConfirmed_keeps H
    | intro _
    | split
    | dsimp only

theorem badStatus_keeps (H : Steady P) (k : Stand) {s : State} (h : P s) :
    P (badStatus k s) := by
  unfold badStatus
  extract_lets +onlyGivenNames a
  repeat' first
    | assumption
    | apply setActuator_keeps H
    | intro _
    | split
    | dsimp only

theorem takeStatusFrame_keeps (H : Raises P) (k : Stand) (f : Option (List Byte)) {s : State} (h : P s) :
    P (takeStatusFrame k f s) := by
  unfold takeStatusFrame
  repeat' first
    | assumption
    | apply takeStatus_keeps H
    | apply badStatus_keeps H.steady
    | intro _
    | split
    | dsimp only

theorem actuatorBytes_keeps (H : Raises P) (k : Stand) (bytes : List Byte) {s : State} (h : P s) :
    P (actuatorBytes k bytes s) := by
  unfold actuatorBytes
  extract_lets +onlyGivenNames a
  extract_lets +onlyGivenNames buf
  extract_lets +onlyGivenNames r
  repeat' first
    | assumption
    | apply takeStatusFrame_keeps H
    | apply setActuator_keeps H.steady
    | refine foldl_keeps ?_ _ ?_
    | intro _
    | split
    | dsimp only

theorem replyTimerExpires_keeps (H : Raises P) (k : Stand) {s : State} (h : P s) :
    P (replyTimerExpires k s) := by
  unfold replyTimerExpires
  repeat' first
    | assumption
    | apply setActuator_keeps H.steady
    | apply raise_keeps H
    | apply setActMode_keeps H.steady
    | intro _
    | split
    | dsimp only

theorem keepsAlive_keeps (H : Steady P) (k : Stand) {s : State} (h : P s) :
    P (keepsAlive k s) := by
  unfold keepsAlive
  repeat' first
    | assumption
    | apply sendCommand_keeps H
    | intro _
    | split
    | dsimp only

theorem positioningTimerExpires_keeps (H : Raises P) (k : Stand) {s : State} (h : P s) :
    P (positioningTimerExpires k s) := by
  unfold positioningTimerExpires
  repeat' first
    | assumption
    | apply raise_keeps H
    | apply causeArises_keeps H.steady
    | apply setActMode_keeps H.steady
    | intro _
    | split
    | dsimp only

theorem stopOpenTimer_keeps (H : Steady P) (k : Stand) {s : State} (h : P s) :
    P (stopOpenTimer k s) := by
  unfold stopOpenTimer
  repeat' first
    | assumption
    | apply setActuator_keeps H
    | intro _
    | split
    | dsimp only

theorem openTimersExpire_keeps (H : Raises P) {s : State} (h : P s) :
    P (openTimersExpire s) := by
  unfold openTimersExpire
  extract_lets +onlyGivenNames ks
  extract_lets +onlyGivenNames late
  repeat' first
    | assumption
    | apply raiseAll_keeps H
    | apply stopOpenTimer_keeps H.steady
    | refine foldl_keeps ?_ _ ?_
    | intro _
    | split
    | dsimp only

theorem unloadTimerExpires_keeps (H : Raises P) (k : Stand) {s : State} (h : P s) :
    P (unloadTimerExpires k s) := by
  unfold unloadTimerExpires
  repeat' first
    | assumption
    | apply setStand_keeps H.steady
    | apply raise_keeps H
    | intro _
    | split
    | dsimp only

theorem breakTimerExpires_keeps (H : Raises P) (j : Interstand) {s : State} (h : P s) :
    P (breakTimerExpires j s) := by
  unfold breakTimerExpires
  repeat' first
    | assumption
    | apply raise_keeps H
    | apply setBreak_keeps H.steady
    | intro _
    | split
    | dsimp only

theorem stopAsserted_keeps (H : Raises P) {s : State} (h : P s) :
    P (stopAsserted s) := by
  exact raise_keeps H _ _ (H.steady.same h rfl)

theorem stopReleased_keeps (H : Steady P) {s : State} (h : P s) :
    P (stopReleased s) := by
  exact inactive_keeps H _ _ (H.same h rfl)


/-! ### Tracking as a whole -/

theorem Tracks.fields (H : Tracks P) : Fields P where
  toRaises := H.toRaises
  starting := fun p t h => startingEvent_tracked H p t h
  speed := fun k v t h => speedSample_tracked H k v t h
  length := fun i t h => lengthSample_tracked H i t h
  closing := fun t h => closingAdvance_tracked H t h

/-! ### Segments joining the ring -/

/-- A segment joins the ring: what a predicate that takes any new segment keeps. -/
theorem addSegment_keeps (H : Steady P) (hadd : ∀ {s : State} (g : Segment), s.ring.length < Config.ringCapacity → P s →
    P { s with ring := s.ring ++ [g] }) (n : SegNo) {s : State} (hr : s.ring.length < Config.ringCapacity) (h : P s) :
    P (addSegment n s) := by
  unfold addSegment
  split
  · exact h
  · dsimp only
    exact modifyReport_keeps H _ _ (addRef_keeps H _ (hadd _ hr h))

/-- A ring of at most some length is kept by all that opens no segment. -/
theorem ringLength_steady (n : Nat) : Steady (fun s : State => s.ring.length ≤ n) where
  other := fun e h => by
    have hr := congrArg (fun c : Core => c.ring.length) e
    exact Nat.le_trans (Nat.le_of_eq hr) h
  fault := fun _ _ _ _ _ h => h
  safe := fun _ h => h
  log := fun _ _ h => h
  notice := fun _ h => h
  segments := fun _ hl h => Nat.le_trans hl h
  point := fun _ _ _ h => h
  unstart := fun h => h
  records := fun _ _ h => h
  changes := fun _ _ h => h
  entries := fun _ _ _ h => h

/-! ### Taking faults -/

/-- Kept by every change of the fault table, and by a trip. -/
structure Careless (P : State → Prop) : Prop where
  steady : Steady P
  anyFault : ∀ {s : State} (k : Kind) (e : FaultEntry), P s → P (s.setFault k e)
  anyTrip : ∀ {s : State} (t : TripState) (b : Bool), P s → P { s with trip := t, hardStop := b }
  tripped : ∀ {s : State}, P s → P (s.setMode .tripped)

theorem tripStart_keeps (H : Careless P) (k : Kind) (loc : Nat) {s : State} (h : P s) : P (tripStart k loc s) := by
  unfold tripStart
  extract_lets m s1 s2 s3 s4 s5 s6 s7 s8 s9
  have h1 : P s1 := H.steady.same h rfl
  have h2 : P s2 := H.steady.same (H.anyTrip .opening s1.hardStop h1) rfl
  have h3 : P s3 := append_keeps H.steady _ _ h2
  have h4 : P s4 := notify_keeps H.steady _ h3
  have h5 : P s5 := notify_keeps H.steady _ (H.tripped h4)
  have h6 : P s6 := forStands_keeps (fun k s h => enterIdleMode_keeps H.steady _ k h) h5
  have h7 : P s7 := forStands_keeps (fun k s h => handOpen_keeps H.steady k h) h6
  have h8 : P s8 := H.steady.segments _ (by simp) h7
  exact leaveRun_keeps H.steady (endRun_keeps H.steady h8)

theorem enterHardStop_keeps (H : Careless P) {s : State} (h : P s) : P (enterHardStop s) := by
  unfold enterHardStop
  extract_lets s1
  have h1 : P s1 := H.anyTrip _ _ h
  split
  · exact notify_keeps H.steady _ (append_keeps H.steady _ _ h1)
  · exact h1

theorem take_keeps (H : Careless P) (k : Kind) (loc : Nat) {s : State} (h : P s) : P (take k loc s) := by
  unfold take
  extract_lets +onlyGivenNames pol cls entry s1 s2 s3 s4
  have h2 : P s2 := append_keeps H.steady _ _ (H.anyFault _ _ h)
  have h3 : P s3 := by
    dsimp only [s3]
    split
    · exact notify_keeps H.steady _ h2
    · exact h2
  have h4 : P s4 := by
    clear_value cls s3
    cases cls with
    | none => exact h3
    | firstOut => exact tripStart_keeps H _ _ h3
    | subsequent => exact H.steady.same h3 rfl
  split
  · exact enterHardStop_keeps H h4
  · exact h4

theorem markFresh_keeps (H : Careless P) (cs : List (Kind × Nat)) : ∀ {s : State}, P s → P (markFresh cs s).2 := by
  induction cs with
  | nil => exact fun h => h
  | cons c cs ih =>
    intro s h
    unfold markFresh
    split
    · exact ih h
    · exact ih (H.anyFault _ _ h)

/-- The taking of faults keeps every such predicate. -/
theorem Careless.raises (H : Careless P) : Raises P where
  steady := H.steady
  raise := fun cs h => foldl_keeps (fun s c h => take_keeps H _ _ h) _ (markFresh_keeps H cs h)

/-! ### Opening a segment -/

theorem ringLength_careless (n : Nat) : Careless (fun s : State => s.ring.length ≤ n) where
  steady := ringLength_steady n
  anyFault := fun _ _ h => h
  anyTrip := fun _ _ h => h
  tripped := fun h => h

/-- R62: a forced release leaves room in a full ring. -/
theorem forceRelease_room {s : State} (h : s.ring.length ≤ Config.ringCapacity) :
    (forceRelease s).ring.length < Config.ringCapacity := by
  unfold forceRelease
  split
  · rename_i hr
    show s.ring.length < _
    rw [hr]
    decide
  · rename_i g rest hr
    have hm : ((List.finRange 9).foldl (fun s p => moveOff g.number p s) s).ring.length ≤ Config.ringCapacity :=
      foldl_keeps (P := fun s => s.ring.length ≤ Config.ringCapacity)
        (fun s p h => moveOff_keeps (ringLength_steady _) _ p h) _ h
    generalize (List.finRange 9).foldl (fun s p => moveOff g.number p s) s = t at hm
    dsimp only
    have h1 : (releaseSegment g .forced none t).ring.length ≤ Config.ringCapacity - 1 := by
      unfold releaseSegment
      extract_lets +onlyGivenNames s1
      have hs1 : s1.ring.length ≤ Config.ringCapacity - 1 := by
        show (t.ring.drop 1).length ≤ _
        rw [List.length_drop]
        omega
      clear_value s1
      have H := ringLength_steady (Config.ringCapacity - 1)
      extract_lets +onlyGivenNames s2 s3 s4 s5
      have hs2 : s2.ring.length ≤ Config.ringCapacity - 1 := by
        dsimp only [s2]; split
        · exact hs1
        · exact endRunOf_keeps H _ hs1
      have hs3 : s3.ring.length ≤ Config.ringCapacity - 1 := modifyReport_keeps H _ _ hs2
      have hs4 : s4.ring.length ≤ Config.ringCapacity - 1 := by
        dsimp only [s4]; split
        · exact hs3
        · exact judgeCompletion_keeps H _ hs3
      have hs5 : s5.ring.length ≤ Config.ringCapacity - 1 := dropRef_keeps H _ hs4
      split
      · exact completeTransition_keeps H _ _ hs5
      · exact hs5
    have h2 := raise_keeps (ringLength_careless (Config.ringCapacity - 1)).raises Kind.trackFull 0 h1
    exact Nat.lt_of_le_of_lt h2 (by decide)

/-- What takes any new segment where there is room, and knows the ring's capacity, keeps the opening of the next segment. -/
theorem openNext_of (H : Raises P) (hring : ∀ {s : State}, P s → s.ring.length ≤ Config.ringCapacity)
    (hadd : ∀ {s : State} (g : Segment), s.ring.length < Config.ringCapacity → P s → P { s with ring := s.ring ++ [g] })
    (n : SegNo) {s : State} (h : P s) : P (openNext n s) := by
  unfold openNext
  split
  · exact addSegment_keeps H.steady hadd n (forceRelease_room (hring h)) (forceRelease_keeps H h)
  · rename_i hc
    exact addSegment_keeps H.steady hadd n (Nat.lt_of_not_le hc) h

/-- The same for what takes a new segment into any ring. -/
theorem openNext_any (H : Raises P) (hadd : ∀ {s : State} (g : Segment), P s → P { s with ring := s.ring ++ [g] })
    (n : SegNo) {s : State} (h : P s) : P (openNext n s) := by
  unfold openNext
  have add : ∀ {t : State}, P t → P (addSegment n t) := by
    intro t ht
    unfold addSegment
    split
    · exact ht
    · dsimp only
      exact modifyReport_keeps H.steady _ _ (addRef_keeps H.steady _ (hadd _ ht))
  split
  · exact add (forceRelease_keeps H h)
  · exact add h

/-! ### Conditions that depend on the mode -/

theorem modeConditions_keeps (H : Raises P) {s : State} (h : P s) : P (modeConditions s) := by
  unfold modeConditions
  extract_lets s1 s2
  have h1 : P s1 := by
    dsimp only [s1]
    split
    · exact h
    · exact leaveRun_keeps H.steady h
  have h2 : P s2 := by
    dsimp only [s2]
    split
    · exact lossesInactive_keeps H.steady h1
    · exact h1
  exact raiseAll_keeps H _ h2


end Sys2Proof.Machine
end

