-- ==== Sys2Proof/Laws/Control.lean ====
section
/-! SUPPORT. The invariants on the mode, the outputs, the trip and the fault table (Safety.lean): the operations of tracking, of
measurement and of the actuator links keep them, and so does the taking of faults. -/

namespace Sys2Proof.Machine

/-! ### What the invariants depend on -/

theorem core_mode {s t : State} (e : t.core = s.core) : t.mode = s.mode := congrArg Core.mode e
theorem core_committed {s t : State} (e : t.core = s.core) : t.committed = s.committed := congrArg Core.committed e
theorem core_millStop {s t : State} (e : t.core = s.core) : t.millStop = s.millStop := congrArg Core.millStop e
theorem core_standTrip {s t : State} (e : t.core = s.core) : t.standTrip = s.standTrip := congrArg Core.standTrip e
theorem core_hardStop {s t : State} (e : t.core = s.core) : t.hardStop = s.hardStop := congrArg Core.hardStop e
theorem core_policy {s t : State} (e : t.core = s.core) : t.policy = s.policy := congrArg Core.policy e
theorem core_trip {s t : State} (e : t.core = s.core) : t.trip = s.trip := congrArg Core.trip e
theorem core_faults {s t : State} (e : t.core = s.core) : t.faults = s.faults := congrArg Core.faults e
theorem core_logs {s t : State} (e : t.core = s.core) : t.logs = s.logs := congrArg Core.logs e
theorem core_port {s t : State} (e : t.core = s.core) : t.port = s.port := congrArg Core.port e
theorem core_ring {s t : State} (e : t.core = s.core) : t.ring = s.ring := congrArg Core.ring e
theorem core_points {s t : State} (e : t.core = s.core) : t.points = s.points := congrArg Core.points e
theorem core_queue {s t : State} (e : t.core = s.core) : t.queue = s.queue := congrArg Core.queue e
theorem core_table {s t : State} (e : t.core = s.core) : t.table = s.table := congrArg Core.table e
theorem core_transitions {s t : State} (e : t.core = s.core) : t.transitions = s.transitions :=
  congrArg Core.transitions e
theorem core_reports {s t : State} (e : t.core = s.core) : t.reports = s.reports := congrArg Core.reports e

/-- `State.trips` reads the policy table alone. -/
theorem trips_congr {s t : State} (e : t.policy = s.policy) (k : Kind) : t.trips k = s.trips k := by
  unfold State.trips
  rw [e]

theorem OutputsFollow.congr {s t : State} (h : OutputsFollow s) (hm : t.mode = s.mode) (hc : t.committed = s.committed)
    (h1 : t.millStop = s.millStop) (h2 : t.standTrip = s.standTrip) (h3 : t.hardStop = s.hardStop)
    (ht : t.trip = s.trip) : OutputsFollow t where
  millStop := by rw [h1, hm]; exact h.millStop
  standTrip := by rw [h2, hm]; exact h.standTrip
  hardStop := by rw [h3, ht]; exact h.hardStop
  tripped := by rw [hm, ht]; exact h.tripped
  committed := by rw [hc, hm]; exact h.committed

/-! ### While faults are being taken -/

/-- The invariants while the conditions of `L` are in their active sets and still to be taken. -/
structure Pend (L : List (Kind × Nat)) (s : State) : Prop where
  outputs : OutputsFollow s
  active : ∀ k : Kind, s.faults[k].active ≠ [] → s.faults[k].latched = true ∨ ∃ loc, (k, loc) ∈ L
  first : ∀ k : Kind, s.faults[k].latched = s.faults[k].first.isSome
  fixed : ∀ k : Kind, fixedKind k = true → s.trips k = true
  clear : s.trip = .normal → s.mode ≠ .config → ∀ k : Kind, s.trips k = true → s.faults[k].latched = false

theorem ControlInv.pend {s : State} (h : ControlInv s) : Pend [] s :=
  ⟨h.outputs, fun k hk => Or.inl (h.latches.active k hk), h.latches.first, h.latches.fixed, h.latches.clear⟩

theorem Pend.control {s : State} (h : Pend [] s) : ControlInv s :=
  ⟨h.outputs, ⟨fun k hk => (h.active k hk).resolve_right (by simp), h.first, h.fixed, h.clear⟩⟩

/-- One entry of the fault table replaced, every other one as before. -/
theorem setFault_at (s : State) (k : Kind) (e : FaultEntry) (k' : Kind) :
    (s.setFault k e).faults[k'] = if k = k' then e else s.faults[k'] := by
  show (s.faults.set k e)[k'] = _
  rw [Fin.getElem_fin, Vector.getElem_set]
  by_cases hk : k = k'
  · subst hk; simp
  · rw [if_neg hk, if_neg (fun hh => hk (Fin.ext hh))]; rfl

theorem pend_steady (L : List (Kind × Nat)) : Steady (Pend L) where
  other := by
    intro s t e h
    refine ⟨h.outputs.congr (core_mode e) (core_committed e) (core_millStop e) (core_standTrip e) (core_hardStop e)
      (core_trip e), ?_, ?_, ?_, ?_⟩
    · intro k; rw [core_faults e]; exact h.active k
    · intro k; rw [core_faults e]; exact h.first k
    · intro k hk; rw [trips_congr (core_policy e)]; exact h.fixed k hk
    · rw [core_trip e, core_mode e]
      intro ht hm k hk
      rw [core_faults e]
      exact h.clear ht hm k (by rw [← trips_congr (core_policy e)]; exact hk)
  fault := by
    intro s k e hl hf ha h
    refine ⟨h.outputs.congr rfl rfl rfl rfl rfl rfl, ?_, ?_, h.fixed, ?_⟩
    · intro k' hk'
      rw [setFault_at] at hk' ⊢
      by_cases hk : k = k'
      · subst hk
        rw [if_pos rfl] at hk' ⊢
        rw [hl]
        exact h.active k (fun h0 => hk' (ha h0))
      · rw [if_neg hk] at hk' ⊢
        exact h.active k' hk'
    · intro k'
      rw [setFault_at]
      by_cases hk : k = k'
      · subst hk
        rw [if_pos rfl, hl, hf]
        exact h.first k
      · rw [if_neg hk]
        exact h.first k'
    · intro ht hm k' hk'
      rw [setFault_at]
      by_cases hk : k = k'
      · subst hk
        rw [if_pos rfl, hl]
        exact h.clear ht hm k hk'
      · rw [if_neg hk]
        exact h.clear ht hm k' hk'
  safe := by
    intro s ht h
    have hm : s.mode = .tripped := h.outputs.tripped.mpr (by rw [ht]; decide)
    have hh : s.hardStop = false := by
      cases hb : s.hardStop
      · rfl
      · have := h.outputs.hardStop.mp hb; rw [ht] at this; cases this
    refine ⟨⟨h.outputs.millStop, h.outputs.standTrip, ?_, ?_, h.outputs.committed⟩, h.active, h.first, h.fixed, ?_⟩
    · show s.hardStop = true ↔ TripState.safe = .hardStop
      rw [hh]; decide
    · show s.mode = .tripped ↔ TripState.safe ≠ .normal
      rw [hm]; decide
    · intro h0; cases h0
  log := fun g c h => ⟨h.outputs.congr rfl rfl rfl rfl rfl rfl, h.active, h.first, h.fixed, h.clear⟩
  notice := fun n h => ⟨h.outputs.congr rfl rfl rfl rfl rfl rfl, h.active, h.first, h.fixed, h.clear⟩
  segments := fun r _ h => ⟨h.outputs.congr rfl rfl rfl rfl rfl rfl, h.active, h.first, h.fixed, h.clear⟩
  point := fun p x _ h => ⟨h.outputs.congr rfl rfl rfl rfl rfl rfl, h.active, h.first, h.fixed, h.clear⟩
  unstart := fun h => ⟨h.outputs.congr rfl rfl rfl rfl rfl rfl, h.active, h.first, h.fixed, h.clear⟩
  records := fun r _ h => ⟨h.outputs.congr rfl rfl rfl rfl rfl rfl, h.active, h.first, h.fixed, h.clear⟩
  changes := fun r _ h => ⟨h.outputs.congr rfl rfl rfl rfl rfl rfl, h.active, h.first, h.fixed, h.clear⟩
  entries := fun r _ _ h => ⟨h.outputs.congr rfl rfl rfl rfl rfl rfl, h.active, h.first, h.fixed, h.clear⟩

/-- A predicate that two others are equivalent to is steady with them. -/
theorem control_steady : Steady ControlInv where
  other := fun e h => ((pend_steady []).other e h.pend).control
  fault := fun k e a b c h => ((pend_steady []).fault k e a b c h.pend).control
  safe := fun a h => ((pend_steady []).safe a h.pend).control
  log := fun g c h => ((pend_steady []).log g c h.pend).control
  notice := fun n h => ((pend_steady []).notice n h.pend).control
  segments := fun r a h => ((pend_steady []).segments r a h.pend).control
  point := fun p x a h => ((pend_steady []).point p x a h.pend).control
  unstart := fun h => ((pend_steady []).unstart h.pend).control
  records := fun r a h => ((pend_steady []).records r a h.pend).control
  changes := fun r a h => ((pend_steady []).changes r a h.pend).control
  entries := fun r a b h => ((pend_steady []).entries r a b h.pend).control

/-! ### Marking the conditions of one event -/

theorem markFresh_pend (cs : List (Kind × Nat)) : ∀ (L : List (Kind × Nat)) (s : State), Pend L s →
    Pend (L ++ (markFresh cs s).1) (markFresh cs s).2 := by
  induction cs with
  | nil =>
    intro L s h
    simpa [markFresh] using h
  | cons c cs ih =>
    obtain ⟨k, loc⟩ := c
    intro L s h
    unfold markFresh
    split
    · exact ih L s h
    · have h1 : Pend (L ++ [(k, loc)]) (s.markActive k loc) := by
        refine ⟨h.outputs.congr rfl rfl rfl rfl rfl rfl, ?_, ?_, h.fixed, ?_⟩
        · intro k' hk'
          unfold State.markActive at hk' ⊢
          rw [setFault_at] at hk' ⊢
          by_cases hk : k = k'
          · subst hk
            exact Or.inr ⟨loc, by simp⟩
          · rw [if_neg hk] at hk' ⊢
            rcases h.active k' hk' with hl | ⟨x, hx⟩
            · exact Or.inl hl
            · exact Or.inr ⟨x, by simp [hx]⟩
        · intro k'
          unfold State.markActive
          rw [setFault_at]
          by_cases hk : k = k'
          · subst hk
            rw [if_pos rfl]
            exact h.first k
          · rw [if_neg hk]
            exact h.first k'
        · intro ht hm k' hk'
          unfold State.markActive
          rw [setFault_at]
          by_cases hk : k = k'
          · subst hk
            rw [if_pos rfl]
            exact h.clear ht hm k hk'
          · rw [if_neg hk]
            exact h.clear ht hm k' hk'
      have h2 := ih _ _ h1
      rw [List.append_assoc] at h2
      exact h2

/-! ### Taking one fault -/

/-- The invariants but for the last: what a state keeps between the latch of a kind and the trip that it starts. -/
structure Latching (L : List (Kind × Nat)) (s : State) : Prop where
  outputs : OutputsFollow s
  active : ∀ k : Kind, s.faults[k].active ≠ [] → s.faults[k].latched = true ∨ ∃ loc, (k, loc) ∈ L
  first : ∀ k : Kind, s.faults[k].latched = s.faults[k].first.isSome
  fixed : ∀ k : Kind, fixedKind k = true → s.trips k = true

/-- R136 steps 1 and 2 keep all but the last invariant. -/
theorem latched_latching {L : List (Kind × Nat)} {k : Kind} {loc : Nat} {s : State} (h : Pend ((k, loc) :: L) s) :
    Latching L (s.setFault k (s.faults[k].taken loc s.logTime)) := by
  refine ⟨h.outputs.congr rfl rfl rfl rfl rfl rfl, ?_, ?_, h.fixed⟩
  · intro k' hk'
    rw [setFault_at] at hk' ⊢
    by_cases hk : k = k'
    · subst hk
      rw [if_pos rfl]
      exact Or.inl rfl
    · rw [if_neg hk] at hk' ⊢
      rcases h.active k' hk' with hl | ⟨x, hx⟩
      · exact Or.inl hl
      · rcases List.mem_cons.mp hx with hx | hx
        · exact absurd (congrArg Prod.fst hx).symm hk
        · exact Or.inr ⟨x, hx⟩
  · intro k'
    rw [setFault_at]
    by_cases hk : k = k'
    · subst hk
      rw [if_pos rfl]
      unfold FaultEntry.taken
      dsimp only
      split
      · rename_i hl
        have := h.first k
        rw [hl] at this
        exact this
      · rfl
    · rw [if_neg hk]
      exact h.first k'

/-- R149: the trip start from a state with the trip state NORMAL, outside CONFIG. -/
theorem tripStart_pend {L : List (Kind × Nat)} {s : State} (k : Kind) (loc : Nat) (ht : s.trip = .normal)
    (hm : s.mode ≠ .config) (h : Latching L s) : Pend L (tripStart k loc s) := by
  unfold tripStart
  extract_lets m s1 s2 s3 s4 s5 s6 s7 s8 s9
  have hh : s.hardStop = false := by
    cases hb : s.hardStop
    · rfl
    · have := h.outputs.hardStop.mp hb; rw [ht] at this; cases this
  have hc : s.committed = true := h.outputs.committed.mpr hm
  have h5 : Pend L s5 := by
    refine ⟨⟨rfl, rfl, ?_, ?_, ?_⟩, h.active, h.first, h.fixed, ?_⟩
    · show s.hardStop = true ↔ TripState.opening = .hardStop
      rw [hh]; decide
    · show Mode.tripped = .tripped ↔ TripState.opening ≠ .normal
      decide
    · show s.committed = true ↔ Mode.tripped ≠ .config
      rw [hc]; decide
    · intro h0; cases h0
  have H := pend_steady L
  have h6 : Pend L s6 := forStands_keeps (fun k s h => enterIdleMode_keeps H _ k h) h5
  have h7 : Pend L s7 := forStands_keeps (fun k s h => handOpen_keeps H k h) h6
  have h8 : Pend L s8 := H.segments _ (by simp) h7
  exact leaveRun_keeps H (endRun_keeps H h8)

/-- R152: OPENING becomes HARD_STOP. -/
theorem enterHardStop_pend {L : List (Kind × Nat)} {s : State} (ht : s.trip = .opening) (h : Pend L s) :
    Pend L (enterHardStop s) := by
  have hm : s.mode = .tripped := h.outputs.tripped.mpr (by rw [ht]; decide)
  unfold enterHardStop
  extract_lets s1
  have h1 : Pend L s1 := by
    refine ⟨⟨h.outputs.millStop, h.outputs.standTrip, by show true = true ↔ TripState.hardStop = .hardStop; decide, ?_,
      h.outputs.committed⟩, h.active, h.first, h.fixed, ?_⟩
    · show s.mode = .tripped ↔ TripState.hardStop ≠ .normal
      rw [hm]; decide
    · intro h0; cases h0
  have H := pend_steady L
  split
  · exact notify_keeps H _ (append_keeps H _ _ h1)
  · exact h1

/-- A trip state that is not NORMAL, or CONFIG, makes the last invariant hold at once. -/
theorem Latching.pend {L : List (Kind × Nat)} {s : State} (h : Latching L s)
    (hc : s.trip = .normal → s.mode ≠ .config → ∀ k : Kind, s.trips k = true → s.faults[k].latched = false) :
    Pend L s := ⟨h.outputs, h.active, h.first, h.fixed, hc⟩

/-- R136: a take answers one condition of the event. -/
theorem take_pend {L : List (Kind × Nat)} {k : Kind} {loc : Nat} {s : State} (h : Pend ((k, loc) :: L) s) :
    Pend L (take k loc s) := by
  unfold take
  extract_lets +onlyGivenNames pol cls entry s1 s2 s3 s4
  have l1 : Latching L s1 := latched_latching h
  have l3 : Latching L s3 := by
    dsimp only [s3, s2]
    split
    · exact ⟨l1.outputs.congr rfl rfl rfl rfl rfl rfl, l1.active, l1.first, l1.fixed⟩
    · exact ⟨l1.outputs.congr rfl rfl rfl rfl rfl rfl, l1.active, l1.first, l1.fixed⟩
  have t3 : s3.trip = s.trip := by dsimp only [s3, s2]; split <;> rfl
  have m3 : s3.mode = s.mode := by dsimp only [s3, s2]; split <;> rfl
  have p3 : s3.policy = s.policy := by dsimp only [s3, s2]; split <;> rfl
  have f3 : s3.faults = s1.faults := by dsimp only [s3, s2]; split <;> rfl
  have h4 : Pend L s4 ∧ (cls ≠ .firstOut → s4.trip = s.trip) := by
    dsimp only [s4, cls, takeClass]
    by_cases hst : startsTrip s k = true
    · rw [if_pos hst]
      have hst' := hst
      unfold startsTrip at hst'
      simp only [Bool.and_eq_true, beq_iff_eq, Bool.or_eq_true] at hst'
      refine ⟨tripStart_pend k loc (by rw [t3]; exact hst'.1.2) ?_ l3, fun hne => absurd rfl hne⟩
      rw [m3]
      rcases hst'.2 with (hmm | hmm) | hmm <;> rw [hmm] <;> decide
    · rw [if_neg hst]
      by_cases hsub : isSubsequent s k = true
      · rw [if_pos hsub]
        have hn : s.trip ≠ .normal := by
          unfold isSubsequent at hsub
          simp only [Bool.and_eq_true, bne_iff_ne] at hsub
          exact hsub.2
        refine ⟨?_, fun _ => t3⟩
        refine (pend_steady L).same (l3.pend fun h0 => absurd (t3 ▸ h0) hn) rfl
      · rw [if_neg hsub]
        refine ⟨l3.pend ?_, fun _ => t3⟩
        rw [t3, m3]
        intro h0 hm k' hk'
        rw [trips_congr p3] at hk'
        rw [f3]
        show (s.setFault k entry).faults[k'].latched = false
        rw [setFault_at]
        by_cases hk : k = k'
        · subst hk
          exfalso
          apply hst
          unfold startsTrip
          rw [hk', h0]
          have ht : s.mode ≠ .tripped := fun hh => h.outputs.tripped.mp hh h0
          cases hmm : s.mode <;> simp_all
        · rw [if_neg hk]
          exact h.clear h0 hm k' hk'
  split
  · rename_i hk
    refine enterHardStop_pend ?_ h4.1
    rw [h4.2 ?_]
    · exact hk.2
    · dsimp only [cls, takeClass]
      have : startsTrip s k = false := by
        unfold startsTrip
        rw [hk.2]
        simp
      rw [this]
      split
      · rename_i hcon; cases hcon
      · split <;> decide
  · exact h4.1

theorem takes_pend (L : List (Kind × Nat)) : ∀ s : State, Pend L s →
    Pend [] (L.foldl (fun s c => take c.1 c.2 s) s) := by
  induction L with
  | nil => exact fun s h => h
  | cons c L ih => exact fun s h => ih _ (take_pend h)

/-- R137: the conditions of one event, marked and taken, keep the invariants. -/
theorem raiseAll_control (cs : List (Kind × Nat)) {s : State} (h : ControlInv s) : ControlInv (raiseAll cs s) := by
  have h1 := markFresh_pend cs [] s h.pend
  rw [List.nil_append] at h1
  exact (takes_pend _ _ h1).control

theorem control_raises : Raises ControlInv := ⟨control_steady, fun cs h => raiseAll_control cs h⟩

end Sys2Proof.Machine
end

