-- ==== Sys2Proof/Laws/Serves.lean ====
section
/-! SUPPORT. What the Supervisor Port keeps: of a predicate that every request keeps, the receiver, the receive queue, the
transmitter and the arrival of a request keep it. -/

namespace Sys2Proof.Machine

/-- Kept by the field events and by every request. -/
structure Serves (P : State → Prop) : Prop extends Fields P where
  weld : ∀ {s : State}, P s → P (weldPulse s)
  port : ∀ {s : State} (p : Port), p.queue.length ≤ max s.port.queue.length Config.rxCapacity →
    p.notices.length ≤ s.port.notices.length → P s → P (s.setPort p)
  handle : ∀ {s : State} (r : Request), P s → P (handle r s).2

variable {P : State → Prop}

/-! ### The transmitter -/

theorem beginNotice_queue (p : Port) : p.beginNotice.queue = p.queue := by
  unfold Port.beginNotice
  split <;> rfl

theorem beginNotice_notices (p : Port) : p.beginNotice.notices.length ≤ p.notices.length := by
  unfold Port.beginNotice
  split
  · exact Nat.le_refl _
  · rename_i n rest hn
    show rest.length ≤ _
    rw [hn]
    exact Nat.le_succ _

theorem beginNext_queue (p : Port) : p.beginNext.queue = p.queue := by
  unfold Port.beginNext
  split
  · rfl
  · split
    · split
      · rfl
      · exact beginNotice_queue p
    · exact beginNotice_queue p

theorem beginNext_notices (p : Port) : p.beginNext.notices.length ≤ p.notices.length := by
  unfold Port.beginNext
  split
  · exact Nat.le_refl _
  · split
    · split
      · exact Nat.le_refl _
      · exact beginNotice_notices p
    · exact beginNotice_notices p

theorem stepStart_keeps (H : Serves P) {s : State} (h : P s) : P s.stepStart :=
  H.steady.same (H.port s.port.beginNext (by rw [beginNext_queue]; exact Nat.le_max_left _ _) (beginNext_notices _) h) rfl

theorem count_keeps (H : Serves P) (f : PortCounters → PortCounters) {s : State} (h : P s) : P (s.count f) :=
  H.port _ (Nat.le_max_left _ _) (Nat.le_refl _) h

/-! ### Taking requests -/

theorem reply_keeps (H : Serves P) (typ num : Byte) {r : Answer × State} (h : P r.2) : P (reply typ num r) :=
  H.port _ (Nat.le_max_left _ _) (Nat.le_refl _) h

theorem answerFrame_keeps (H : Serves P) (f : Frame) {s : State} (h : P s) : P (answerFrame f s).2 := by
  unfold answerFrame
  split
  · exact h
  · exact h
  · exact H.handle _ h

theorem takeNext_keeps (H : Serves P) {s : State} (h : P s) : P (takeNext s) := by
  unfold takeNext
  split
  · exact h
  · split
    · exact h
    · rename_i f rest hq
      refine reply_keeps H _ _ (answerFrame_keeps H f (H.port _ ?_ (Nat.le_refl _) h))
      show rest.length ≤ _
      rw [hq]
      exact Nat.le_trans (Nat.le_succ _) (Nat.le_max_left _ _)

theorem enqueue_keeps (H : Serves P) (f : Frame) {s : State} (h : P s) : P (enqueue f s) := by
  unfold enqueue
  split
  · rename_i hq
    refine H.port _ ?_ (Nat.le_refl _) h
    show (s.port.queue ++ [f]).length ≤ _
    rw [List.length_append]
    exact Nat.le_trans hq (Nat.le_max_right _ _)
  · exact count_keeps H _ h

theorem acceptGood_keeps (H : Serves P) (f : Frame) {s : State} (h : P s) : P (acceptGood f s) :=
  takeNext_keeps H (enqueue_keeps H f (count_keeps H _ h))

theorem takeRx_keeps (H : Serves P) (e : RxEvent) {s : State} (h : P s) : P (takeRx s e) := by
  unfold takeRx
  split
  · exact count_keeps H _ h
  · exact count_keeps H _ h
  · exact acceptGood_keeps H _ h

theorem supervisorBytes_keeps (H : Serves P) (bytes : List Byte) {s : State} (h : P s) : P (supervisorBytes bytes s) :=
  foldl_keeps (fun s e h => takeRx_keeps H e h) _ (H.port _ (Nat.le_max_left _ _) (Nat.le_refl _) h)

theorem completeFrame_keeps (H : Serves P) {s : State} (h : P s) : P (completeFrame s) := by
  unfold completeFrame
  split
  · exact h
  · rename_i f _
    extract_lets s1 src s2
    have h1 : P s1 := count_keeps H _ h
    have h2 : P s2 := by
      refine H.port _ ?_ ?_ h1
      · rw [beginNext_queue]
        exact Nat.le_max_left _ _
      · exact beginNext_notices _
    split
    · exact takeNext_keeps H h2
    · exact h2

theorem arrives_keeps (H : Serves P) (r : Request) (n : Byte) {act : State → Answer × State}
    (hact : ∀ t : State, act t = handle r t) {s : State} (h : P s) : P (arrives r n act s) := by
  unfold arrives
  split
  · exact acceptGood_keeps H _ h
  · refine reply_keeps H _ _ ?_
    rw [hact]
    exact H.handle r (count_keeps H _ h)

end Sys2Proof.Machine
end

