-- ==== Sys2Proof/Laws/ControlRequests.lean ====
section
/-! SUPPORT. The invariants on the mode, the outputs, the trip and the fault table: every request keeps them. -/

namespace Sys2Proof.Machine

/-! ### Tracking keeps them -/

theorem ControlInv.same {s t : State} (h : ControlInv s) (hm : t.mode = s.mode) (hc : t.committed = s.committed)
    (h1 : t.millStop = s.millStop) (h2 : t.standTrip = s.standTrip) (h3 : t.hardStop = s.hardStop) (ht : t.trip = s.trip)
    (hp : t.policy = s.policy) (hf : t.faults = s.faults) : ControlInv t := by
  refine ⟨h.outputs.congr hm hc h1 h2 h3 ht, ⟨?_, ?_, ?_, ?_⟩⟩
  · intro k; rw [hf]; exact h.latches.active k
  · intro k; rw [hf]; exact h.latches.first k
  · intro k; rw [trips_congr hp]; exact h.latches.fixed k
  · rw [ht, hm]
    intro h0 h1 k hk
    rw [hf]
    exact h.latches.clear h0 h1 k (by rw [← trips_congr hp]; exact hk)

theorem control_tracks : Tracks ControlInv where
  toRaises := control_raises
  start := fun _ _ h => h.same rfl rfl rfl rfl rfl rfl rfl rfl
  opens := fun n h => openNext_any control_raises (fun _ h => h.same rfl rfl rfl rfl rfl rfl rfl rfl) n h
  report := fun _ _ h => h.same rfl rfl rfl rfl rfl rfl rfl rfl
  change := fun _ _ h => h.same rfl rfl rfl rfl rfl rfl rfl rfl
  take := fun _ _ _ _ _ h => h.same rfl rfl rfl rfl rfl rfl rfl rfl

/-! ### Between the checks of a mode request and its mode change -/

/-- What a mode request keeps while its effects are made: the trip state NORMAL, the fault table as it should be, and, where
`c` says so, no enabled tripping kind latched. -/
structure Settled (c : Prop) (s : State) : Prop where
  trip : s.trip = .normal
  hardStop : s.hardStop = false
  active : ∀ k : Kind, s.faults[k].active ≠ [] → s.faults[k].latched = true
  first : ∀ k : Kind, s.faults[k].latched = s.faults[k].first.isSome
  fixed : ∀ k : Kind, fixedKind k = true → s.trips k = true
  clear : c → ∀ k : Kind, s.trips k = true → s.faults[k].latched = false

theorem Settled.congr {c : Prop} {s t : State} (h : Settled c s) (ht : t.trip = s.trip) (hh : t.hardStop = s.hardStop)
    (hp : t.policy = s.policy) (hf : t.faults = s.faults) : Settled c t where
  trip := ht ▸ h.trip
  hardStop := hh ▸ h.hardStop
  active := by intro k; rw [hf]; exact h.active k
  first := by intro k; rw [hf]; exact h.first k
  fixed := by intro k; rw [trips_congr hp]; exact h.fixed k
  clear := by
    intro hc k hk
    rw [hf]
    exact h.clear hc k (by rw [← trips_congr hp]; exact hk)

theorem settled_steady (c : Prop) : Steady (Settled c) where
  other := fun e h => h.congr (core_trip e) (core_hardStop e) (core_policy e) (core_faults e)
  fault := by
    intro s k e hl hf ha h
    refine ⟨h.trip, h.hardStop, ?_, ?_, h.fixed, ?_⟩
    · intro k' hk'
      rw [setFault_at] at hk' ⊢
      by_cases hk : k = k'
      · subst hk
        rw [if_pos rfl] at hk' ⊢
        rw [hl]
        exact h.active k (fun h0 => hk' (ha h0))
      · rw [if_neg hk] at hk' ⊢
        exact h.active k' hk'
    · intro k'
      rw [setFault_at]
      by_cases hk : k = k'
      · subst hk
        rw [if_pos rfl, hl, hf]
        exact h.first k
      · rw [if_neg hk]
        exact h.first k'
    · intro hc k' hk'
      rw [setFault_at]
      by_cases hk : k = k'
      · subst hk
        rw [if_pos rfl, hl]
        exact h.clear hc k hk'
      · rw [if_neg hk]
        exact h.clear hc k' hk'
  safe := by
    intro s ht h
    rw [h.trip] at ht
    cases ht
  log := fun _ _ h => h.congr rfl rfl rfl rfl
  notice := fun _ h => h.congr rfl rfl rfl rfl
  segments := fun _ _ h => h.congr rfl rfl rfl rfl
  point := fun _ _ _ h => h.congr rfl rfl rfl rfl
  unstart := fun h => h.congr rfl rfl rfl rfl
  records := fun _ _ h => h.congr rfl rfl rfl rfl
  changes := fun _ _ h => h.congr rfl rfl rfl rfl
  entries := fun _ _ _ h => h.congr rfl rfl rfl rfl

/-- Outside TRIPPED and CONFIG the invariants settle everything. -/
theorem ControlInv.settled {s : State} (h : ControlInv s) (ht : s.mode ≠ .tripped) (hc : s.mode ≠ .config) (c : Prop) :
    Settled c s := by
  have h0 : s.trip = .normal := by
    by_cases hh : s.trip = .normal
    · exact hh
    · exact absurd (h.outputs.tripped.mpr hh) ht
  refine ⟨h0, ?_, h.latches.active, h.latches.first, h.latches.fixed, fun _ => h.latches.clear h0 hc⟩
  cases hb : s.hardStop
  · rfl
  · have := h.outputs.hardStop.mp hb
    rw [h0] at this
    cases this

/-- In CONFIG all but the last clause is settled. -/
theorem ControlInv.settledConfig {s : State} (h : ControlInv s) (hm : s.mode = .config) (c : Prop)
    (hc : c → ∀ k : Kind, s.trips k = true → s.faults[k].latched = false) : Settled c s := by
  have h0 : s.trip = .normal := by
    by_cases hh : s.trip = .normal
    · exact hh
    · have := h.outputs.tripped.mpr hh
      rw [hm] at this
      cases this
  refine ⟨h0, ?_, h.latches.active, h.latches.first, h.latches.fixed, hc⟩
  cases hb : s.hardStop
  · rfl
  · have := h.outputs.hardStop.mp hb
    rw [h0] at this
    cases this

/-- A mode change from a settled state makes the invariants hold. -/
theorem Settled.changeMode {c : Prop} {s : State} (h : Settled c s) (m : Mode) (x : ModeCause) (hm : m ≠ .tripped)
    (hc : s.committed = true ↔ m ≠ .config) (hcl : m ≠ .config → c) : ControlInv (s.changeMode m x) := by
  refine ⟨⟨rfl, rfl, ?_, ?_, hc⟩, ⟨h.active, h.first, h.fixed, fun _ hne => h.clear (hcl hne)⟩⟩
  · show s.hardStop = true ↔ s.trip = .hardStop
    rw [h.hardStop, h.trip]
    decide
  · show m = .tripped ↔ s.trip ≠ .normal
    rw [h.trip]
    exact ⟨fun hh => absurd hh hm, fun hh => absurd rfl hh⟩

/-- No enabled tripping kind is latched where none is found. -/
theorem latchedTripping_none {s : State} (h : latchRefusal s = none) (k : Kind) (hk : s.trips k = true) :
    s.faults[k].latched = false := by
  unfold latchRefusal at h
  rw [Option.map_eq_none_iff] at h
  unfold State.latchedTripping at h
  have := List.find?_eq_none.mp h k (List.mem_finRange k)
  simp only [Bool.and_eq_true, not_and, Bool.not_eq_true] at this
  exact this hk

/-! ### The mode requests -/

theorem commitRefusal_latch {s : State} (h : commitRefusal s = none) : latchRefusal s = none := by
  unfold commitRefusal at h
  split at h
  · cases h
  · split at h
    · cases h
    · exact h

theorem doCommitConfig_control {s : State} (h : ControlInv s) : ControlInv (doCommitConfig s).2 := by
  unfold doCommitConfig
  split
  · exact h
  · rename_i hm
    have hm : s.mode = .config := by simpa using hm
    split
    · exact h
    · rename_i hr
      refine modeConditions_keeps control_raises ?_
      have hs : Settled True s :=
        h.settledConfig hm True fun _ => latchedTripping_none (commitRefusal_latch hr)
      exact (hs.congr (t := { s with committed := true }) rfl rfl rfl rfl).changeMode _ _ (by decide)
        ⟨fun _ => by decide, fun _ => rfl⟩ fun _ => trivial

/-- Emptying the queue and the table after the WITHDRAWN entries. -/
theorem withdrawAll_keeps {P : State → Prop} (H : Steady P) (hw : ∀ {s : State}, P s → P { s with queue := [], table := [] })
    (c : WithdrawCause) {s : State} (h : P s) : P (withdrawAll c s) :=
  hw (foldl_keeps (fun s e h => append_keeps H _ _ h) _ (foldl_keeps (fun s e h => append_keeps H _ _ h) _ h))

/-- Appends, notices and rows outside the core leave the committed flag alone; so do the operations below. -/
theorem committed_steady (b : Bool) : Steady (fun s : State => s.committed = b) where
  other := fun e h => (core_committed e).trans h
  fault := fun _ _ _ _ _ h => h
  safe := fun _ h => h
  log := fun _ _ h => h
  notice := fun _ h => h
  segments := fun _ _ h => h
  point := fun _ _ _ h => h
  unstart := fun h => h
  records := fun _ _ h => h
  changes := fun _ _ h => h
  entries := fun _ _ _ h => h

theorem doConfigOpen_control {s : State} (h : ControlInv s) : ControlInv (doConfigOpen s).2 := by
  unfold doConfigOpen
  split
  · exact h
  · rename_i hm
    have hm : s.mode = .ready := by simpa using hm
    refine modeConditions_keeps control_raises ?_
    have hs : Settled True s := h.settled (by rw [hm]; decide) (by rw [hm]; decide) True
    have h1 : Settled True (withdrawAll .configOpen { s with committed := false }) :=
      withdrawAll_keeps (settled_steady _) (fun h => h.congr rfl rfl rfl rfl) _ (hs.congr rfl rfl rfl rfl)
    have h2 : (withdrawAll .configOpen { s with committed := false }).committed = false :=
      withdrawAll_keeps (committed_steady false) (fun h => h) _ rfl
    exact h1.changeMode _ _ (by decide) (by rw [h2]; decide) fun _ => trivial

theorem beginThread_control (e : InForce) {s : State} (hs : Settled True s) (hc : s.committed = true) :
    ControlInv (beginThread e s) := by
  unfold beginThread
  extract_lets s1 s2 s3
  have key : ∀ {P : State → Prop}, Steady P → (∀ {s : State} (p : PointNo) (x : Point), P s → P (s.setPoint p x)) →
      (∀ {s : State} (r : List Segment), P s → P { s with ring := r }) →
      (∀ {s : State} (r : List CoilReport), P s → P { s with reports := r }) → P s → P s3 := by
    intro P H hp hr hrep h
    have h1 : P s1 := hrep _ h
    have ha : P (addSegment 0 s1) := by
      unfold addSegment
      split
      · exact h1
      · dsimp only
        exact modifyReport_keeps H _ _ (addRef_keeps H _ (hr _ h1))
    have h2 : P s2 := startPoint_keeps H hp _ _ ha
    exact forStands_keeps (fun k s h => threadStand_keeps H e k h) h2
  have h3 : Settled True s3 := key (settled_steady _) (fun _ _ h => h.congr rfl rfl rfl rfl)
    (fun _ h => h.congr rfl rfl rfl rfl) (fun _ h => h.congr rfl rfl rfl rfl) hs
  have c3 : s3.committed = true := key (committed_steady true) (fun _ _ h => h) (fun _ h => h) (fun _ h => h) hc
  refine modeConditions_keeps control_raises (forStands_keeps (fun k s h => threadHold_keeps control_steady k h) ?_)
  exact h3.changeMode _ _ (by decide) (by rw [c3]; decide) fun _ => trivial

theorem doThread_control {s : State} (h : ControlInv s) : ControlInv (doThread s).2 := by
  unfold doThread
  split
  · exact h
  · rename_i hm
    have hm : s.mode = .ready := by simpa using hm
    split
    · exact h
    · split
      · exact h
      · split
        · exact h
        · dsimp only
          exact beginThread_control _ (h.settled (by rw [hm]; decide) (by rw [hm]; decide) True)
            (h.outputs.committed.mpr (by rw [hm]; decide))

theorem doRun_control {s : State} (h : ControlInv s) : ControlInv (doRun s).2 := by
  unfold doRun
  split
  · exact h
  · rename_i hm
    have hm : s.mode = .thread := by simpa using hm
    split
    · exact h
    · dsimp only
      refine modeConditions_keeps control_raises (forStands_keeps (fun k s h => judgeAtRun_keeps control_steady k h) ?_)
      refine (h.settled (by rw [hm]; decide) (by rw [hm]; decide) True).changeMode _ _ (by decide) ?_ fun _ => trivial
      rw [h.outputs.committed.mpr (by rw [hm]; decide)]
      decide

theorem standsOff_keeps {P : State → Prop} (H : Steady P) {s : State} (h : P s) : P (standsOff s) :=
  forStands_keeps (fun k s h => actuatorAtStop_keeps H k h) (forStands_keeps (fun k s h => enterIdleMode_keeps H _ k h) h)

theorem doStop_control {s : State} (h : ControlInv s) : ControlInv (doStop s).2 := by
  unfold doStop
  split
  · exact h
  · rename_i hm
    have hm : s.tracking = true := by simpa using hm
    have hm : s.mode = .thread ∨ s.mode = .run := by simpa [State.tracking] using hm
    have n1 : s.mode ≠ .tripped := by rcases hm with h0 | h0 <;> rw [h0] <;> decide
    have n2 : s.mode ≠ .config := by rcases hm with h0 | h0 <;> rw [h0] <;> decide
    dsimp only
    refine modeConditions_keeps control_raises ?_
    have h1 := standsOff_keeps (settled_steady _) (clearTracking_keeps (settled_steady _) .discardedStop .stopped
      (h.settled n1 n2 True))
    have c1 := standsOff_keeps (committed_steady true) (clearTracking_keeps (committed_steady true) .discardedStop .stopped
      (h.outputs.committed.mpr n2))
    exact h1.changeMode _ _ (by decide) (by rw [c1]; decide) fun _ => trivial

theorem resetTrip_control {s : State} (h : ControlInv s) (hm : s.mode = .tripped) (hr : latchRefusal s = none) :
    ControlInv (resetTrip s) := by
  unfold resetTrip
  extract_lets s1 s2
  have key : ∀ {P : State → Prop}, Steady P →
      P { s with trip := .normal, opened := Vector.replicate 6 false, hardStop := false } → P s2 := by
    intro P H h0
    have he : P (tripEnds s) := by
      unfold tripEnds
      extract_lets s0
      have h0 : P s0 := h0
      clear_value s0
      split
      · exact append_keeps H _ _ h0
      · exact h0
    exact forStands_keeps (fun k s h => actuatorAtTripReset_keeps H k h)
      (forStands_keeps (fun k s h => enterIdleMode_keeps H _ k h) (clearTracking_keeps H _ _ he))
  have h2 : Settled True s2 := key (settled_steady _)
    ⟨rfl, rfl, h.latches.active, h.latches.first, h.latches.fixed, fun _ => latchedTripping_none hr⟩
  have c2 : s2.committed = true := key (committed_steady true) (h.outputs.committed.mpr (by rw [hm]; decide))
  clear_value s2
  refine modeConditions_keeps control_raises ?_
  exact h2.changeMode _ _ (by decide) (by rw [c2]; decide) fun _ => trivial

theorem doTripReset_control {s : State} (h : ControlInv s) : ControlInv (doTripReset s).2 := by
  unfold doTripReset
  split
  · exact h
  · rename_i hm
    split
    · exact h
    · split
      · exact h
      · rename_i hr
        dsimp only
        exact resetTrip_control h (by simpa using hm) hr

theorem restartTracking_keeps {P : State → Prop} (H : Steady P) {s : State} (h : P s) : P (restartTracking s) :=
  unstartPoints_keeps H (cancelTransitions_keeps H (closeAllReports_keeps H _ (releaseAll_keeps H _ h)))

theorem restart_control {s : State} (h : ControlInv s) (hm : s.mode ≠ .tripped) : ControlInv (restart s) := by
  have hs : Settled (s.mode ≠ .config) s := by
    by_cases hc : s.mode = .config
    · exact h.settledConfig hc _ fun hh => absurd hc hh
    · exact h.settled hm hc _
  unfold restart
  extract_lets s1 s2 s3
  have key : ∀ {P : State → Prop}, Steady P → (∀ {s : State}, P s → P { s with queue := [], table := [] }) → P s →
      P s2 := by
    intro P H hw h0
    have h1 : P s1 := by
      dsimp only [s1]
      split
      · exact restartTracking_keeps H h0
      · exact h0
    exact forStands_keeps (fun k s h => setStand_keeps H _ _ h) (standsOff_keeps H (withdrawAll_keeps H hw _ h1))
  have h2 : Settled (s.mode ≠ .config) s2 := key (settled_steady _) (fun h => h.congr rfl rfl rfl rfl) hs
  have c2 : s2.committed = s.committed := key (committed_steady s.committed) (fun h => h) rfl
  clear_value s2
  have h3 : ControlInv s3 := by
    refine (h2.congr (t := emptyNotices { s2 with runState := none }) rfl rfl rfl rfl).changeMode _ _ ?_ ?_ ?_
    · unfold restartMode; split <;> decide
    · show s2.committed = true ↔ restartMode s ≠ .config
      rw [c2]
      unfold restartMode
      cases s.committed <;> decide
    · unfold restartMode
      split
      · rename_i hcm
        exact fun _ => h.outputs.committed.mp hcm
      · exact fun hh => absurd rfl hh
  clear_value s3
  split
  · exact h3
  · exact modeConditions_keeps control_raises h3

theorem doRestart_control {s : State} (h : ControlInv s) : ControlInv (doRestart s).2 := by
  unfold doRestart
  split
  · exact h
  · rename_i hm
    dsimp only
    exact restart_control h hm

end Sys2Proof.Machine
end

