-- ==== Sys2Proof/Laws/Requests.lean ====
section
/-! SUPPORT. The requests that change no mode: what each keeps; and the invariants on the mode, the outputs, the trip and the
fault table under every request (`control_serves`). -/

namespace Sys2Proof.Machine

set_option linter.unusedTactic false
set_option linter.unreachableTactic false

variable {P : State → Prop}

/-! ### Configuration -/

theorem leaveBinding_keeps (H : Steady P) (old : Option ChannelConfig) {s : State} (h : P s) : P (leaveBinding old s) := by
  unfold leaveBinding
  split
  · exact h
  · extract_lets s1
    have h1 : P s1 := readersLose_keeps H _ h
    clear_value s1
    split
    · exact inactive_keeps H _ _ h1
    · exact h1

theorem unbindEntry_keeps (H : Steady P) (e : EntryNo) {s : State} (h : P s) : P (unbindEntry e s) :=
  leaveBinding_keeps H _ (setChannel_keeps H _ _ h)

theorem bindEntry_keeps (H : Raises P) (e : EntryNo) (c : ChannelConfig) {s : State} (h : P s) : P (bindEntry e c s) := by
  unfold bindEntry
  extract_lets s1
  have h1 : P s1 := leaveBinding_keeps H.steady _ (setChannel_keeps H.steady _ _ h)
  clear_value s1
  split
  · exact raise_keeps H _ _ h1
  · exact h1

theorem doConfigureChannel_keeps (H : Raises P) (p : ChannelPayload) {s : State} (h : P s) :
    P (doConfigureChannel p s).2 := by
  unfold doConfigureChannel
  repeat' first
    | exact h
    | exact unbindEntry_keeps H.steady _ h
    | exact bindEntry_keeps H _ _ h
    | split
    | dsimp only

theorem takeRecord_keeps (H : Steady P) (k : Stand) (r : StandParams) {s : State} (h : P s) : P (takeRecord k r s) :=
  forceConditionsEnd_keeps H _ (setStand_keeps H _ _ h)

theorem doConfigureStand_keeps (H : Steady P) (p : StandPayload) {s : State} (h : P s) : P (doConfigureStand p s).2 := by
  unfold doConfigureStand
  repeat' first
    | exact h
    | (dsimp only; exact takeRecord_keeps H _ _ h)
    | split

theorem doConfigureLine_keeps (H : Steady P) (p : LinePayload) {s : State} (h : P s) : P (doConfigureLine p s).2 := by
  unfold doConfigureLine
  repeat' first
    | exact h
    | exact H.same h rfl
    | split

/-! ### Queries -/

theorem doScheduleQuery_state (tag : Byte) (s : State) : (doScheduleQuery tag s).2 = s := by
  unfold doScheduleQuery
  dsimp only
  split
  · rfl
  · split
    · rfl
    · split <;> rfl

theorem doFaultQuery_state (kind : Byte) (s : State) : (doFaultQuery kind s).2 = s := by
  unfold doFaultQuery
  split <;> rfl

theorem doSegmentQuery_state (sel : Byte) (arg : BitVec 32) (s : State) : (doSegmentQuery sel arg s).2 = s := by
  unfold doSegmentQuery
  split <;> rfl

theorem doChannelRead_state (entry : Byte) (s : State) : (doChannelRead entry s).2 = s := by
  unfold doChannelRead
  split <;> rfl

theorem doLinkStatus_state (link : Byte) (s : State) : (doLinkStatus link s).2 = s := by
  unfold doLinkStatus
  split <;> rfl

theorem doStatus_state (s : State) : (doStatus s).2 = s := rfl

theorem doIdentify_state (s : State) : (doIdentify s).2 = s := rfl

theorem doLogRead_keeps (H : Steady P) (log : Byte) (first : BitVec 32) (count : BitVec 16) {s : State} (h : P s) :
    P (doLogRead log first count s).2 := by
  unfold doLogRead
  split
  · exact H.same h rfl
  · split <;> exact h

/-! ### Marks, notes and counts -/

theorem markSegments_keeps (H : Steady P) (first : SegNo) (count : BitVec 16) (mark : Bool) (mode : MarkMode) {s : State}
    (h : P s) : P (markSegments first count mark mode s).2 := by
  unfold markSegments
  split
  · exact h
  · rename_i g _
    dsimp only
    have h1 : ∀ n, P (markRange first n mark s) := fun n => H.segments _ (by simp) h
    split
    · exact append_keeps H _ _ (h1 _)
    · exact h1 _

theorem doMarkSet_keeps (H : Steady P) (first : BitVec 32) (count : BitVec 16) (mode : Byte) {s : State} (h : P s) :
    P (doMarkSet first count mode s).2 := by
  unfold doMarkSet
  split
  · exact markSegments_keeps H _ _ _ _ h
  · exact h

theorem doMarkClear_keeps (H : Steady P) (first : BitVec 32) (count : BitVec 16) (mode : Byte) {s : State} (h : P s) :
    P (doMarkClear first count mode s).2 := by
  unfold doMarkClear
  split
  · exact markSegments_keeps H _ _ _ _ h
  · exact h

theorem doSegmentMark_keeps (H : Steady P) (first : BitVec 32) (count : BitVec 16) (action mode : Byte) {s : State}
    (h : P s) : P (doSegmentMark first count action mode s).2 := by
  unfold doSegmentMark
  split
  · exact doMarkSet_keeps H _ _ _ h
  · split
    · exact doMarkClear_keeps H _ _ _ h
    · exact h

theorem doLogWrite_keeps (H : Steady P) (log : Byte) (text : List Byte) {s : State} (h : P s) :
    P (doLogWrite log text s).2 := by
  unfold doLogWrite
  repeat' first
    | exact h
    | exact append_keeps H _ _ h
    | split

theorem resetCounts_keeps (H : Steady P) (ks : BitVec 24) {s : State} (h : P s) : P (resetCounts ks s) := by
  refine foldl_keeps (fun s k h => ?_) _ h
  dsimp only
  split
  · exact H.fault k _ rfl rfl (fun e => e) h
  · exact h

theorem doCountReset_keeps (H : Steady P) (ks : BitVec 24) {s : State} (h : P s) : P (doCountReset ks s).2 := by
  unfold doCountReset
  split
  · exact h
  · exact resetCounts_keeps H ks h

/-! ### Links -/

theorem retrainAction_keeps (H : Steady P) (l : LinkNo) {s : State} (h : P s) : P (retrainAction l s) := by
  unfold retrainAction
  split
  · exact h
  · exact h
  · exact setLink_keeps H _ _ h
  · exact retrainLink_keeps H _ _ h

theorem disableAction_keeps (H : Raises P) (l : LinkNo) {s : State} (h : P s) : P (disableAction l s) := by
  unfold disableAction
  split
  · exact h
  · exact linkLost_keeps H _ _ _ h

theorem enableAction_keeps (H : Raises P) (l : LinkNo) {s : State} (h : P s) : P (enableAction l s) := by
  unfold enableAction
  split
  · dsimp only
    split
    · exact notifyLink_keeps H.steady _ _ _ (raise_keeps H _ _ (setLink_keeps H.steady _ _ h))
    · exact notifyLink_keeps H.steady _ _ _ (setLink_keeps H.steady _ _ h)
  · exact h

theorem clearAction_keeps (H : Steady P) (l : LinkNo) {s : State} (h : P s) : P (clearAction l s) :=
  setLink_keeps H _ _ h

theorem linkAction_keeps {f : LinkNo → State → State} (hf : ∀ l, ∀ {s : State}, P s → P (f l s)) (link : Byte) {s : State}
    (h : P s) : P (linkAction f link s).2 := by
  unfold linkAction
  split
  · exact hf _ h
  · exact h

theorem doLinkControl_keeps (H : Raises P) (link action : Byte) {s : State} (h : P s) :
    P (doLinkControl link action s).2 := by
  unfold doLinkControl
  split
  · exact linkAction_keeps (retrainAction_keeps H.steady) link h
  · split
    · exact linkAction_keeps (disableAction_keeps H) link h
    · split
      · exact linkAction_keeps (enableAction_keeps H) link h
      · split
        · exact linkAction_keeps (clearAction_keeps H.steady) link h
        · exact h

/-! ### Schedules -/

/-- What any new queue and table keep, loads and withdrawals keep. -/
theorem doScheduleLoad_any (H : Steady P) (hq : ∀ {s : State} (q : List Schedule) (t : List InForce), P s →
    P { s with queue := q, table := t }) (take : Byte) (p : SchedulePayload) {s : State} (h : P s) :
    P (doScheduleLoad take p s).2 := by
  have hplace : ∀ c, P (placeSchedule c s).2 := by
    intro c
    unfold placeSchedule
    split
    · exact append_keeps H _ _ (hq s.queue _ h)
    · exact append_keeps H _ _ (hq _ s.table h)
  have hload : ∀ tk, P (loadRecord tk p s).2 := by
    intro tk
    unfold loadRecord
    repeat' first
      | exact h
      | exact hplace _
      | split
  unfold doScheduleLoad doLoadNow doLoadAtWeld
  repeat' first
    | exact h
    | exact hload _
    | split

theorem doWithdraw_any (H : Steady P) (hq : ∀ {s : State} (q : List Schedule) (t : List InForce), P s →
    P { s with queue := q, table := t }) (tag : Byte) {s : State} (h : P s) : P (doWithdraw tag s).2 := by
  unfold doWithdraw
  dsimp only
  split
  · exact h
  · split
    · exact h
    · split
      · exact h
      · exact append_keeps H _ _ (hq _ s.table h)

/-! ### The fault table -/

theorem setPolicy_control {s : State} (h : ControlInv s) (k : Kind) (p : Policy)
    (hfix : fixedKind k = true → p = s.policy[k]) (hl : s.faults[k].latched = true → p = s.policy[k]) :
    ControlInv (s.setPolicy k p) := by
  have hat : ∀ k' : Kind, (s.setPolicy k p).policy[k'] = if k = k' then p else s.policy[k'] := by
    intro k'
    show (s.policy.set k p)[k'] = _
    rw [Fin.getElem_fin, Vector.getElem_set]
    by_cases hk : k = k'
    · subst hk; simp
    · rw [if_neg hk, if_neg (fun hh => hk (Fin.ext hh))]; rfl
  have htr : ∀ k' : Kind, (k = k' → p = s.policy[k]) → (s.setPolicy k p).trips k' = s.trips k' := by
    intro k' hk
    unfold State.trips
    rw [hat]
    by_cases hkk : k = k'
    · subst hkk
      rw [if_pos rfl, hk rfl]
    · rw [if_neg hkk]
  refine ⟨h.outputs.congr rfl rfl rfl rfl rfl rfl, ⟨h.latches.active, h.latches.first, ?_, ?_⟩⟩
  · intro k' hk'
    rw [htr k' (fun e => by subst e; exact hfix hk')]
    exact h.latches.fixed k' hk'
  · intro h0 h1 k' hk'
    show s.faults[k'].latched = false
    by_cases hl' : s.faults[k'].latched = true
    · rw [htr k' (fun e => by subst e; exact hl hl')] at hk'
      exact h.latches.clear h0 h1 k' hk'
    · simpa using hl'

theorem doFaultPolicy_control (kind : Byte) (enable : Bool) (severity : Byte) {s : State} (h : ControlInv s) :
    ControlInv (doFaultPolicy kind enable severity s).2 := by
  unfold doFaultPolicy
  split
  · dsimp only
    split
    · exact h
    · rename_i hf
      split
      · exact h
      · rename_i hl
        dsimp only
        refine setPolicy_control h _ _ ?_ ?_
        · intro hk
          by_contra hne
          exact hf ⟨hk, hne⟩
        · intro hk
          by_contra hne
          exact hl ⟨hk, hne⟩
  · exact h

theorem clearKinds_control (ks : BitVec 24) {s : State} (h : ControlInv s) : ControlInv (clearKinds ks s) := by
  refine foldl_keeps (fun s k h => ?_) _ h
  split
  · unfold FaultEntry.cleared
    split
    · rename_i hc
      refine ⟨h.outputs.congr rfl rfl rfl rfl rfl rfl, ⟨?_, ?_, h.latches.fixed, ?_⟩⟩
      · intro k' hk'
        rw [setFault_at] at hk' ⊢
        by_cases hk : k = k'
        · subst hk
          rw [if_pos rfl] at hk'
          exact absurd hc.2 hk'
        · rw [if_neg hk] at hk' ⊢
          exact h.latches.active k' hk'
      · intro k'
        rw [setFault_at]
        by_cases hk : k = k'
        · subst hk
          rw [if_pos rfl]
          rfl
        · rw [if_neg hk]
          exact h.latches.first k'
      · intro h0 h1 k' hk'
        rw [setFault_at]
        by_cases hk : k = k'
        · subst hk
          rw [if_pos rfl]
        · rw [if_neg hk]
          exact h.latches.clear h0 h1 k' hk'
    · exact control_steady.fault k _ rfl rfl (fun e => e) h
  · exact h

theorem doFaultClear_control (ks : BitVec 24) {s : State} (h : ControlInv s) : ControlInv (doFaultClear ks s).2 := by
  unfold doFaultClear
  split
  · exact h
  · dsimp only
    have h1 := clearKinds_control ks h
    unfold clearFirstOut
    split
    · split
      · exact control_steady.same h1 rfl
      · exact h1
    · exact h1

/-! ### Every request -/

theorem handle_control (r : Request) {s : State} (h : ControlInv s) : ControlInv (handle r s).2 := by
  have S := control_steady
  have R := control_raises
  cases r with
  | configureChannel p => exact doConfigureChannel_keeps R p h
  | configureStand p => exact doConfigureStand_keeps S p h
  | configureLine p => exact doConfigureLine_keeps S p h
  | commitConfig => exact doCommitConfig_control h
  | configOpen => exact doConfigOpen_control h
  | thread => exact doThread_control h
  | run => exact doRun_control h
  | stop => exact doStop_control h
  | tripReset => exact doTripReset_control h
  | restart => exact doRestart_control h
  | scheduleLoad t p => exact doScheduleLoad_any S (fun _ _ h => h.same rfl rfl rfl rfl rfl rfl rfl rfl) t p h
  | scheduleWithdraw t => exact doWithdraw_any S (fun _ _ h => h.same rfl rfl rfl rfl rfl rfl rfl rfl) t h
  | scheduleQuery t => show ControlInv (doScheduleQuery t s).2; rw [doScheduleQuery_state]; exact h
  | faultPolicy k e v => exact doFaultPolicy_control k e v h
  | faultClear ks => exact doFaultClear_control ks h
  | countReset ks => exact doCountReset_keeps S ks h
  | faultQuery k => show ControlInv (doFaultQuery k s).2; rw [doFaultQuery_state]; exact h
  | segmentQuery sel a => show ControlInv (doSegmentQuery sel a s).2; rw [doSegmentQuery_state]; exact h
  | segmentMark f c a m => exact doSegmentMark_keeps S f c a m h
  | channelRead e => show ControlInv (doChannelRead e s).2; rw [doChannelRead_state]; exact h
  | linkStatus l => show ControlInv (doLinkStatus l s).2; rw [doLinkStatus_state]; exact h
  | linkControl l a => exact doLinkControl_keeps R l a h
  | logRead g f c => exact doLogRead_keeps S g f c h
  | logWrite g t => exact doLogWrite_keeps S g t h
  | logClear g =>
    show ControlInv (doLogClear g s).2
    unfold doLogClear
    split
    · exact h
    · split
      · exact h.same rfl rfl rfl rfl rfl rfl rfl rfl
      · exact h
  | status => exact h
  | identify => exact h

/-- The invariants on the mode, the outputs, the trip and the fault table are kept by the field events and by every request. -/
theorem control_serves : Serves ControlInv where
  toFields := control_tracks.fields
  weld := weldPulse_keeps control_tracks
  port := fun _ _ _ h => h.same rfl rfl rfl rfl rfl rfl rfl rfl
  handle := fun r h => handle_control r h

end Sys2Proof.Machine
end

