-- ==== Sys2Proof/Laws/Logs.lean ====
section
/-! SUPPORT. The logs keep their order (R170, R171) and the port its capacities (R180, R183): a predicate that depends on the logs
and the port alone, and that appends, notices and clears keep, is kept by the field events and by every request. -/

namespace Sys2Proof.Machine

/-- Depends on the logs and the port alone, and is kept by what changes them. -/
structure Loose (P : State → Prop) : Prop where
  loose : ∀ {s t : State}, t.logs = s.logs → t.port = s.port → P s → P t
  log : ∀ {s : State} (g : LogNo) (c : LogContent), P s → P (s.append g c)
  notice : ∀ {s : State} (n : Notice), P s → P (s.notify n)
  cleared : ∀ {s : State} (g : LogNo), P s → P (s.setLog g { s.logs[g] with entries := [] })
  port : ∀ {s : State} (p : Port), p.queue.length ≤ max s.port.queue.length Config.rxCapacity →
    p.notices.length ≤ s.port.notices.length → P s → P (s.setPort p)

variable {P : State → Prop}

/-- Another state with the same logs and port. -/
theorem Loose.like (H : Loose P) {s t : State} (h : P s) (hl : t.logs = s.logs) (hp : t.port = s.port) : P t :=
  H.loose hl hp h

theorem Loose.steady (H : Loose P) : Steady P where
  other := fun e h => H.loose (core_logs e) (core_port e) h
  fault := fun _ _ _ _ _ h => H.like h rfl rfl
  safe := fun _ h => H.like h rfl rfl
  log := fun g c h => H.log g c h
  notice := fun n h => H.notice n h
  segments := fun _ _ h => H.like h rfl rfl
  point := fun _ _ _ h => H.like h rfl rfl
  unstart := fun h => H.like h rfl rfl
  records := fun _ _ h => H.like h rfl rfl
  changes := fun _ _ h => H.like h rfl rfl
  entries := fun _ _ _ h => H.like h rfl rfl

theorem Loose.careless (H : Loose P) : Careless P where
  steady := H.steady
  anyFault := fun _ _ h => H.like h rfl rfl
  anyTrip := fun _ _ h => H.like h rfl rfl
  tripped := fun h => H.like h rfl rfl

theorem Loose.tracks (H : Loose P) : Tracks P where
  toRaises := H.careless.raises
  start := fun _ _ h => H.like h rfl rfl
  opens := fun n h => openNext_any H.careless.raises (fun _ h => H.like h rfl rfl) n h
  report := fun _ _ h => H.like h rfl rfl
  change := fun _ _ h => H.like h rfl rfl
  take := fun _ _ _ _ _ h => H.like h rfl rfl

theorem changeMode_loose (H : Loose P) (m : Mode) (c : ModeCause) {s : State} (h : P s) : P (s.changeMode m c) :=
  H.notice _ (H.like h rfl rfl)

theorem beginThread_loose (H : Loose P) (e : InForce) {s : State} (h : P s) : P (beginThread e s) := by
  unfold beginThread
  extract_lets s1 s2 s3
  have h1 : P s1 := H.like h rfl rfl
  have ha : P (addSegment 0 s1) := by
    unfold addSegment
    split
    · exact h1
    · dsimp only
      exact modifyReport_keeps H.steady _ _ (addRef_keeps H.steady _ (H.like h1 rfl rfl))
  have h2 : P s2 := startPoint_keeps H.steady H.tracks.start _ _ ha
  have h3 : P s3 := forStands_keeps (fun k s h => threadStand_keeps H.steady e k h) h2
  exact modeConditions_keeps H.careless.raises
    (forStands_keeps (fun k s h => threadHold_keeps H.steady k h) (changeMode_loose H _ _ h3))

theorem resetTrip_loose (H : Loose P) {s : State} (h : P s) : P (resetTrip s) := by
  unfold resetTrip
  extract_lets s1 s2
  have he : P (tripEnds s) := by
    unfold tripEnds
    extract_lets s0
    have h0 : P s0 := H.like h rfl rfl
    clear_value s0
    split
    · exact H.log _ _ h0
    · exact h0
  have h2 : P s2 := forStands_keeps (fun k s h => actuatorAtTripReset_keeps H.steady k h)
    (forStands_keeps (fun k s h => enterIdleMode_keeps H.steady _ k h) (clearTracking_keeps H.steady _ _ he))
  exact modeConditions_keeps H.careless.raises (changeMode_loose H _ _ h2)

theorem restart_loose (H : Loose P) {s : State} (h : P s) : P (restart s) := by
  unfold restart
  extract_lets s1 s2 s3
  have h1 : P s1 := by
    dsimp only [s1]
    split
    · exact restartTracking_keeps H.steady h
    · exact h
  have h2 : P s2 := forStands_keeps (fun k s h => setStand_keeps H.steady _ _ h)
    (standsOff_keeps H.steady (withdrawAll_keeps H.steady (fun h => H.like h rfl rfl) _ h1))
  clear_value s2
  have h3 : P s3 := by
    refine changeMode_loose H _ _ ?_
    have := H.port { s2.port with notices := [], waiting := s2.port.waiting.map fun (w : Waiting) => { w with ahead := 0 } }
      (Nat.le_max_left _ _) (Nat.zero_le _) h2
    exact H.like this rfl rfl
  clear_value s3
  split
  · exact h3
  · exact modeConditions_keeps H.careless.raises h3

theorem Loose.handle (H : Loose P) (r : Request) {s : State} (h : P s) : P (handle r s).2 := by
  have S := H.steady
  have R := H.careless.raises
  cases r with
  | configureChannel p => exact doConfigureChannel_keeps R p h
  | configureStand p => exact doConfigureStand_keeps S p h
  | configureLine p => exact doConfigureLine_keeps S p h
  | commitConfig =>
    show P (doCommitConfig s).2
    unfold doCommitConfig
    split
    · exact h
    · split
      · exact h
      · dsimp only
        exact modeConditions_keeps R (changeMode_loose H _ _ (H.like h rfl rfl))
  | configOpen =>
    show P (doConfigOpen s).2
    unfold doConfigOpen
    split
    · exact h
    · dsimp only
      exact modeConditions_keeps R (changeMode_loose H _ _
        (withdrawAll_keeps S (fun h => H.like h rfl rfl) _ (H.like h rfl rfl)))
  | thread =>
    show P (doThread s).2
    unfold doThread
    split
    · exact h
    · split
      · exact h
      · split
        · exact h
        · split
          · exact h
          · dsimp only
            exact beginThread_loose H _ h
  | run =>
    show P (doRun s).2
    unfold doRun
    split
    · exact h
    · split
      · exact h
      · dsimp only
        exact modeConditions_keeps R
          (forStands_keeps (fun k s h => judgeAtRun_keeps S k h) (changeMode_loose H _ _ h))
  | stop =>
    show P (doStop s).2
    unfold doStop
    split
    · exact h
    · dsimp only
      exact modeConditions_keeps R (changeMode_loose H _ _ (standsOff_keeps S (clearTracking_keeps S _ _ h)))
  | tripReset =>
    show P (doTripReset s).2
    unfold doTripReset
    split
    · exact h
    · split
      · exact h
      · split
        · exact h
        · dsimp only
          exact resetTrip_loose H h
  | restart =>
    show P (doRestart s).2
    unfold doRestart
    split
    · exact h
    · dsimp only
      exact restart_loose H h
  | scheduleLoad t p => exact doScheduleLoad_any S (fun _ _ h => H.like h rfl rfl) t p h
  | scheduleWithdraw t => exact doWithdraw_any S (fun _ _ h => H.like h rfl rfl) t h
  | scheduleQuery t => show P (doScheduleQuery t s).2; rw [doScheduleQuery_state]; exact h
  | faultPolicy k e v =>
    show P (doFaultPolicy k e v s).2
    unfold doFaultPolicy
    split
    · dsimp only
      split
      · exact h
      · split
        · exact h
        · exact H.like h rfl rfl
    · exact h
  | faultClear ks =>
    show P (doFaultClear ks s).2
    unfold doFaultClear
    split
    · exact h
    · dsimp only
      have h1 : P (clearKinds ks s) := by
        refine foldl_keeps (fun s k h => ?_) _ h
        split
        · exact H.like h rfl rfl
        · exact h
      unfold clearFirstOut
      split
      · split
        · exact H.like h1 rfl rfl
        · exact h1
      · exact h1
  | countReset ks => exact doCountReset_keeps S ks h
  | faultQuery k => show P (doFaultQuery k s).2; rw [doFaultQuery_state]; exact h
  | segmentQuery sel a => show P (doSegmentQuery sel a s).2; rw [doSegmentQuery_state]; exact h
  | segmentMark f c a m => exact doSegmentMark_keeps S f c a m h
  | channelRead e => show P (doChannelRead e s).2; rw [doChannelRead_state]; exact h
  | linkStatus l => show P (doLinkStatus l s).2; rw [doLinkStatus_state]; exact h
  | linkControl l a => exact doLinkControl_keeps R l a h
  | logRead g f c => exact doLogRead_keeps S g f c h
  | logWrite g t => exact doLogWrite_keeps S g t h
  | logClear g =>
    show P (doLogClear g s).2
    unfold doLogClear
    split
    · exact h
    · split
      · exact H.cleared _ h
      · exact h
  | status => exact h
  | identify => exact h

theorem Loose.serves (H : Loose P) : Serves P where
  toFields := H.tracks.fields
  weld := fun h => weldPulse_keeps H.tracks h
  port := fun p a b h => H.port p a b h
  handle := fun r h => H.handle r h

/-! ### The logs -/

/-- R170: an empty log is in order, whatever its counter. -/
theorem Log.InOrder.empty (n : BitVec 32) (capacity : Nat) : Log.InOrder ⟨[], n⟩ capacity :=
  ⟨Nat.zero_le _, fun _ h => absurd h (Nat.not_lt_zero _)⟩

/-- The number of an entry seen from the counter before and after an append. -/
theorem seq_succ (a b : BitVec 32) : a - b = a + 1 - (b + BitVec.ofNat 32 1) := by
  have h : BitVec.ofNat 32 1 = (1 : BitVec 32) := rfl
  rw [h]
  bv_omega

/-- R171: an append keeps a log in order. -/
theorem Log.InOrder.append {g : Log} {capacity : Nat} (h : g.InOrder capacity) (hc : 0 < capacity) (t : Millis)
    (c : LogContent) : (g.append capacity t c).InOrder capacity := by
  obtain ⟨hf, hn⟩ := h
  unfold Log.append
  by_cases hl : g.entries.length < capacity
  · rw [if_pos hl]
    refine ⟨by simp; omega, ?_⟩
    intro i hi
    simp only [List.length_append, List.length_cons, List.length_nil] at hi ⊢
    by_cases hi' : i < g.entries.length
    · rw [List.getElem_append_left hi', hn i hi']
      have : g.entries.length + (0 + 1) - i = (g.entries.length - i) + 1 := by omega
      rw [this, BitVec.ofNat_add]
      exact seq_succ _ _
    · have : i = g.entries.length := by omega
      subst this
      rw [List.getElem_append_right (Nat.le_refl _)]
      simp
  · rw [if_neg hl]
    have he : g.entries.length = capacity := by omega
    refine ⟨by simp; omega, ?_⟩
    intro i hi
    simp only [List.length_append, List.length_drop, List.length_cons, List.length_nil] at hi ⊢
    by_cases hi' : i < (g.entries.drop 1).length
    · rw [List.getElem_append_left hi', List.getElem_drop]
      rw [List.length_drop] at hi'
      rw [hn (1 + i) (by omega)]
      have : g.entries.length - 1 + (0 + 1) - i = (g.entries.length - (1 + i)) + 1 := by omega
      rw [this, BitVec.ofNat_add]
      exact seq_succ _ _
    · rw [List.length_drop] at hi'
      have : i = (g.entries.drop 1).length := by rw [List.length_drop]; omega
      subst this
      rw [List.getElem_append_right (Nat.le_refl _)]
      simp

/-- One log replaced, every other one as before. -/
theorem setLog_at (s : State) (g : LogNo) (x : Log) (g' : LogNo) :
    (s.setLog g x).logs[g'] = if g = g' then x else s.logs[g'] := by
  show (s.logs.set g x)[g'] = _
  rw [Fin.getElem_fin, Vector.getElem_set]
  by_cases hk : g = g'
  · subst hk; simp
  · rw [if_neg hk, if_neg (fun hh => hk (Fin.ext hh))]; rfl

theorem logs_loose : Loose LogsInOrder where
  loose := by
    intro s t hl _ h g
    rw [hl]
    exact h g
  log := by
    intro s g c h g'
    unfold State.append
    rw [setLog_at]
    by_cases hg : g = g'
    · subst hg
      rw [if_pos rfl]
      exact (h g).append (by revert g; decide) _ _
    · rw [if_neg hg]
      exact h g'
  notice := fun _ h => h
  cleared := by
    intro s g h g'
    rw [setLog_at]
    by_cases hg : g = g'
    · subst hg
      rw [if_pos rfl]
      exact Log.InOrder.empty _ _
    · rw [if_neg hg]
      exact h g'
  port := fun _ _ _ h => h

/-! ### The port's queues -/

/-- R180, R183: the port's queues hold no more than their capacities. -/
def PortFits (s : State) : Prop :=
  s.port.queue.length ≤ Config.rxCapacity ∧ s.port.notices.length ≤ Config.noticeCapacity

theorem removeNewestOther_length : ∀ {l : List Notice} {i : Nat} {r : List Notice},
    removeNewestOther l = some (i, r) → r.length + 1 = l.length := by
  intro l
  induction l with
  | nil => intro i r h; cases h
  | cons n rest ih =>
    intro i r h
    unfold removeNewestOther at h
    split at h
    · rename_i j q hq
      cases h
      simp [ih hq]
    · split at h
      · cases h
      · cases h
        rfl

/-- R183, R184: a notice that joins the queue leaves it within its capacity. -/
theorem queueNotice_fits (p : Port) (n : Notice) (h : p.notices.length ≤ Config.noticeCapacity) :
    (p.queueNotice n).queue = p.queue ∧ (p.queueNotice n).notices.length ≤ Config.noticeCapacity := by
  unfold Port.queueNotice
  split
  · rename_i hl
    refine ⟨rfl, ?_⟩
    show (p.notices ++ [n]).length ≤ _
    rw [List.length_append]
    exact hl
  · split
    · split
      · rename_i i rest hr
        refine ⟨rfl, ?_⟩
        show (rest ++ [n]).length ≤ _
        rw [List.length_append]
        have := removeNewestOther_length hr
        show rest.length + 1 ≤ _
        omega
      · exact ⟨rfl, h⟩
    · exact ⟨rfl, h⟩

theorem portFits_loose : Loose PortFits where
  loose := by
    intro s t _ hp h
    unfold PortFits
    rw [hp]
    exact h
  log := fun _ _ h => h
  notice := by
    intro s n h
    obtain ⟨h1, h2⟩ := queueNotice_fits s.port n h.2
    refine ⟨?_, h2⟩
    show (s.port.queueNotice n).queue.length ≤ _
    rw [h1]
    exact h.1
  cleared := fun _ h => h
  port := fun p a b h => ⟨Nat.le_trans a (Nat.max_le.mpr ⟨h.1, Nat.le_refl _⟩), Nat.le_trans b h.2⟩

end Sys2Proof.Machine
end

