-- ==== Sys2Proof/Laws/Capacity.lean ====
section
/-! SUPPORT. The capacities (R45, R74, R85, R156) and what CONFIG and READY rule out (R6, R8): the field events and every request
keep them. -/

namespace Sys2Proof.Machine

/-- The bounds alone: capacities, and the one entry flag of a table that is not empty. -/
structure Bare (s : State) : Prop where
  ring : s.ring.length ≤ Config.ringCapacity
  queue : s.queue.length ≤ Config.queueCapacity
  table : s.table.length ≤ Config.tableCapacity
  flag : s.table = [] ∨ (s.table.filter (·.isEntry)).length = 1
  transitions : s.transitions.length ≤ Config.transitionCapacity
  reports : s.reports.length ≤ Config.reportCapacity

/-- Nothing is tracked. -/
structure Untracked (s : State) : Prop where
  ring : s.ring = []
  reports : s.reports = []
  transitions : s.transitions = []
  points : ∀ p : PointNo, s.points[p].started = false

/-- The bounds, and what CONFIG and READY rule out: `WithinCapacity` but for the port. -/
structure Bounded (s : State) : Prop where
  bare : Bare s
  untracked : s.mode = .config ∨ s.mode = .ready → Untracked s
  unscheduled : s.mode = .config → s.queue = [] ∧ s.table = []

/-- The two halves of `WithinCapacity`. -/
theorem withinCapacity_iff (s : State) : WithinCapacity s ↔ Bounded s ∧ PortFits s := by
  constructor
  · intro h
    exact ⟨⟨⟨h.ring, h.queue, h.table, h.flag, h.transitions, h.reports⟩,
      fun hm => ⟨(h.untracked hm).1, (h.untracked hm).2.1, (h.untracked hm).2.2.1, (h.untracked hm).2.2.2⟩,
      h.unscheduled⟩, ⟨h.received, h.notices⟩⟩
  · rintro ⟨h, hp⟩
    exact ⟨h.bare.ring, h.bare.queue, h.bare.table, h.bare.flag, h.bare.transitions, h.bare.reports, hp.1, hp.2,
      fun hm => ⟨(h.untracked hm).ring, (h.untracked hm).reports, (h.untracked hm).transitions, (h.untracked hm).points⟩,
      h.unscheduled⟩

/-! ### What the bounds depend on -/

theorem Bare.congr {s t : State} (h : Bare s) (h1 : t.ring = s.ring) (h2 : t.queue = s.queue) (h3 : t.table = s.table)
    (h4 : t.transitions = s.transitions) (h5 : t.reports = s.reports) : Bare t where
  ring := h1 ▸ h.ring
  queue := h2 ▸ h.queue
  table := h3 ▸ h.table
  flag := by rw [h3]; exact h.flag
  transitions := h4 ▸ h.transitions
  reports := h5 ▸ h.reports

theorem Untracked.congr {s t : State} (h : Untracked s) (h1 : t.ring = s.ring) (h2 : t.reports = s.reports)
    (h3 : t.transitions = s.transitions) (h4 : t.points = s.points) : Untracked t where
  ring := h1 ▸ h.ring
  reports := h2 ▸ h.reports
  transitions := h3 ▸ h.transitions
  points := by intro p; rw [h4]; exact h.points p

theorem Bounded.congr {s t : State} (h : Bounded s) (hm : t.mode = s.mode) (h1 : t.ring = s.ring) (h2 : t.queue = s.queue)
    (h3 : t.table = s.table) (h4 : t.transitions = s.transitions) (h5 : t.reports = s.reports)
    (h6 : t.points = s.points) : Bounded t where
  bare := h.bare.congr h1 h2 h3 h4 h5
  untracked := by rw [hm]; exact fun hh => (h.untracked hh).congr h1 h5 h4 h6
  unscheduled := by rw [hm, h2, h3]; exact h.unscheduled

theorem setPoint_at (s : State) (p : PointNo) (x : Point) (q : PointNo) :
    (s.setPoint p x).points[q] = if p = q then x else s.points[q] := by
  show (s.points.set p x)[q] = _
  rw [Fin.getElem_fin, Vector.getElem_set]
  by_cases hk : p = q
  · subst hk; simp
  · rw [if_neg hk, if_neg (fun hh => hk (Fin.ext hh))]; rfl

theorem bare_steady : Steady Bare where
  other := fun e h => h.congr (core_ring e) (core_queue e) (core_table e) (core_transitions e) (core_reports e)
  fault := fun _ _ _ _ _ h => h.congr rfl rfl rfl rfl rfl
  safe := fun _ h => h.congr rfl rfl rfl rfl rfl
  log := fun _ _ h => h.congr rfl rfl rfl rfl rfl
  notice := fun _ h => h.congr rfl rfl rfl rfl rfl
  segments := fun _ hl h => ⟨Nat.le_trans hl h.ring, h.queue, h.table, h.flag, h.transitions, h.reports⟩
  point := fun _ _ _ h => h.congr rfl rfl rfl rfl rfl
  unstart := fun h => h.congr rfl rfl rfl rfl rfl
  records := fun _ hl h => ⟨h.ring, h.queue, h.table, h.flag, h.transitions, Nat.le_trans hl h.reports⟩
  changes := fun _ hl h => ⟨h.ring, h.queue, h.table, h.flag, Nat.le_trans hl h.transitions, h.reports⟩
  entries := by
    intro s r hl hf h
    refine ⟨h.ring, h.queue, Nat.le_trans hl h.table, ?_, h.transitions, h.reports⟩
    rcases h.flag with h0 | h1
    · left
      rw [h0] at hl
      exact List.length_eq_zero_iff.mp (Nat.le_zero.mp hl)
    · right
      exact hf.trans h1

theorem untracked_steady : Steady Untracked where
  other := fun e h => h.congr (core_ring e) (core_reports e) (core_transitions e) (core_points e)
  fault := fun _ _ _ _ _ h => h.congr rfl rfl rfl rfl
  safe := fun _ h => h.congr rfl rfl rfl rfl
  log := fun _ _ h => h.congr rfl rfl rfl rfl
  notice := fun _ h => h.congr rfl rfl rfl rfl
  segments := fun r hl h => ⟨List.length_eq_zero_iff.mp (by rw [h.ring] at hl; exact Nat.le_zero.mp hl), h.reports,
    h.transitions, h.points⟩
  point := by
    intro s p x hx h
    refine ⟨h.ring, h.reports, h.transitions, ?_⟩
    intro q
    rw [setPoint_at]
    split
    · rw [hx]; exact h.points p
    · exact h.points q
  unstart := by
    intro s h
    refine ⟨h.ring, h.reports, h.transitions, ?_⟩
    intro q
    show (Vector.replicate 9 Point.unstarted)[q].started = false
    rw [Fin.getElem_fin, Vector.getElem_replicate]
    rfl
  records := fun r hl h => ⟨h.ring, List.length_eq_zero_iff.mp (by rw [h.reports] at hl; exact Nat.le_zero.mp hl),
    h.transitions, h.points⟩
  changes := fun r hl h => ⟨h.ring, h.reports,
    List.length_eq_zero_iff.mp (by rw [h.transitions] at hl; exact Nat.le_zero.mp hl), h.points⟩
  entries := fun _ _ _ h => h.congr rfl rfl rfl rfl

/-- Modes, queue and table as the steady changes leave them. -/
theorem Bounded.of {s : State} (h : Bounded s) {t : State} (hm : t.mode = s.mode) (hb : Bare t)
    (hu : Untracked s → Untracked t) (hq : s.queue = [] ∧ s.table = [] → t.queue = [] ∧ t.table = []) : Bounded t :=
  ⟨hb, by rw [hm]; exact fun hh => hu (h.untracked hh), by rw [hm]; exact fun hh => hq (h.unscheduled hh)⟩

theorem bounded_steady : Steady Bounded where
  other := fun e h => h.congr (core_mode e) (core_ring e) (core_queue e) (core_table e) (core_transitions e)
    (core_reports e) (core_points e)
  fault := fun _ _ _ _ _ h => h.congr rfl rfl rfl rfl rfl rfl rfl
  safe := fun _ h => h.congr rfl rfl rfl rfl rfl rfl rfl
  log := fun _ _ h => h.congr rfl rfl rfl rfl rfl rfl rfl
  notice := fun _ h => h.congr rfl rfl rfl rfl rfl rfl rfl
  segments := fun r hl h => h.of rfl (bare_steady.segments r hl h.bare) (untracked_steady.segments r hl) (fun x => x)
  point := fun p x hx h => h.of rfl (bare_steady.point p x hx h.bare) (untracked_steady.point p x hx) (fun x => x)
  unstart := fun h => h.of rfl (bare_steady.unstart h.bare) untracked_steady.unstart (fun x => x)
  records := fun r hl h => h.of rfl (bare_steady.records r hl h.bare) (untracked_steady.records r hl) (fun x => x)
  changes := fun r hl h => h.of rfl (bare_steady.changes r hl h.bare) (untracked_steady.changes r hl) (fun x => x)
  entries := fun r hl hf h => h.of rfl (bare_steady.entries r hl hf h.bare) (untracked_steady.entries r hl hf)
    (fun x => ⟨x.1, List.length_eq_zero_iff.mp (by rw [x.2] at hl; exact Nat.le_zero.mp hl)⟩)

/-- The bounds in a state whose mode rules nothing out. -/
theorem Bare.bounded {s : State} (h : Bare s) (h1 : s.mode ≠ .config) (h2 : s.mode ≠ .ready) : Bounded s :=
  ⟨h, fun hm => hm.elim (fun x => absurd x h1) (fun x => absurd x h2), fun hm => absurd hm h1⟩

theorem bounded_careless : Careless Bounded where
  steady := bounded_steady
  anyFault := fun _ _ h => h.congr rfl rfl rfl rfl rfl rfl rfl
  anyTrip := fun _ _ h => h.congr rfl rfl rfl rfl rfl rfl rfl
  tripped := fun {s} h => Bare.bounded (s := s.setMode .tripped) (h.bare.congr rfl rfl rfl rfl rfl)
    (by show Mode.tripped ≠ .config; decide) (by show Mode.tripped ≠ .ready; decide)

/-! ### While the strip is tracked -/

/-- The bounds in THREAD, RUN and TRIPPED. -/
structure Roused (s : State) : Prop where
  bounded : Bounded s
  config : s.mode ≠ .config
  ready : s.mode ≠ .ready

theorem Roused.like {s t : State} (h : Roused s) (hb : Bounded t) (hm : t.mode = s.mode) : Roused t :=
  ⟨hb, hm ▸ h.config, hm ▸ h.ready⟩

theorem Roused.bare {s t : State} (h : Roused s) (hb : Bare t) (hm : t.mode = s.mode) : Roused t :=
  h.like (hb.bounded (hm ▸ h.config) (hm ▸ h.ready)) hm

theorem roused_careless : Careless Roused where
  steady :=
    { other := fun e h => h.like (bounded_steady.other e h.bounded) (core_mode e)
      fault := fun k e a b c h => h.like (bounded_steady.fault k e a b c h.bounded) rfl
      safe := fun a h => h.like (bounded_steady.safe a h.bounded) rfl
      log := fun g c h => h.like (bounded_steady.log g c h.bounded) rfl
      notice := fun n h => h.like (bounded_steady.notice n h.bounded) rfl
      segments := fun r a h => h.like (bounded_steady.segments r a h.bounded) rfl
      point := fun p x a h => h.like (bounded_steady.point p x a h.bounded) rfl
      unstart := fun h => h.like (bounded_steady.unstart h.bounded) rfl
      records := fun r a h => h.like (bounded_steady.records r a h.bounded) rfl
      changes := fun r a h => h.like (bounded_steady.changes r a h.bounded) rfl
      entries := fun r a b h => h.like (bounded_steady.entries r a b h.bounded) rfl }
  anyFault := fun k e h => h.like (bounded_careless.anyFault k e h.bounded) rfl
  anyTrip := fun t b h => h.like (bounded_careless.anyTrip t b h.bounded) rfl
  tripped := fun h => ⟨bounded_careless.tripped h.bounded, by show Mode.tripped ≠ .config; decide,
    by show Mode.tripped ≠ .ready; decide⟩

theorem roused_tracks : Tracks Roused where
  toRaises := roused_careless.raises
  start := fun {s} p x h => h.bare (t := s.setPoint p x) (h.bounded.bare.congr rfl rfl rfl rfl rfl) rfl
  opens := fun n h => openNext_of roused_careless.raises (fun h => h.bounded.bare.ring)
    (fun {s} g hl h => h.bare (t := { s with ring := s.ring ++ [g] })
      ⟨by show (s.ring ++ [g]).length ≤ _; rw [List.length_append]; exact hl, h.bounded.bare.queue, h.bounded.bare.table,
        h.bounded.bare.flag, h.bounded.bare.transitions, h.bounded.bare.reports⟩ rfl) n h
  report := fun {s} r hl h => h.bare (t := { s with reports := s.reports ++ [r] })
    ⟨h.bounded.bare.ring, h.bounded.bare.queue, h.bounded.bare.table, h.bounded.bare.flag, h.bounded.bare.transitions,
      by show (s.reports ++ [r]).length ≤ _; rw [List.length_append]; exact hl⟩ rfl
  change := fun {s} t hl h => h.bare (t := { s with transitions := s.transitions ++ [t] })
    ⟨h.bounded.bare.ring, h.bounded.bare.queue, h.bounded.bare.table, h.bounded.bare.flag,
      by show (s.transitions ++ [t]).length ≤ _; rw [List.length_append]; exact hl, h.bounded.bare.reports⟩ rfl
  take := by
    intro s q new hq ht hn h
    refine h.bare (t := { s with
      queue := q, table := s.table.map (fun (e : InForce) => { e with isEntry := false }) ++ [new] }) ?_ rfl
    refine ⟨h.bounded.bare.ring, Nat.le_trans hq h.bounded.bare.queue, ?_, Or.inr ?_, h.bounded.bare.transitions,
      h.bounded.bare.reports⟩
    · show (s.table.map _ ++ [new]).length ≤ _
      rw [List.length_append, List.length_map]
      exact ht
    · show ((s.table.map _ ++ [new]).filter _).length = 1
      rw [List.filter_append, List.filter_map]
      simp [hn, Function.comp_def]

/-! ### Samples reach tracking -/

theorem startedMode {s : State} (h : Bounded s) (p : PointNo) (hp : s.points[p].started = true) : Roused s := by
  refine ⟨h, ?_, ?_⟩
  · intro hm
    have := (h.untracked (Or.inl hm)).points p
    rw [hp] at this
    cases this
  · intro hm
    have := (h.untracked (Or.inr hm)).points p
    rw [hp] at this
    cases this

theorem tracking_roused {s : State} (h : Bounded s) (ht : s.tracking = true) : Roused s := by
  have hm : s.mode = .thread ∨ s.mode = .run := by simpa [State.tracking] using ht
  exact ⟨h, by rcases hm with h0 | h0 <;> rw [h0] <;> decide, by rcases hm with h0 | h0 <;> rw [h0] <;> decide⟩

theorem foldl_id {α : Type} {f : State → α → State} {s : State} (hf : ∀ a, f s a = s) (l : List α) : l.foldl f s = s := by
  induction l with
  | nil => rfl
  | cons a l ih => rw [List.foldl_cons, hf]; exact ih

theorem bounded_fields : Fields Bounded where
  toRaises := bounded_careless.raises
  starting := by
    intro s p t h
    by_cases ht : s.tracking = true
    · exact (startingEvent_tracked roused_tracks p t (tracking_roused h ht)).bounded
    · unfold startingEvent
      rw [if_neg (fun hh => ht hh.1)]
      exact h
  speed := by
    intro s k v t h
    by_cases hm : s.mode = .config ∨ s.mode = .ready
    · unfold speedSample
      have hu := h.untracked hm
      rw [foldl_id (s := s) (fun p => by
        rw [if_neg]
        rw [hu.points p]
        simp)]
      exact setSpeed_keeps bounded_steady _ _ h
    · have hr : Roused s := ⟨h, fun x => hm (Or.inl x), fun x => hm (Or.inr x)⟩
      exact (speedSample_tracked roused_tracks k v t hr).bounded
  length := by
    intro s i t h
    by_cases hp : s.points[PointNo.x0].started = true
    · exact (lengthSample_tracked roused_tracks i t (startedMode h _ hp)).bounded
    · unfold lengthSample
      rw [if_neg (fun hh => hp hh.1)]
      exact h
  closing := by
    intro s t h
    by_cases hp : s.points[PointNo.x0].started = true
    · exact (closingAdvance_tracked roused_tracks t (startedMode h _ hp)).bounded
    · unfold closingAdvance
      rw [if_neg (fun hh => hp hh.1)]
      exact h

theorem weldPulse_bounded {s : State} (h : Bounded s) : Bounded (weldPulse s) := by
  by_cases ht : s.tracking = true
  · exact (weldPulse_keeps roused_tracks (tracking_roused h ht)).bounded
  · unfold weldPulse
    rw [if_neg (fun hh => ht hh.1)]
    exact h

/-! ### The clearing of tracking -/

/-- Releases take one segment each from the ring. -/
theorem releaseSegment_ring (g : Segment) (c : ReleaseCause) (v : Option Verdict) {s : State} {n : Nat}
    (h : s.ring.length ≤ n + 1) : (releaseSegment g c v s).ring.length ≤ n := by
  unfold releaseSegment
  extract_lets +onlyGivenNames s1
  have hs1 : s1.ring.length ≤ n := by
    show (s.ring.drop 1).length ≤ _
    rw [List.length_drop]
    omega
  clear_value s1
  have H := ringLength_steady n
  extract_lets +onlyGivenNames s2 s3 s4 s5
  have hs2 : s2.ring.length ≤ n := by
    dsimp only [s2]; split
    · exact hs1
    · exact endRunOf_keeps H _ hs1
  have hs3 : s3.ring.length ≤ n := modifyReport_keeps H _ _ hs2
  have hs4 : s4.ring.length ≤ n := by
    dsimp only [s4]; split
    · exact hs3
    · exact judgeCompletion_keeps H _ hs3
  have hs5 : s5.ring.length ≤ n := dropRef_keeps H _ hs4
  split
  · exact completeTransition_keeps H _ _ hs5
  · exact hs5

theorem releaseFold_ring (c : ReleaseCause) (l : List Segment) : ∀ {s : State}, s.ring.length ≤ l.length →
    (l.foldl (fun s g => releaseSegment g c none s) s).ring.length ≤ 0 := by
  induction l with
  | nil => exact fun h => h
  | cons g l ih => exact fun h => ih (releaseSegment_ring g c none h)

/-- R68: every segment is released. -/
theorem releaseAll_ring (c : ReleaseCause) (s : State) : (releaseAll c s).ring = [] :=
  List.length_eq_zero_iff.mp (Nat.le_zero.mp (releaseFold_ring c s.ring (Nat.le_refl _)))

theorem closeReport_reports (c : CoilNo) (st : ReportState) (s : State) :
    (closeReport c st s).reports = s.reports.filter (·.coil ≠ c) := by
  unfold closeReport
  split
  · rfl
  · rename_i hr
    unfold State.report at hr
    rw [List.find?_eq_none] at hr
    symm
    rw [List.filter_eq_self]
    intro r hm
    have := hr r hm
    simpa using this

theorem closeFold_reports (st : ReportState) (l : List CoilReport) : ∀ {s : State},
    (∀ r ∈ s.reports, ∃ x ∈ l, x.coil = r.coil) → (l.foldl (fun s r => closeReport r.coil st s) s).reports = [] := by
  induction l with
  | nil =>
    intro s h
    rw [List.foldl_nil]
    refine List.eq_nil_iff_forall_not_mem.mpr fun r hr => ?_
    obtain ⟨x, hx, _⟩ := h r hr
    cases hx
  | cons a l ih =>
    intro s h
    rw [List.foldl_cons]
    refine ih fun r hr => ?_
    rw [closeReport_reports] at hr
    obtain ⟨hr, hne⟩ := List.mem_filter.mp hr
    obtain ⟨x, hx, hxr⟩ := h r hr
    rcases List.mem_cons.mp hx with hx | hx
    · subst hx
      exact absurd hxr.symm (by simpa using hne)
    · exact ⟨x, hx, hxr⟩

/-- R11 step 2: every open report is closed. -/
theorem closeAllReports_reports (st : ReportState) (s : State) : (closeAllReports st s).reports = [] :=
  closeFold_reports st s.reports fun r hr => ⟨r, hr, rfl⟩

/-- An empty ring stays empty under what opens no segment. -/
theorem ringEmpty_steady : Steady (fun s : State => s.ring = []) where
  other := fun e h => (core_ring e).trans h
  fault := fun _ _ _ _ _ h => h
  safe := fun _ h => h
  log := fun _ _ h => h
  notice := fun _ h => h
  segments := fun r hl h => List.length_eq_zero_iff.mp (by rw [h] at hl; exact Nat.le_zero.mp hl)
  point := fun _ _ _ h => h
  unstart := fun h => h
  records := fun _ _ h => h
  changes := fun _ _ h => h
  entries := fun _ _ _ h => h

/-- No open report stays so under what opens none. -/
theorem reportsEmpty_steady : Steady (fun s : State => s.reports = []) where
  other := fun e h => (core_reports e).trans h
  fault := fun _ _ _ _ _ h => h
  safe := fun _ h => h
  log := fun _ _ h => h
  notice := fun _ h => h
  segments := fun _ _ h => h
  point := fun _ _ _ h => h
  unstart := fun h => h
  records := fun r hl h => List.length_eq_zero_iff.mp (by rw [h] at hl; exact Nat.le_zero.mp hl)
  changes := fun _ _ h => h
  entries := fun _ _ _ h => h

/-- No transition stays so under what takes none. -/
theorem transitionsEmpty_steady : Steady (fun s : State => s.transitions = []) where
  other := fun e h => (core_transitions e).trans h
  fault := fun _ _ _ _ _ h => h
  safe := fun _ h => h
  log := fun _ _ h => h
  notice := fun _ h => h
  segments := fun _ _ h => h
  point := fun _ _ _ h => h
  unstart := fun h => h
  records := fun _ _ h => h
  changes := fun r hl h => List.length_eq_zero_iff.mp (by rw [h] at hl; exact Nat.le_zero.mp hl)
  entries := fun _ _ _ h => h

/-- No point is started. -/
theorem pointsEmpty_steady : Steady (fun s : State => ∀ p : PointNo, s.points[p].started = false) where
  other := fun e h => by intro p; rw [core_points e]; exact h p
  fault := fun _ _ _ _ _ h => h
  safe := fun _ h => h
  log := fun _ _ h => h
  notice := fun _ h => h
  segments := fun _ _ h => h
  point := by
    intro s p x hx h q
    rw [setPoint_at]
    split
    · rw [hx]; exact h p
    · exact h q
  unstart := by
    intro s _ q
    show (Vector.replicate 9 Point.unstarted)[q].started = false
    rw [Fin.getElem_fin, Vector.getElem_replicate]
    rfl
  records := fun _ _ h => h
  changes := fun _ _ h => h
  entries := fun _ _ _ h => h

theorem unstarted_all (s : State) : ∀ p : PointNo,
    ({ s with points := Vector.replicate 9 .unstarted, coilCounter := s.coilCounter + 1 } : State).points[p].started = false := by
  intro q
  show (Vector.replicate 9 Point.unstarted)[q].started = false
  rw [Fin.getElem_fin, Vector.getElem_replicate]
  rfl

theorem unstartPoints_points (s : State) : ∀ p : PointNo, (unstartPoints s).points[p].started = false := by
  have H := pointsEmpty_steady
  unfold unstartPoints
  dsimp only
  exact allInactive_keeps H _ (allInactive_keeps H _ (allInactive_keeps H _
    (forStands_keeps (fun k s h => biteCleared_keeps H k h) (unstarted_all s))))

/-- R11 steps 1, 2, 3 and 5, and step 4 where it is done: nothing is tracked any more. -/
theorem cleared_untracked (c : ReleaseCause) (st : ReportState) {f : State → State}
    (hf : ∀ {P : State → Prop}, Steady P → ∀ {s : State}, P s → P (f s)) (s : State) :
    Untracked (unstartPoints (f (cancelTransitions (closeAllReports st (releaseAll c s))))) := by
  have h1 := releaseAll_ring c s
  generalize releaseAll c s = s1 at h1 ⊢
  have h2 := closeAllReports_reports st s1
  have h2r := closeAllReports_keeps ringEmpty_steady st h1
  generalize closeAllReports st s1 = s2 at h2 h2r ⊢
  have h3 : (cancelTransitions s2).transitions = [] := rfl
  have h3r := cancelTransitions_keeps ringEmpty_steady h2r
  have h3p := cancelTransitions_keeps reportsEmpty_steady h2
  generalize cancelTransitions s2 = s3 at h3 h3r h3p ⊢
  have hr := ringEmpty_steady
  have hp := reportsEmpty_steady
  have ht := transitionsEmpty_steady
  exact ⟨unstartPoints_keeps hr (hf hr h3r), unstartPoints_keeps hp (hf hp h3p), unstartPoints_keeps ht (hf ht h3),
    unstartPoints_points _⟩

theorem clearTracking_untracked (c : ReleaseCause) (st : ReportState) (s : State) : Untracked (clearTracking c st s) :=
  cleared_untracked c st reduceTable_keeps s

theorem restartTracking_untracked (s : State) : Untracked (restartTracking s) :=
  cleared_untracked .discardedStop .stopped (f := id) (fun _ _ h => h) s

/-! ### The mode requests -/

/-- A mode change into READY, or into CONFIG once nothing is scheduled. -/
theorem changed_bounded {s : State} (hb : Bare s) (hu : Untracked s) (m : Mode) (x : ModeCause)
    (hq : m = .config → s.queue = [] ∧ s.table = []) : Bounded (s.changeMode m x) :=
  ⟨hb.congr rfl rfl rfl rfl rfl, fun _ => hu.congr rfl rfl rfl rfl, hq⟩

theorem doCommitConfig_bounded {s : State} (h : Bounded s) : Bounded (doCommitConfig s).2 := by
  unfold doCommitConfig
  split
  · exact h
  · rename_i hm
    have hm : s.mode = .config := by simpa using hm
    split
    · exact h
    · refine modeConditions_keeps bounded_careless.raises ?_
      exact changed_bounded (s := { s with committed := true }) (h.bare.congr rfl rfl rfl rfl rfl)
        ((h.untracked (Or.inl hm)).congr rfl rfl rfl rfl) _ _ (fun e => by cases e)

theorem withdrawAll_bare (c : WithdrawCause) {s : State} (h : Bare s) : Bare (withdrawAll c s) :=
  withdrawAll_keeps bare_steady (fun h => ⟨h.ring, Nat.zero_le _, Nat.zero_le _, Or.inl rfl, h.transitions, h.reports⟩) c h

theorem withdrawAll_untracked (c : WithdrawCause) {s : State} (h : Untracked s) : Untracked (withdrawAll c s) :=
  withdrawAll_keeps untracked_steady (fun h => h.congr rfl rfl rfl rfl) c h

theorem withdrawAll_empty (c : WithdrawCause) (s : State) : (withdrawAll c s).queue = [] ∧ (withdrawAll c s).table = [] :=
  ⟨rfl, rfl⟩

theorem doConfigOpen_bounded {s : State} (h : Bounded s) : Bounded (doConfigOpen s).2 := by
  unfold doConfigOpen
  split
  · exact h
  · rename_i hm
    have hm : s.mode = .ready := by simpa using hm
    refine modeConditions_keeps bounded_careless.raises ?_
    have hb : Bare { s with committed := false } := h.bare.congr rfl rfl rfl rfl rfl
    have hu : Untracked { s with committed := false } := (h.untracked (Or.inr hm)).congr rfl rfl rfl rfl
    exact changed_bounded (withdrawAll_bare _ hb) (withdrawAll_untracked _ hu) _ _ (fun _ => withdrawAll_empty _ _)

/-- A mode change out of CONFIG and READY. -/
theorem roused_changed {s : State} (hb : Bare s) (m : Mode) (x : ModeCause) (h1 : m ≠ .config) (h2 : m ≠ .ready) :
    Bounded (s.changeMode m x) :=
  Bare.bounded (s := s.changeMode m x) (hb.congr rfl rfl rfl rfl rfl) h1 h2

theorem beginThread_bounded (e : InForce) {s : State} (hb : Bare s) (hu : Untracked s) : Bounded (beginThread e s) := by
  unfold beginThread
  extract_lets s1 s2 s3
  have b1 : Bare s1 := ⟨hb.ring, hb.queue, hb.table, hb.flag, hb.transitions, by
    show (s.reports ++ [_]).length ≤ _
    rw [hu.reports]
    show 1 ≤ Config.reportCapacity
    decide⟩
  have r1 : s1.ring.length < Config.ringCapacity := by
    show s.ring.length < _
    rw [hu.ring]
    decide
  have b2 : Bare s2 := by
    refine startPoint_keeps bare_steady (fun _ _ h => h.congr rfl rfl rfl rfl rfl) _ _ ?_
    refine addSegment_keeps bare_steady (fun {t} g hl h => ?_) 0 r1 b1
    refine ⟨?_, h.queue, h.table, h.flag, h.transitions, h.reports⟩
    show (t.ring ++ [g]).length ≤ _
    rw [List.length_append]
    exact hl
  have b3 : Bare s3 := forStands_keeps (fun k s h => threadStand_keeps bare_steady e k h) b2
  refine modeConditions_keeps bounded_careless.raises
    (forStands_keeps (fun k s h => threadHold_keeps bounded_steady k h) ?_)
  exact roused_changed b3 _ _ (by decide) (by decide)

theorem doThread_bounded {s : State} (h : Bounded s) : Bounded (doThread s).2 := by
  unfold doThread
  split
  · exact h
  · rename_i hm
    have hm : s.mode = .ready := by simpa using hm
    split
    · exact h
    · split
      · exact h
      · split
        · exact h
        · dsimp only
          exact beginThread_bounded _ h.bare (h.untracked (Or.inr hm))

theorem doRun_bounded {s : State} (h : Bounded s) : Bounded (doRun s).2 := by
  unfold doRun
  split
  · exact h
  · split
    · exact h
    · dsimp only
      refine modeConditions_keeps bounded_careless.raises
        (forStands_keeps (fun k s h => judgeAtRun_keeps bounded_steady k h) ?_)
      exact roused_changed h.bare _ _ (by decide) (by decide)

theorem doStop_bounded {s : State} (h : Bounded s) : Bounded (doStop s).2 := by
  unfold doStop
  split
  · exact h
  · dsimp only
    refine modeConditions_keeps bounded_careless.raises ?_
    exact changed_bounded (standsOff_keeps bare_steady (clearTracking_keeps bare_steady _ _ h.bare))
      (standsOff_keeps untracked_steady (clearTracking_untracked _ _ _)) _ _ (fun e => by cases e)

theorem resetTrip_bounded {s : State} (h : Bare s) : Bounded (resetTrip s) := by
  unfold resetTrip
  extract_lets s1 s2
  have hb : Bare (tripEnds s) := by
    unfold tripEnds
    extract_lets s0
    have h0 : Bare s0 := h.congr rfl rfl rfl rfl rfl
    clear_value s0
    split
    · exact append_keeps bare_steady _ _ h0
    · exact h0
  have key : ∀ {P : State → Prop}, Steady P → P s1 → P s2 := fun H h1 =>
    forStands_keeps (fun k s h => actuatorAtTripReset_keeps H k h) (forStands_keeps (fun k s h => enterIdleMode_keeps H _ k h) h1)
  refine modeConditions_keeps bounded_careless.raises ?_
  exact changed_bounded (key bare_steady (clearTracking_keeps bare_steady _ _ hb))
    (key untracked_steady (clearTracking_untracked _ _ _)) _ _ (fun e => by cases e)

theorem doTripReset_bounded {s : State} (h : Bounded s) : Bounded (doTripReset s).2 := by
  unfold doTripReset
  split
  · exact h
  · split
    · exact h
    · split
      · exact h
      · dsimp only
        exact resetTrip_bounded h.bare

/-- No schedule is queued or in force. -/
theorem unscheduled_steady : Steady (fun s : State => s.queue = [] ∧ s.table = []) where
  other := fun e h => ⟨(core_queue e).trans h.1, (core_table e).trans h.2⟩
  fault := fun _ _ _ _ _ h => h
  safe := fun _ h => h
  log := fun _ _ h => h
  notice := fun _ h => h
  segments := fun _ _ h => h
  point := fun _ _ _ h => h
  unstart := fun h => h
  records := fun _ _ h => h
  changes := fun _ _ h => h
  entries := fun _ hl _ h => ⟨h.1, List.length_eq_zero_iff.mp (by rw [h.2] at hl; exact Nat.le_zero.mp hl)⟩

theorem restart_bounded {s : State} (h : Bounded s) (hm : s.mode ≠ .tripped) : Bounded (restart s) := by
  unfold restart
  extract_lets s1 s2 s3
  have b1 : Bare s1 := by
    dsimp only [s1]
    split
    · exact restartTracking_keeps bare_steady h.bare
    · exact h.bare
  have u1 : Untracked s1 := by
    dsimp only [s1]
    split
    · exact restartTracking_untracked s
    · rename_i ht
      refine h.untracked ?_
      unfold State.tracking at ht
      cases hmm : s.mode <;> simp_all
  clear_value s1
  have key : ∀ {P : State → Prop}, Steady P → P (withdrawAll .restart s1) → P s2 := fun H h1 =>
    forStands_keeps (fun k s h => setStand_keeps H _ _ h) (standsOff_keeps H h1)
  have b2 : Bare s2 := key bare_steady (withdrawAll_bare _ b1)
  have u2 : Untracked s2 := key untracked_steady (withdrawAll_untracked _ u1)
  have q2 : s2.queue = [] ∧ s2.table = [] := key unscheduled_steady ⟨rfl, rfl⟩
  clear_value s2
  have h3 : Bounded s3 :=
    changed_bounded (s := emptyNotices { s2 with runState := none }) (b2.congr rfl rfl rfl rfl rfl)
      (u2.congr rfl rfl rfl rfl) _ _ (fun _ => q2)
  clear_value s3
  split
  · exact h3
  · exact modeConditions_keeps bounded_careless.raises h3

theorem doRestart_bounded {s : State} (h : Bounded s) : Bounded (doRestart s).2 := by
  unfold doRestart
  split
  · exact h
  · rename_i hm
    exact restart_bounded h hm

/-! ### The schedule requests -/

/-- A table without an entry schedule is empty. -/
theorem Bounded.empty_table {s : State} (h : Bounded s) (he : s.entrySchedule = none) : s.table = [] := by
  rcases h.bare.flag with h0 | h1
  · exact h0
  · exfalso
    unfold State.entrySchedule at he
    have := List.filter_eq_nil_iff.mpr (List.find?_eq_none.mp he)
    rw [this] at h1
    cases h1

theorem validRecord_take {s : State} {p : SchedulePayload} {take : TakeMode} {c : Schedule}
    (h : validRecord s p take = some c) : c.take = take := by
  unfold validRecord at h
  split at h
  · dsimp only at h
    split at h
    · cases h
      rfl
    · cases h
  · cases h

/-- A schedule that becomes the entry schedule where there is none. -/
theorem bounded_now {s : State} (h : Bounded s) (hm : s.mode ≠ .config) (he : s.table = []) (e : InForce)
    (hf : e.isEntry = true) : Bounded { s with table := s.table ++ [e] } where
  bare := by
    refine ⟨h.bare.ring, h.bare.queue, ?_, Or.inr ?_, h.bare.transitions, h.bare.reports⟩
    · show (s.table ++ [e]).length ≤ _
      rw [he]
      show 1 ≤ Config.tableCapacity
      decide
    · show ((s.table ++ [e]).filter _).length = 1
      rw [he]
      simp [hf]
  untracked := fun hh => (h.untracked hh).congr rfl rfl rfl rfl
  unscheduled := fun hh => absurd hh hm

/-- A schedule that joins or leaves the pending queue. -/
theorem bounded_queue {s : State} (h : Bounded s) (q : List Schedule) (hq : q.length ≤ Config.queueCapacity)
    (he : s.mode = .config → q = []) : Bounded { s with queue := q } where
  bare := ⟨h.bare.ring, hq, h.bare.table, h.bare.flag, h.bare.transitions, h.bare.reports⟩
  untracked := fun hh => (h.untracked hh).congr rfl rfl rfl rfl
  unscheduled := fun hh => ⟨he hh, (h.unscheduled hh).2⟩

theorem placeNow_bounded (c : Schedule) (hc : c.take = .now) {s : State} (h : Bounded s) (hm : s.mode ≠ .config)
    (he : s.table = []) : Bounded (placeSchedule c s).2 := by
  unfold placeSchedule
  split
  · exact append_keeps bounded_steady _ _ (bounded_now h hm he _ rfl)
  · rename_i hh
    rw [hc] at hh
    cases hh

theorem placeAtWeld_bounded (c : Schedule) (hc : c.take = .atWeld) {s : State} (h : Bounded s) (hm : s.mode ≠ .config)
    (hq : s.queue.length < Config.queueCapacity) : Bounded (placeSchedule c s).2 := by
  unfold placeSchedule
  split
  · rename_i hh
    rw [hc] at hh
    cases hh
  · refine append_keeps bounded_steady _ _ (bounded_queue h _ ?_ (fun hh => absurd hh hm))
    rw [List.length_append]
    exact hq

theorem doLoadNow_bounded (p : SchedulePayload) {s : State} (h : Bounded s) : Bounded (doLoadNow p s).2 := by
  unfold doLoadNow
  split
  · exact h
  · rename_i hm
    rw [not_or] at hm
    have hr : s.mode = .ready := by simpa using hm.1
    have he : s.table = [] := h.empty_table (by simpa using hm.2)
    unfold loadRecord
    split
    · exact h
    · rename_i c hv
      split
      · exact h
      · split
        · exact h
        · rename_i n _ _
          exact placeNow_bounded { c with tag := n } (show c.take = _ from validRecord_take hv) h (by rw [hr]; decide) he

theorem doLoadAtWeld_bounded (p : SchedulePayload) {s : State} (h : Bounded s) : Bounded (doLoadAtWeld p s).2 := by
  unfold doLoadAtWeld
  split
  · exact h
  · rename_i hm
    unfold loadRecord
    split
    · exact h
    · rename_i c hv
      split
      · exact h
      · split
        · exact h
        · rename_i n _ hq
          exact placeAtWeld_bounded { c with tag := n } (show c.take = _ from validRecord_take hv) h hm (by simpa using hq)

theorem doScheduleLoad_bounded (take : Byte) (p : SchedulePayload) {s : State} (h : Bounded s) :
    Bounded (doScheduleLoad take p s).2 := by
  unfold doScheduleLoad
  split
  · exact doLoadNow_bounded p h
  · split
    · exact doLoadAtWeld_bounded p h
    · split <;> exact h

theorem doWithdraw_bounded (tag : Byte) {s : State} (h : Bounded s) : Bounded (doWithdraw tag s).2 := by
  unfold doWithdraw
  dsimp only
  split
  · exact h
  · split
    · exact h
    · split
      · exact h
      · refine append_keeps bounded_steady _ _ (bounded_queue h _ ?_ ?_)
        · exact Nat.le_trans (List.length_filter_le _ _) h.bare.queue
        · intro hm
          rw [(h.unscheduled hm).1]
          rfl

/-! ### Every request -/

theorem doFaultPolicy_bounded (kind : Byte) (enable : Bool) (severity : Byte) {s : State} (h : Bounded s) :
    Bounded (doFaultPolicy kind enable severity s).2 := by
  unfold doFaultPolicy
  split
  · dsimp only
    split
    · exact h
    · split
      · exact h
      · exact h.congr rfl rfl rfl rfl rfl rfl rfl
  · exact h

theorem clearKinds_bounded (ks : BitVec 24) {s : State} (h : Bounded s) : Bounded (clearKinds ks s) := by
  refine foldl_keeps (fun s k h => ?_) _ h
  split
  · exact h.congr rfl rfl rfl rfl rfl rfl rfl
  · exact h

theorem doFaultClear_bounded (ks : BitVec 24) {s : State} (h : Bounded s) : Bounded (doFaultClear ks s).2 := by
  unfold doFaultClear
  split
  · exact h
  · dsimp only
    have h1 := clearKinds_bounded ks h
    unfold clearFirstOut
    split
    · split
      · exact bounded_steady.same h1 rfl
      · exact h1
    · exact h1

theorem handle_bounded (r : Request) {s : State} (h : Bounded s) : Bounded (handle r s).2 := by
  have S := bounded_steady
  have R := bounded_careless.raises
  cases r with
  | configureChannel p => exact doConfigureChannel_keeps R p h
  | configureStand p => exact doConfigureStand_keeps S p h
  | configureLine p => exact doConfigureLine_keeps S p h
  | commitConfig => exact doCommitConfig_bounded h
  | configOpen => exact doConfigOpen_bounded h
  | thread => exact doThread_bounded h
  | run => exact doRun_bounded h
  | stop => exact doStop_bounded h
  | tripReset => exact doTripReset_bounded h
  | restart => exact doRestart_bounded h
  | scheduleLoad t p => exact doScheduleLoad_bounded t p h
  | scheduleWithdraw t => exact doWithdraw_bounded t h
  | scheduleQuery t => show Bounded (doScheduleQuery t s).2; rw [doScheduleQuery_state]; exact h
  | faultPolicy k e v => exact doFaultPolicy_bounded k e v h
  | faultClear ks => exact doFaultClear_bounded ks h
  | countReset ks => exact doCountReset_keeps S ks h
  | faultQuery k => show Bounded (doFaultQuery k s).2; rw [doFaultQuery_state]; exact h
  | segmentQuery sel a => show Bounded (doSegmentQuery sel a s).2; rw [doSegmentQuery_state]; exact h
  | segmentMark f c a m => exact doSegmentMark_keeps S f c a m h
  | channelRead e => show Bounded (doChannelRead e s).2; rw [doChannelRead_state]; exact h
  | linkStatus l => show Bounded (doLinkStatus l s).2; rw [doLinkStatus_state]; exact h
  | linkControl l a => exact doLinkControl_keeps R l a h
  | logRead g f c => exact doLogRead_keeps S g f c h
  | logWrite g t => exact doLogWrite_keeps S g t h
  | logClear g =>
    show Bounded (doLogClear g s).2
    unfold doLogClear
    split
    · exact h
    · split
      · exact h.congr rfl rfl rfl rfl rfl rfl rfl
      · exact h
  | status => exact h
  | identify => exact h

/-- The bounds are kept by the field events and by every request. -/
theorem bounded_serves : Serves Bounded where
  toFields := bounded_fields
  weld := weldPulse_bounded
  port := fun _ _ _ h => h.congr rfl rfl rfl rfl rfl rfl rfl
  handle := fun r h => handle_bounded r h

end Sys2Proof.Machine
end

