-- ==== Sys2Proof/WellFormed.lean ====
section
/-! DEFINITION. Which commands are well formed: a frame's bytes are those of one complete frame of its link, a LOG_WRITE text
fits a payload. The receivers take any bytes; these checks say which terms name what the table's row names. -/

namespace Sys2Proof

/-- One complete supervisor frame as the receiver finds it: the sync pair, a length, and, unless the length is above 240,
exactly the bytes it announces (R179). -/
def wellFormedSupervisor : List Byte → Bool
  | 0xA5 :: 0x5A :: len :: rest =>
    if Config.maxPayload < len.toNat then rest.isEmpty else rest.length == len.toNat + 4
  | _ => false

/-- One complete sensor frame: seven bytes from the sync C3h (section 11.2.2). -/
def wellFormedSensor : List Byte → Bool
  | 0xC3 :: rest => rest.length == 6
  | _ => false

/-- One actuator status frame that fails its check (R193): four bytes from the sync 3Ch with a CRC that does not match, or
with a code or argument that names no status. -/
def wellFormedBadStatus : List Byte → Bool
  | [0x3C, code, arg, crc] => crc != Machine.crc8 [code, arg] || (Machine.statusOf [code, arg]).isNone
  | _ => false

/-- Whether a command's operands are ones its row can carry. -/
def Instr.wellFormed : Instr → Bool
  | .powerOn => true
  | .supervisorFrame bs => wellFormedSupervisor bs
  | .frameSent => true
  | .configureChannel _ _ => true
  | .configureStand _ _ => true
  | .configureLine _ _ => true
  | .commitConfig _ => true
  | .configOpen _ => true
  | .thread _ => true
  | .run _ => true
  | .stop _ => true
  | .tripReset _ => true
  | .restart _ => true
  | .scheduleLoadNow _ _ => true
  | .scheduleLoadAtWeld _ _ => true
  | .scheduleWithdraw _ _ => true
  | .scheduleQuery _ _ => true
  | .faultPolicy _ _ _ _ => true
  | .faultClear _ _ => true
  | .countReset _ _ => true
  | .faultQuery _ _ => true
  | .segmentQuery _ _ _ => true
  | .segmentMarkSet _ _ _ _ => true
  | .segmentMarkClear _ _ _ _ => true
  | .channelRead _ _ => true
  | .linkStatus _ _ => true
  | .retrain _ _ => true
  | .disable _ _ => true
  | .enable _ _ => true
  | .clearCounters _ _ => true
  | .logRead _ _ _ _ => true
  | .logWrite _ _ t => t.length + 2 ≤ Config.maxPayload
  | .logClear _ _ => true
  | .status _ => true
  | .identify _ => true
  | .sensorFrame _ bs _ => wellFormedSensor bs
  | .frameTimerExpiry _ => true
  | .staleExpiry _ => true
  | .invalidExpiry _ => true
  | .weldDetect => true
  | .unloadTimerExpiry _ => true
  | .ack _ _ => true
  | .faultStatus _ code => code != 0 && code != 0xFE && code != 0xFF
  | .openConfirmed _ => true
  | .actuatorBadFrame _ bs => wellFormedBadStatus bs
  | .replyTimerExpiry _ => true
  | .keepAlive _ => true
  | .positioningTimerExpiry _ => true
  | .openTimerExpiry => true
  | .externalStopAsserted => true
  | .externalStopReleased => true
  | .breakTimerExpiry _ => true

end Sys2Proof
end

