-- ==== Sys2Proof/Tests/Slice0.lean ====
section
/-! SUPPORT. Tests: the checks of WellFormed, the manual's worked examples, and for every statement with hypotheses a concrete
state and operands that meet them (with boundary values where it has ranges). Each test is one operation or one step. -/

open Sys2Proof Sys2Proof.Machine

section Slice0Tests

-- One theorem at a time: each kernel evaluation would otherwise hold a thread of its own.
set_option Elab.async false

/-! ### Small states -/

/-- The state that a command leaves. -/
def Tests.after (c : Instr) (s : State) : State :=
  match exec c s with
  | .next t => t
  | _ => State.reset

/-- The code and fields of the waiting reply. -/
def Tests.reply (s : State) : Option (ReplyCode × List Byte) := s.port.waiting.map fun w => (w.reply.code, w.reply.fields)

/-- The stand 6 record of section 5.6. -/
def Tests.params : StandParams :=
  ⟨5000, 2000, -35, 128, 192, 16, 500, 20, 2, 30, 400, 5000, 200, 1, 50, 300000⟩

/-- A schedule with exit targets that fall along the mill, and the limits of section 5.6. -/
def Tests.sched (tag : Nat) : Schedule :=
  ⟨tag, .now, 20000, #v[⟨14000, -5000, -30000, 5000, 2000, 30⟩, ⟨9000, -5000, -30000, 5000, 2000, 30⟩,
    ⟨5000, -5000, -30000, 5000, 2000, 30⟩, ⟨3000, -5000, -30000, 5000, 2000, 35⟩, ⟨2100, -5000, -30000, 5000, 2000, 35⟩,
    ⟨1700, -21800, -30000, 5000, 7500, 40⟩], 0, 20, 10, .logged⟩

/-- The same schedule as a payload. -/
def Tests.payload (tag mark : Byte) : SchedulePayload :=
  ⟨tag, 20000, (Tests.sched 0).stands.map fun t => ⟨BitVec.ofInt 32 t.h, BitVec.ofInt 32 t.sset, BitVec.ofInt 32 t.smin,
    BitVec.ofInt 32 t.smax, BitVec.ofInt 16 t.q, BitVec.ofInt 8 t.slip⟩, 0, 20, 10, mark⟩

/-- Link, slot and entry of the role at place n of the required roles. -/
def Tests.entry (n : Nat) (i : Item) : Channel :=
  ⟨some ⟨Fin.ofNat 8 (n / 4), Fin.ofNat 4 n, i, 0, 32, true, 65536, 0, 1000⟩, .valid, some (100, 0), 0, 0, none, none⟩

/-- A configured part in READY, all 27 roles bound and VALID, with the entry schedule 0 and every actuator IDLE. -/
def Tests.ready : State :=
  { State.reset with
    mode := .ready, committed := true, millStop := false, standTrip := Vector.replicate 6 false
    links := Vector.replicate 8 { Link.initial with mode := .up, training := 8, timer := some 0 }
    channels := Vector.ofFn fun e => match requiredItems[e.val]? with
      | some i => Tests.entry e.val i
      | none => .unbound
    stands := Vector.replicate 6 { StandCtl.initial with params := some Tests.params }
    actuators := Vector.replicate 6 { Actuator.initial with mode := .idle, readyFlag := some true, lastSent := some 0 }
    table := [⟨Tests.sched 0, true, 0, none⟩]
    port := { State.reset.port with notices := [] } }

/-- The same part in CONFIG, without a schedule. -/
def Tests.config : State :=
  { Tests.ready with mode := .config, committed := false, millStop := true, standTrip := Vector.replicate 6 true, table := [] }

/-- A segment of coil 0 under schedule 0. -/
def Tests.seg (n : SegNo) : Segment := ⟨n, 0, 0, false, none, [], none, none, none, none, false, false⟩

/-- The part in THREAD with segments 0 and 1, X0 on 1 and every other point on 0. -/
def Tests.thread : State :=
  { Tests.ready with
    mode := .thread
    ring := [Tests.seg 0, Tests.seg 1]
    points := Vector.ofFn fun p => { Point.unstarted with started := true, cursor := if p = 0 then 1 else 0, advanced := some 0 }
    table := [⟨Tests.sched 0, true, 2, none⟩]
    reports := [CoilReport.fresh 0 0 2]
    stands := Vector.replicate 6 { StandCtl.initial with params := some Tests.params, mode := .position, bite := some 0 } }

/-- The same in RUN. -/
def Tests.run : State := { Tests.thread with mode := .run }

/-- The part in a trip that EXTERNAL_STOP started. -/
def Tests.tripped : State :=
  { Tests.run with
    mode := .tripped, trip := .opening, millStop := true, standTrip := Vector.replicate 6 true
    firstOut := some ⟨0, 0, 0, .run, 0⟩
    faults := State.reset.faults.set 0 ⟨true, [], 1, some (0, 0), some 0⟩ }

/-- A policy table in which no kind is an enabled tripping kind. -/
def Tests.lenient : Vector Policy 22 := Vector.replicate 22 ⟨true, false⟩

/-- A frame with value v for entry e of `Tests.ready`, the strip present. -/
def Tests.frame (e : Nat) (v : Int) : SensorFields := ⟨Fin.ofNat 4 e, false, true, 0, BitVec.ofInt 32 v⟩

/-- The configuration of entry e of `Tests.ready`, for item i. -/
def Tests.config_of (e : Nat) (i : Item) : ChannelConfig := ⟨Fin.ofNat 8 (e / 4), Fin.ofNat 4 e, i, 0, 32, true, 65536, 0, 1000⟩

/-! ### The checks of WellFormed refuse -/

theorem test_refuse_supervisor_sync : (Instr.supervisorFrame [0x5A, 0xA5, 0]).wellFormed = false := by decide
theorem test_refuse_supervisor_short : (Instr.supervisorFrame [0xA5, 0x5A, 1, 0x1A, 0, 0, 0]).wellFormed = false := by decide
theorem test_refuse_sensor_short : (Instr.sensorFrame 0 [0xC3, 0, 0, 0, 0, 0] ⟨.gtp, true, false⟩).wellFormed = false := by decide
theorem test_refuse_fault_codes : ∀ c ∈ ([0, 0xFE, 0xFF] : List Byte), (Instr.faultStatus 0 c).wellFormed = false := by decide
theorem test_refuse_good_status :
    (Instr.actuatorBadFrame 0 (statusFrameBytes 0x81 1)).wellFormed = false := by decide +kernel
theorem test_refuse_long_text : (Instr.logWrite 0 5 (List.replicate 239 0)).wellFormed = false := by decide +kernel
theorem test_accept_forms :
    (Instr.supervisorFrame [0xA5, 0x5A, 241]).wellFormed = true ∧
    (Instr.sensorFrame 0 [0xC3, 0, 0, 0, 0, 0, 0] ⟨.gtp, true, false⟩).wellFormed = true ∧
    (Instr.actuatorBadFrame 0 [0x3C, 0x84, 0, 0]).wellFormed = true ∧
    (Instr.logWrite 0 5 (List.replicate 238 0)).wellFormed = true := by decide +kernel

/-! ### The host's two questions: no row of the table has bits -/

theorem test_no_bits : decodeTableWord 16 0 = none ∧ (State.reset.withFetchWord 16 0).pending = [] := by decide

/-! ### Arithmetic (R4, R5) and the checksums (chapter 11) -/

/-- R4's own figures; the divisions of 5.6 and 4.11. -/
theorem test_round : roundDiv 75 4 = 19 ∧ roundDiv (-45) 4 = -11 ∧ roundDiv 5 2 = 3 ∧ roundDiv (-5) 2 = -3 ∧
    roundDiv (-218) 4 = -55 ∧ floorDiv 5 2 = 2 ∧ floorDiv (-5) 2 = -3 := by decide
/-- R5: an age across the wrap. -/
theorem test_age : ({ State.reset with time := 200 } : State).age 4294967000 = 496 := by decide +kernel
/-- The check values of the CRC-8 (07h) and CRC-16 (1021h, initial FFFFh) over "123456789". -/
theorem test_crc : crc8 [0x31, 0x32, 0x33, 0x34, 0x35, 0x36, 0x37, 0x38, 0x39] = 0xF4 ∧
    crc16 [0x31, 0x32, 0x33, 0x34, 0x35, 0x36, 0x37, 0x38, 0x39] = 0x29B1 := by decide +kernel
/-- Section 11.3.7. -/
theorem test_mode_changed_frame :
    (Notice.modeChanged (some .run) .ready .stop).payload = [1, 3, 1, 5] ∧
    (Notice.modeChanged none .config .powerOn).payload = [0, 0, 0] ∧
    (Notice.modeChanged (some .run) .ready .stop).frame.take 9 = [0xA5, 0x5A, 4, 0x80, 0, 1, 3, 1, 5] ∧
    (Notice.modeChanged (some .run) .ready .stop).frame.length = 11 := by decide +kernel

/-! ### Measurement -/

/-- Section 2.3.1. -/
theorem test_load_cell :
    let c : ChannelConfig := ⟨0, 0, .force 2, 4, 20, true, 98304, -2000, 1000⟩
    scaled c 0x00032A50 = 17448 ∧ scaled c 0x00FFFF00 = -2024 ∧ scaled c 0x07FFFFF0 = -2002 := by decide +kernel
/-- Section 2.3.2. -/
theorem test_length_wrap :
    let c : ChannelConfig := ⟨0, 0, .entryLength, 0, 16, false, 3276800, 0, 1000⟩
    lengthIncrement c 65500 65380 = 6000 ∧ lengthIncrement c 120 65500 = 7800 ∧ lengthIncrement c 280 120 = 8000 ∧
    inRange .entryLength (lengthIncrement c 30120 120) = false := by decide +kernel
/-- Section 2.7: frames 1, 4 and 12. -/
theorem test_missed_frames : missedFrames none 5 = 0 ∧ missedFrames (some 6) 8 = 1 ∧ missedFrames (some 15) 0 = 0 := by decide
/-- Section 2.7, frame 11 and R25: the eighth good frame in a row takes the link to UP, and its sample is not taken. -/
theorem test_trained :
    let s := Tests.ready.setLink 3 { Link.initial with mode := .training, training := 7, seqRef := some 14 }
    let t := Tests.after (.sensorFrame 3 (sensorFrameBytes ⟨1, false, false, 15, 5⟩) ⟨.gtp, true, false⟩) s
    t.links[(3 : LinkNo)].mode = .up ∧ t.channels = s.channels := by decide +kernel
/-- Section 2.4.1: at 54,000 µs FORCE[2] becomes INVALID and its loss is taken in RUN. -/
theorem test_age_invalid :
    let s := { Tests.run with time := 4000 }
    let t := Tests.after (.invalidExpiry 5) s
    t.channels[(5 : EntryNo)].state = .invalid .age ∧ t.faults[Kind.forceFeedbackLost].active = [2] := by decide +kernel

/-! ### Tracking and schedules -/

/-- Sections 3.3.1, 3.3.2 and 3.10. -/
theorem test_advances : advanceLength 20000 253 40 1700 20000 = 458039 ∧ advanceLength 2200 250 30 14000 20000 = 406067 ∧
    advanceLength 2200 140 30 14000 20000 = 227398 ∧ advanceLength 16400 250 35 2100 20000 = 456261 := by decide +kernel
/-- Section 4.11. -/
theorem test_ramps : ramped 20000 22000 0 4 = 20400 ∧ ramped 1700 1500 0 4 = 1660 ∧ ramped (-21800) (-23000) 0 4 = -22040 ∧
    ramped 1620 1402 0 3 = 1565 ∧ ramped 1620 1402 1 3 = 1511 ∧ ramped 1620 1402 2 3 = 1456 := by decide +kernel
/-- The table of R157. -/
theorem test_bins : binOf (-71) 10 = 0 ∧ binOf (-39) 10 = 4 ∧ binOf (-7) 10 = 7 ∧ binOf 0 10 = 8 ∧ binOf 9 10 = 8 ∧
    binOf 12 10 = 9 ∧ binOf 69 10 = 14 ∧ binOf 70 10 = 15 := by decide +kernel
/-- R158: a deviation equal to the tolerance is on-gauge. -/
theorem test_tolerance : (verdict 1720 1700 20 10).off = false ∧ (verdict 1721 1700 20 10).off = true := by decide +kernel

/-! ### Stand 6 of section 5.6 -/

theorem test_stand6_levels : Tests.params.loadedLevel = 7000 ∧ Tests.params.forceLimit = 200000 ∧
    Tests.params.nearLevel = 190000 := by decide +kernel
theorem test_stand6_terms : gaugemeter Tests.params 120000 (-21850) = 1715 ∧ feedback Tests.params 7500 15 = -19 ∧
    feedforward Tests.params 7500 10 = -11 ∧ gaugemeter Tests.params 192000 (-21850) = 16115 ∧
    feedback Tests.params 7500 14415 = -18019 ∧ trimNext Tests.params (-40) 7500 12 = -42 := by decide +kernel
theorem test_stand6_guards :
    guards Tests.params (some (-21862)) (-30000) 5000 (some 120000) (-21870) = ⟨false, false, false, false, some (-21870)⟩ ∧
    guards Tests.params (some (-21900)) (-30000) 5000 (some 120000) (-21870) = ⟨false, true, false, false, some (-21880)⟩ ∧
    guards Tests.params (some (-21862)) (-30000) 5000 (some 192000) (-39870) = ⟨true, true, true, false, none⟩ ∧
    guards Tests.params (some (-21862)) (-24500) (-23000) (some 120000) (-21870) = ⟨true, true, false, true, none⟩ ∧
    guards Tests.params (some (-21869)) (-30000) 5000 (some 120000) (-21870) = ⟨false, false, false, false, none⟩ := by
  decide +kernel

/-! ### Requests and events, one step each -/

/-- Section 1.15, step 4: THREAD without an entry schedule. -/
theorem test_thread_no_schedule :
    Tests.reply (Tests.after (.thread 7) { Tests.ready with table := [] }) = some (.notReady, [6, 0, 0, 0]) := by decide +kernel
/-- Section 1.15, step 5: tag 255 takes the lowest free tag. -/
theorem test_load_now :
    Tests.reply (Tests.after (.scheduleLoadNow 7 (Tests.payload 255 1)) { Tests.ready with table := [] }) =
      some (.ok, [0, 1, 0]) := by decide +kernel
/-- Section 1.15, step 9: the notices of STOP, and the coil counter. -/
theorem test_stop :
    let t := Tests.after (.stop 9) Tests.run
    t.mode = .ready ∧ t.coilCounter = 1 ∧ t.ring = [] ∧
    t.port.notices.map Notice.typ = [0x84, 0x80] ∧ t.port.waiting.map (·.ahead) = some 2 := by decide +kernel
/-- Section 9.6, steps 1, 2 and 5, on a log of which only the numbers matter. -/
theorem test_log_read :
    let es := (List.range 128).map fun i => (⟨BitVec.ofNat 32 (172 + i), 0, .note []⟩ : LogEntry)
    let s := State.reset.setLog 0 ⟨es, 300⟩
    let front (x : Option (ReplyCode × List Byte)) : Option (List Byte) := x.map fun r => (r.2.take 9)
    front (Tests.reply (Tests.after (.logRead 1 1 150 0) s)) = some [1, 1, 8, 120, 0, 0x2C, 1, 0, 0] ∧
    front (Tests.reply (Tests.after (.logRead 1 1 180 0) s)) = some [1, 0, 8, 112, 0, 0x2C, 1, 0, 0] ∧
    front (Tests.reply (Tests.after (.logRead 1 1 300 0) s)) = some [1, 0, 0, 0, 0, 0x2C, 1, 0, 0] := by decide +kernel
/-- Section 7.7: the break timer's expiry starts the trip, with its three notices. -/
theorem test_strip_break :
    let s := { Tests.run with time := 5000, breakTimers := State.reset.breakTimers.set 2 (.running 0) }
    let t := Tests.after (.breakTimerExpiry 2) s
    t.mode = .tripped ∧ t.trip = .opening ∧ t.firstOut.map (·.location) = some 3 ∧
    t.port.notices.map Notice.typ = [0x82, 0x81, 0x80] := by decide +kernel
/-- Section 6.8: the open timer of an actuator that is UNLINKED expires. -/
theorem test_hard_stop :
    let s := { Tests.tripped with time := 800000 }.setActuator 3 { Actuator.initial with openTimer := some 0, demand := true }
    let t := Tests.after .openTimerExpiry s
    t.trip = .hardStop ∧ t.hardStop = true ∧ t.faults[Kind.openTimeout].active = [4] := by decide +kernel
/-- Section 10.8: a full notice queue gives its newest other notice up to a TRIP notice. -/
theorem test_notice_burst :
    let p : Port := { State.reset.port with notices := List.replicate 31 (Notice.modeChanged none .config .powerOn) ++
      [Notice.trip .opening 0 0 .run] }
    (p.queueNotice (.trip .hardStop 0 0 .run)).notices.length = 32 ∧
    (p.queueNotice (.trip .hardStop 0 0 .run)).notices.drop 30 = [.trip .opening 0 0 .run, .trip .hardStop 0 0 .run] ∧
    (p.queueNotice (.trip .hardStop 0 0 .run)).counters.lost = 1 := by decide +kernel

/-! ### Witnesses: concrete states and operands that meet the hypotheses of the statements -/

theorem witness_EmptyQueueTicks :
    Tests.run.pending = [] ∧ ({ Tests.run with msPhase := 998 } : State).msPhase < 999 ∧
    ({ Tests.run with msPhase := 999 } : State).msPhase = 999 := by decide
theorem witness_PowerOnInitialState : Tests.run.externalStop = false := by decide
theorem witness_PowerOnInitialState_stop_asserted : ({ Tests.run with externalStop := true } : State).externalStop = true := by decide
theorem witness_ControlInv : ControlInv Tests.tripped ∧ ∃ t, step Tests.tripped = .next t :=
  ⟨⟨⟨by decide, by decide, by decide, by decide, by decide⟩,
    ⟨by decide +kernel, by decide +kernel, by decide +kernel, by decide +kernel⟩⟩, _, rfl⟩
theorem witness_LogsStayInOrder :
    LogsInOrder (Tests.after (.logWrite 1 5 [0x41]) Tests.run) ∧ ∃ t, step (Tests.after (.logWrite 1 5 [0x41]) Tests.run) = .next t :=
  ⟨fun g => ⟨by revert g; decide +kernel, by revert g; decide +kernel⟩, _, rfl⟩
theorem witness_CapacitiesHold : WithinCapacity Tests.thread ∧ ∃ t, step Tests.thread = .next t :=
  ⟨⟨by decide, by decide, by decide, by decide, by decide, by decide, by decide, by decide, by decide, by decide⟩, _, rfl⟩
theorem witness_PayloadAndFrameRoundTrip_payloads : Fits (.logWrite 5 (List.replicate 238 0x41)) ∧ Fits .status := by
  unfold Fits; decide +kernel
theorem witness_FramedRequestIsRequest :
    requestOf (.logClear 7 5) = some (7, .logClear 5) ∧ Fits (.logClear 5) ∧ PortFree Tests.run ∧ Tests.run.port.rx = [] := by
  unfold Fits PortFree; decide +kernel
theorem witness_PayloadAndFrameRoundTrip_frames : ∀ c ∈ ([1, 0xFD] : List Byte), c ≠ 0 ∧ c ≠ 0xFE ∧ c ≠ 0xFF := by decide
theorem witness_BadFramesHandled_refused :
    (List.replicate 240 (0 : Byte)).length ≤ 240 ∧ PortFree Tests.run ∧ Tests.run.port.rx = [] ∧
    ((0 : Byte) = 0 ∨ 0x1B < (0 : Byte).toNat) ∧ 0x1B < (0x1C : Byte).toNat ∧
    parseRequest 0x06 [0] = .malformed ∧ parseRequest 0x18 [5, 2, 0x41] = .malformed ∧ parseRequest 0x18 [5, 1, 0x41] ≠ .malformed ∧
    parseRequest 0x01 ([31, 2, 0, 0, 4, 1, 3] ++ List.replicate 15 0) = .malformed ∧
    parseRequest 0x01 ([31, 1, 7, 3, 4, 1, 3] ++ List.replicate 15 0) ≠ .malformed ∧
    parseRequest 0x01 ([31, 0, 3, 0] ++ List.replicate 15 0) ≠ .malformed := by
  unfold PortFree; decide +kernel
theorem witness_BadFramesHandled_counted :
    240 < (241 : Byte).toNat ∧ Tests.run.port.rx = [] ∧
    let covered : List Byte := BitVec.ofNat 8 ([] : List Byte).length :: 0x1A :: 0 :: []
    (0 : BitVec 16) ≠ crc16 covered ∧ 0xA5 ∉ covered ++ bytes16 0 := by decide +kernel

/-- A part whose reply waits, with n requests in the receive queue. -/
def Tests.waiting (n : Nat) : State :=
  { Tests.run with
    port := { Tests.run.port with waiting := some ⟨⟨0x5A, 1, .ok, []⟩, 0⟩, queue := List.replicate n ⟨0x1A, 2, []⟩ } }

theorem witness_RequestsAndFramesMoveOn_waiting :
    requestOf (.status 3) = some (3, .status) ∧ (Tests.waiting 3).port.busy = true ∧ (Tests.waiting 4).port.busy = true ∧
    (Tests.waiting 3).port.queue.length < 4 ∧ 4 ≤ (Tests.waiting 4).port.queue.length := by decide +kernel
theorem witness_RequestsAndFramesMoveOn_sent :
    let sending (b : Bool) (q : List Frame) : State :=
      { Tests.run with port := { Tests.run.port with sending := some ⟨b, [0xA5]⟩, queue := q } }
    (sending false []).port.sending = some ⟨false, [0xA5]⟩ ∧ (sending true []).port.queue = [] ∧
    (sending true [⟨requestType .status, 5, requestPayload .status⟩]).port.waiting = none ∧ Fits .status ∧
    Tests.run.port.sending = none ∧ Tests.run.port.waiting = none ∧ Tests.run.port.notices = [] := by
  unfold Fits; decide +kernel
theorem witness_FullNoticeQueue :
    let other : Notice := .modeChanged none .config .powerOn
    let trip : Notice := .trip .opening 0 0 .run
    let full (xs : List Notice) : Port := { State.reset.port with notices := xs }
    (full (List.replicate 31 other)).notices.length < 32 ∧ 32 ≤ (full (List.replicate 32 other)).notices.length ∧
    isTripNotice other = false ∧ isTripNotice trip = true ∧
    (∀ x ∈ (full (List.replicate 32 trip)).notices, isTripNotice x = true) ∧
    (full (List.replicate 31 trip ++ [other])).notices = List.replicate 31 trip ++ other :: [] ∧
    32 ≤ (full (List.replicate 31 trip ++ [other])).notices.length := by decide +kernel
theorem witness_RequestsByMode_refused :
    requestOf (.restart 3) = some (3, .restart) ∧ PortFree Tests.tripped ∧ acceptedIn Tests.tripped.mode .restart = false ∧
    requestOf (.run 3) = some (3, .run) ∧ PortFree Tests.ready ∧ acceptedIn Tests.ready.mode .run = false := by
  unfold PortFree; decide +kernel
theorem witness_RequestsByMode_accepted :
    requestOf (.scheduleLoadNow 3 (Tests.payload 255 1)) = some (3, .scheduleLoad 0 (Tests.payload 255 1)) ∧
    PortFree Tests.ready ∧ acceptedIn Tests.ready.mode (.scheduleLoad 0 (Tests.payload 255 1)) = true ∧
    ({ Tests.ready with table := [] } : State).entrySchedule = none := by
  unfold PortFree; decide +kernel

/-- A channel payload for entry e on link l and slot k, as FORCE of stand 3. -/
def Tests.channelPayload (e l k start len : Byte) (stale : BitVec 32) : ChannelPayload :=
  ⟨e, some (l, k), 4, some 3, start, len, true, 65536, 0, stale⟩

theorem witness_ChannelConfigured :
    PortFree Tests.config ∧ Tests.config.mode = .config ∧
    ({ Tests.channelPayload 31 0 0 0 0 100 with binding := none } : ChannelPayload).entry.toNat = (31 : EntryNo).val ∧
    itemOf (4 : Byte).toNat (some 3) = some (.force 2) ∧
    (∀ p ∈ [Tests.channelPayload 31 7 3 31 32 100000, Tests.channelPayload 31 7 3 0 0 100],
      p.entry.toNat = (31 : EntryNo).val ∧ p.binding = some (7, 3) ∧ (7 : Byte).toNat = (7 : LinkNo).val ∧
      (3 : Byte).toNat = (3 : Fin 4).val ∧ itemOf p.role.toNat (p.place.map (·.toNat)) = some (.force 2) ∧
      p.start.toNat ≤ 31 ∧ p.length.toNat ≤ 32 ∧ 100 ≤ p.stale.toNat ∧ p.stale.toNat ≤ 100000) ∧
    (∀ x : EntryNo, x ≠ 31 → ∀ c ∈ Tests.config.channels[x].config, ¬ (c.link = 7 ∧ c.slot = 3)) ∧
    31 < ({ Tests.channelPayload 32 0 0 0 0 100 with binding := none } : ChannelPayload).entry.toNat ∧
    31 < (Tests.channelPayload 32 7 3 0 0 100).entry.toNat ∧ (Tests.channelPayload 31 7 3 0 0 99).stale.toNat < 100 ∧
    100000 < (Tests.channelPayload 31 7 3 0 0 100001).stale.toNat ∧
    (∃ c ∈ Tests.config.channels[(0 : EntryNo)].config, (0 : EntryNo).val ≠ (31 : Byte).toNat ∧ c.link.val = (0 : Byte).toNat ∧
      c.slot.val = (0 : Byte).toNat) := by
  unfold PortFree; decide +kernel

/-- The lowest and the highest stand records. -/
def Tests.standLow (k : Byte) : StandPayload := ⟨k, 1000, 0, BitVec.ofInt 32 (-20000), 0, 0, 0, 0, 1, 0, 1, 50, 100, 1, 0, 5, BitVec.ofInt 32 (-100000)⟩
def Tests.standHigh (k gm : Byte) : StandPayload := ⟨k, 20000, 100000, 20000, 256, 256, gm, 2000, 2000, 50, 500, 5000, 50000, 255, 3, 500, 400000⟩

theorem witness_StandAndLineConfigured_stand :
    PortFree Tests.config ∧ Tests.config.mode = .config ∧
    (∀ pk ∈ [(Tests.standLow 1, (0 : Stand)), (Tests.standHigh 6 64, 5), (Tests.standHigh 2 0, 1)],
      let p := pk.1
      let k := pk.2
      p.stand.toNat = k.val + 1 ∧ 1000 ≤ p.modulus.toNat ∧ p.modulus.toNat ≤ 20000 ∧ p.zeroForce.toNat ≤ 100000 ∧
      -20000 ≤ p.offset.toInt ∧ p.offset.toInt ≤ 20000 ∧ p.gfb.toNat ≤ 256 ∧ p.gff.toNat ≤ 256 ∧
      p.gm.toNat ≤ (if k = 0 ∨ k = 5 then 64 else 0) ∧ p.trimLimit.toNat ≤ 2000 ∧ 1 ≤ p.stepLimit.toNat ∧
      p.stepLimit.toNat ≤ 2000 ∧ p.deadband.toNat ≤ 50 ∧ 1 ≤ p.moveBand.toNat ∧ p.moveBand.toNat ≤ 500 ∧
      50 ≤ p.posTimeout.toNat ∧ p.posTimeout.toNat ≤ 5000 ∧ 100 ≤ p.bite.toNat ∧ p.bite.toNat ≤ 50000 ∧
      1 ≤ p.limitValue.toNat ∧ p.limitScale.toNat ≤ 3 ∧ 5 ≤ p.unload.toNat ∧ p.unload.toNat ≤ 500 ∧
      -100000 ≤ p.openGap.toInt ∧ p.openGap.toInt ≤ 400000) ∧
    6 < (Tests.standLow 7).stand.toNat ∧ ((Tests.standHigh 2 1).stand ≠ 1 ∧ (Tests.standHigh 2 1).stand ≠ 6 ∧
      (Tests.standHigh 2 1).gm ≠ 0) := by
  unfold PortFree; decide +kernel
theorem witness_StandAndLineConfigured_line :
    PortFree Tests.config ∧ Tests.config.mode = .config ∧
    (∀ p ∈ ([⟨100000, 500, 100, 0, 1, 0, 0⟩, ⟨5000000, 20000, 3000, 50000, 50, 40000, 255⟩] : List LinePayload),
      100000 ≤ p.segLen.toNat ∧ p.segLen.toNat ≤ 5000000 ∧ 500 ≤ p.linkTimeout.toNat ∧ p.linkTimeout.toNat ≤ 20000 ∧
      100 ≤ p.openTimeout.toNat ∧ p.openTimeout.toNat ≤ 3000 ∧ p.breakThreshold.toNat ≤ 50000 ∧ 1 ≤ p.breakConfirm.toNat ∧
      p.breakConfirm.toNat ≤ 50 ∧ p.breakMinSpeed.toNat ≤ 40000) ∧
    (⟨99999, 500, 100, 0, 1, 0, 0⟩ : LinePayload).segLen.toNat < 100000 := by
  unfold PortFree; decide +kernel

/-- Every required role is bound once in the configured part. -/
theorem test_roles_bound : RolesBound Tests.config := by unfold RolesBound; decide +kernel
theorem test_stands_sound : ∀ k : Stand, StandSound Tests.config k := by
  intro k
  refine ⟨Tests.params, ?_, by decide +kernel⟩
  revert k; decide +kernel
theorem test_no_loss : NoLoss Tests.ready ∧ NoLoss Tests.config ∧ NoLoss Tests.thread ∧ NoLoss Tests.run ∧ NoLoss Tests.tripped := by
  unfold NoLoss; decide +kernel

theorem witness_CommitConfigChecked_accepted :
    PortFree Tests.config ∧ Tests.config.mode = .config ∧ RolesBound Tests.config ∧ (∀ k : Stand, StandSound Tests.config k) ∧
    NoTripLatched Tests.config ∧ NoLoss Tests.config :=
  ⟨by unfold PortFree; decide, rfl, test_roles_bound, test_stands_sound, by unfold NoTripLatched; decide +kernel, test_no_loss.2.1⟩
theorem witness_CommitConfigChecked_refused :
    PortFree State.reset ∧ State.reset.mode = .config ∧ State.reset.entriesOf .entryThick = [] ∧
    requiredItems = [] ++ Item.entryThick :: requiredItems.drop 1 ∧
    (Tests.config.setChannel 31 (Tests.entry 31 .entryThick)).entriesOf .entryThick = 0 :: 31 :: [] ∧
    (Tests.config.setStand 0 StandCtl.initial).stands[(0 : Stand)].params = none ∧
    ({ Tests.params with limitScale := 3, limitValue := 700 } : StandParams).forceLimit ≤
      ({ Tests.params with limitScale := 3, limitValue := 700 } : StandParams).zeroForce + Tests.params.bite ∧
    (Tests.config.setFault 1 ⟨true, [3], 1, some (3, 0), some 3⟩).trips 1 = true ∧
    (∀ j : Kind, j < 1 → (Tests.config.setFault 1 ⟨true, [3], 1, some (3, 0), some 3⟩).trips j = true →
      (Tests.config.setFault 1 ⟨true, [3], 1, some (3, 0), some 3⟩).faults[j].latched = false) := by
  unfold PortFree; decide +kernel
theorem witness_ConfigOpened :
    PortFree Tests.ready ∧ Tests.ready.mode = .ready ∧ Tests.ready.table.length ≤ 1 ∧
    (∀ e ∈ Tests.ready.table, e.sched.tag < 32) := by unfold PortFree; decide +kernel
/-- R92: each schedule leaves its WITHDRAWN entry, the queue first. -/
theorem test_config_open_entries :
    let t := Tests.after (.configOpen 1) { Tests.ready with queue := [Tests.sched 9, Tests.sched 4] }
    t.logs[LogNo.schedule].entries.map (·.content) = [.withdrawn 9 .configOpen (.pending 1), .withdrawn 4 .configOpen (.pending 2),
      .withdrawn 0 .configOpen .inForce] := by decide +kernel
theorem witness_ThreadStarts :
    PortFree Tests.ready ∧ Tests.ready.mode = .ready ∧ Tests.ready.trip = .normal ∧
    Tests.ready.entrySchedule = some ⟨Tests.sched 0, true, 0, none⟩ ∧
    (∀ k : Stand, Tests.ready.actuators[k].mode ≠ .unlinked ∧ Tests.ready.actuators[k].mode ≠ .faulted ∧
      Tests.ready.actuators[k].readyFlag = some true) ∧ Tests.ready.ring = [] ∧ Tests.ready.reports = [] ∧
    NoPointStarted Tests.ready ∧ NoLoss Tests.ready :=
  ⟨by unfold PortFree; decide, rfl, rfl, by decide +kernel, by decide +kernel, rfl, rfl, by unfold NoPointStarted; decide +kernel,
    test_no_loss.1⟩
theorem witness_RunStarts :
    PortFree Tests.thread ∧ Tests.thread.mode = .thread ∧ (∀ p : PointNo, Tests.thread.points[p].started = true) ∧
    NoLoss Tests.thread ∧ (∀ k : Stand, Tests.thread.stands[k].unload ≠ .expired) ∧
    (Tests.thread.setPoint 8 .unstarted).points[(8 : PointNo)].started = false ∧
    (∀ q : PointNo, q < 8 → (Tests.thread.setPoint 8 .unstarted).points[q].started = true) :=
  ⟨by unfold PortFree; decide, rfl, by decide +kernel, test_no_loss.2.2.1, by decide +kernel, by decide +kernel, by decide +kernel⟩
theorem witness_StopEnds : PortFree Tests.run ∧ (Tests.run.mode = .thread ∨ Tests.run.mode = .run) ∧ NoLoss Tests.run :=
  ⟨by unfold PortFree; decide, .inr rfl, test_no_loss.2.2.2.1⟩
theorem witness_TripResetEnds :
    PortFree Tests.tripped ∧ Tests.tripped.mode = .tripped ∧ Tests.tripped.trip = .opening ∧
    (let s := { Tests.tripped with trip := .safe };
      s.trip ≠ .opening ∧ s.trips 0 = true ∧ s.faults[(0 : Kind)].latched = true ∧
      (∀ j : Kind, j < 0 → s.trips j = true → s.faults[j].latched = false)) ∧
    (let s := { Tests.tripped with trip := .safe, faults := State.reset.faults };
      s.trip ≠ .opening ∧ NoTripLatched s ∧ NoLoss s) := by
  unfold PortFree NoTripLatched NoLoss; decide +kernel
theorem witness_RestartResets :
    PortFree Tests.run ∧ Tests.run.mode ≠ .tripped ∧ (Tests.run.committed = true → NoLoss Tests.run) ∧
    (Tests.run.mode = .thread ∨ Tests.run.mode = .run) ∧ (Tests.config.mode = .config ∨ Tests.config.mode = .ready) ∧
    Tests.config.committed = false :=
  ⟨by unfold PortFree; decide, by decide, fun _ => test_no_loss.2.2.2.1, .inr rfl, .inl rfl, rfl⟩
theorem Tests.valid_of {s : State} {p : SchedulePayload} (r : StandParams)
    (h : (1000 ≤ p.h0.toNat ∧ p.h0.toNat ≤ 60000) ∧ (∀ k : Stand, 500 ≤ p.stands[k].h.toNat) ∧
      p.stands[0].h.toNat ≤ p.h0.toNat ∧ (∀ j k : Stand, j.val + 1 = k.val → p.stands[k].h.toNat ≤ p.stands[j].h.toNat) ∧
      (∀ k : Stand, -300000 ≤ p.stands[k].smin.toInt ∧ p.stands[k].smin.toInt ≤ p.stands[k].sset.toInt ∧
        p.stands[k].sset.toInt ≤ p.stands[k].smax.toInt ∧ p.stands[k].smax.toInt ≤ 400000) ∧
      (∀ k : Stand, s.stands[k].params = some r ∧ p.stands[k].smax.toInt < r.openGap) ∧
      (∀ k : Stand, 500 ≤ p.stands[k].q.toNat ∧ p.stands[k].q.toNat ≤ 50000 ∧ p.stands[k].f.toNat ≤ 150) ∧
      (p.ramp.toNat ≤ 16 ∧ 1 ≤ p.tol.toNat ∧ p.tol.toNat ≤ 1000 ∧ 1 ≤ p.bin.toNat ∧ p.bin.toNat ≤ 200) ∧
      (p.mark = 1 ∨ p.mark = 2)) : ValidPayload s p :=
  ⟨h.1, h.2.1, h.2.2.1, h.2.2.2.1, h.2.2.2.2.1, fun k => ⟨r, h.2.2.2.2.2.1 k⟩, h.2.2.2.2.2.2.1, h.2.2.2.2.2.2.2.1,
    h.2.2.2.2.2.2.2.2⟩
/-- READY without a schedule in force, tag 31 in the queue. -/
def Tests.unloaded : State := { Tests.ready with table := [], queue := [Tests.sched 31] }
theorem witness_SchedulesPlaced_accepted :
    PortFree Tests.unloaded ∧ ValidPayload Tests.unloaded (Tests.payload 30 1) ∧ ValidPayload Tests.run (Tests.payload 255 2) ∧
    (30 ≤ 31 ∧ Tests.unloaded.tagInUse 30 = false) ∧ Tests.unloaded.mode = .ready ∧ Tests.unloaded.entrySchedule = none ∧
    Tests.run.tagInUse 1 = false ∧ (∀ u < 1, Tests.run.tagInUse u = true) ∧ Tests.run.queue.length < 8 ∧ Tests.run.mode ≠ .config ∧
    8 ≤ ({ Tests.run with queue := List.replicate 8 (Tests.sched 2) } : State).queue.length ∧
    1 < (2 : Byte).toNat ∧ Tests.run.port.rx = [] := by
  refine ⟨by unfold PortFree; decide, Tests.valid_of Tests.params ?_, Tests.valid_of Tests.params ?_, ?_⟩ <;> decide +kernel
/-- Tags 32 and 254; a tolerance of 0, a mark mode of 3, an upper gap limit at the open gap; a tag in use; all tags in use. -/
theorem witness_SchedulesPlaced_refused :
    (∀ t ∈ ([32, 254] : List Byte), 31 < (Tests.payload t 1).tag.toNat ∧ (Tests.payload t 1).tag.toNat < 255) ∧
    ¬ ValidPayload Tests.run { Tests.payload 0 1 with tol := 0 } ∧ ¬ ValidPayload Tests.run (Tests.payload 0 3) ∧
    ¬ ValidPayload (Tests.run.setStand 0 { Tests.run.stands[(0 : Stand)] with params := some { Tests.params with openGap := 5000 } })
      (Tests.payload 0 1) ∧
    ValidPayload Tests.unloaded (Tests.payload 31 1) ∧ Tests.unloaded.tagInUse 31 = true ∧
    ValidPayload Tests.run (Tests.payload 0 1) ∧ Tests.run.tagInUse 0 = true ∧
    (∀ u < 32, ({ Tests.unloaded with queue := (List.range 32).map Tests.sched } : State).tagInUse u = true) := by
  refine ⟨by decide, fun h => absurd h.rest.2.1 (by decide), fun h => absurd h.mark (by decide), fun h => ?_,
    Tests.valid_of Tests.params ?_, ?_, Tests.valid_of Tests.params ?_, ?_⟩
  · obtain ⟨r, hr, hlt⟩ := h.opens 0
    cases hr
    exact absurd hlt (by decide +kernel)
  all_goals decide +kernel
theorem witness_WithdrawAndQuerySchedule :
    PortFree Tests.run ∧
    (let s := { Tests.run with queue := [Tests.sched 1, Tests.sched 31] };
      s.queue = [Tests.sched 1] ++ Tests.sched 31 :: [] ∧ (Tests.sched 31).tag = (31 : Byte).toNat ∧
      (∀ x ∈ [Tests.sched 1] ++ [], x.tag ≠ (31 : Byte).toNat) ∧ (∀ e ∈ s.table, e.sched.tag ≠ (31 : Byte).toNat)) ∧
    Tests.run.table.find? (·.sched.tag == (0 : Byte).toNat) = some ⟨Tests.sched 0, true, 2, none⟩ ∧
    Tests.run.tagInUse (5 : Byte).toNat = false ∧ 31 < (32 : Byte).toNat := by
  unfold PortFree; decide +kernel
theorem witness_FaultPolicySet :
    PortFree Tests.run ∧ 21 < (22 : Byte).toNat ∧ ((2 : Byte) ≠ 0 ∧ (2 : Byte) ≠ 1) ∧ (21 : Byte).toNat = (21 : Kind).val ∧
    Tests.run.policy[(16 : Kind)] ≠ ⟨true, (0 : Byte) == 1⟩ ∧
    (let s := Tests.run.setFault 21 ⟨true, [], 1, some (0, 0), some 0⟩;
      s.faults[(21 : Kind)].latched = true ∧ s.policy[(21 : Kind)] ≠ ⟨true, (1 : Byte) == 1⟩) ∧
    Tests.run.faults[(21 : Kind)].latched = false := by
  unfold PortFree; decide +kernel
theorem witness_LatchesAndCountsCleared :
    PortFree Tests.run ∧ (0x400000 : BitVec 24).getLsbD 22 = true ∧ (0x800000 : BitVec 24).getLsbD 23 = true ∧
    (0x3FFFFF : BitVec 24).getLsbD 22 = false ∧ (0x3FFFFF : BitVec 24).getLsbD 23 = false := by
  unfold PortFree; decide +kernel
theorem witness_QueriesAnswer :
    PortFree Tests.run ∧ (21 : Byte).toNat = (21 : Kind).val ∧ 21 < (22 : Byte).toNat ∧ (31 : Byte).toNat = (31 : EntryNo).val ∧
    31 < (32 : Byte).toNat ∧ (7 : Byte).toNat = (7 : LinkNo).val ∧ 7 < (8 : Byte).toNat ∧
    (∀ y ∈ Tests.thread.table, y.sched.tag < 32) := by
  unfold PortFree; decide +kernel
theorem witness_SegmentQueryAnswers :
    PortFree Tests.run ∧ Tests.run.ring.find? (·.number == 1) = some (Tests.seg 1) ∧
    (∀ g ∈ Tests.run.ring, g.number ≠ 2) ∧ (8 : BitVec 32).toNat = (8 : PointNo).val ∧
    Tests.run.points[(8 : PointNo)].started = true ∧
    Tests.run.ring.find? (·.number == Tests.run.points[(8 : PointNo)].cursor) = some (Tests.seg 0) ∧
    Tests.ready.points[(8 : PointNo)].started = false ∧ 8 < (9 : BitVec 32).toNat ∧
    Tests.run.ring = Tests.seg 0 :: [Tests.seg 1] ∧ Tests.run.ring = [Tests.seg 0] ++ [Tests.seg 1] ∧ Tests.ready.ring = [] ∧
    3 < (4 : Byte).toNat := by
  unfold PortFree; decide +kernel
/-- Sections 11.3.3 and 11.3.9: segment 1 of coil 2, a weld, QUIET and trip-marked, in the entry ramp, with one estimate. -/
theorem test_segment_reply :
    let g : Segment := ⟨1, 2, 3, true, some (20000, 5), [⟨0, some 14001, 7⟩, ⟨1, none, 0⟩], none, none, some 4, some .quiet, false, true⟩
    let t := Tests.after (.segmentQuery 1 3 0) { Tests.run with ring := [Tests.seg 0, g], trip := .opening }
    (Tests.reply t).map (fun r => r.2.take 56) = some [1, 0, 0, 0, 2, 0, 3, 0x15, 4, 1, 0x20, 0x4E, 0, 0, 5, 0, 0, 0, 0, 0,
      2, 1, 1, 0xB1, 0x36, 0, 0, 7, 0, 0, 0, 2, 0, 0, 0, 0, 0, 2, 0, 0, 0, 0, 0, 1, 0, 0, 0, 0, 0, 1, 1, 1, 1, 0, 0, 0] := by
  decide +kernel
theorem witness_SegmentsMarked :
    PortFree Tests.run ∧ ((3 : Byte) ≠ 1 ∧ (3 : Byte) ≠ 2) ∧ (∀ g ∈ Tests.run.ring, g.number ≠ 2) ∧
    Tests.run.ring.find? (·.number == 1) = some (Tests.seg 1) ∧ (5 : BitVec 16) ≠ 0 ∧
    (Tests.run.ring.filter (fun x => decide ((x.number - 1).toNat < (5 : BitVec 16).toNat))).getLast? = some (Tests.seg 1) ∧
    (Tests.run.ring.filter (·.coil == (Tests.seg 0).coil)).getLast? = some (Tests.seg 1) ∧
    (Tests.run.ring.filter (fun x => decide ((x.number - 0).toNat < (1 - 0 : SegNo).toNat + 1))).length =
      (1 - 0 : SegNo).toNat + 1 := by
  unfold PortFree; decide +kernel
/-- R163: a count of 0 marks to the end of the coil. -/
theorem test_mark_count_zero :
    let t := Tests.after (.segmentMarkSet 1 0 0 2) { Tests.run with ring := [Tests.seg 0, Tests.seg 1, { Tests.seg 2 with coil := 1 }] }
    t.ring.map (·.manual) = [true, true, false] ∧ Tests.reply t = some (.ok, [2, 0, 0, 0]) := by decide +kernel
theorem witness_LinkActions :
    PortFree Tests.run ∧ 7 < (8 : Byte).toNat ∧ (7 : Byte).toNat = (7 : LinkNo).val ∧
    Tests.run.links[(7 : LinkNo)].mode = .up ∧ State.reset.links[(7 : LinkNo)].mode = .down ∧
    (Tests.run.setLink 7 { Link.initial with mode := .training }).links[(7 : LinkNo)].mode = .training ∧
    (Tests.run.setLink 7 { Link.initial with mode := .disabled }).links[(7 : LinkNo)].mode = .disabled ∧
    (∀ e : EntryNo, ∀ c ∈ Tests.run.channels[e].config, c.link ≠ 7) ∧
    (∃ e : EntryNo, ∃ c ∈ Tests.run.channels[e].config, c.link = 0) ∧ Tests.run.trips Kind.sensorLinkDown = false ∧
    0 ∉ Tests.run.faults[Kind.sensorLinkDown].active ∧ Tests.run.policy[Kind.sensorLinkDown].enabled = true := by
  unfold PortFree; decide +kernel
/-- R132, R133: the loss kinds and SENSOR_LINK_DOWN do not trip by default. -/
theorem Tests.losses_do_not_trip (i : Item) (d : Kind) (loc : Nat) (h : lossOf i = some (d, loc)) : Tests.run.trips d = false := by
  cases i <;> simp only [lossOf, Option.some.injEq, Prod.mk.injEq, reduceCtorEq] at h <;> obtain ⟨rfl, -⟩ := h <;> decide +kernel
theorem witness_LinkLossMarksChannels :
    PortFree Tests.run ∧ (0 : Byte).toNat = (0 : LinkNo).val ∧ Tests.run.links[(0 : LinkNo)].mode ≠ .disabled ∧
    Tests.run.links[(0 : LinkNo)].timer = some 0 ∧
    Tests.run.line.linkTimeout ≤ ({ Tests.run with time := 2000 } : State).age 0 ∧
    ({ Tests.run with time := 1999 } : State).age 0 < Tests.run.line.linkTimeout ∧
    (∃ e : EntryNo, Tests.run.channels[e].config.map (·.link) = some 0) ∧ State.reset.links[(0 : LinkNo)].mode = .down ∧
    lostWith Tests.run 0 .entryThick = true ∧ lostWith Tests.run 1 .entryThick = false ∧
    (∀ (i : Item) (d : Kind) (loc : Nat), lostWith Tests.run 0 i = true → lossOf i = some (d, loc) → Tests.run.trips d = false) ∧
    Tests.run.trips Kind.sensorLinkDown = false := by
  unfold PortFree
  refine ⟨by decide, by decide, by decide, ?_, ?_, ?_, ?_, ?_, ?_, ?_, fun i d loc _ h => Tests.losses_do_not_trip i d loc h, ?_⟩
    <;> decide +kernel
/-- R100's own example: a link that carries FORCE and GAP_POS of one stand in GAUGE goes: HOLD with GAP_LOST, not POSITION. -/
theorem test_link_carries_both :
    let s := (Tests.run.setStand 2 { Tests.run.stands[(2 : Stand)] with mode := .gauge }).setChannel 12
      { Tests.run.channels[(12 : EntryNo)] with config := some { Tests.config_of 12 (.gapPos 2) with link := 1 } }
    let t := Tests.after (.disable 1 1) s
    t.stands[(2 : Stand)].mode = .hold ∧ t.stands[(2 : Stand)].holds = ⟨true, false, false, false⟩ ∧
    t.faults[(5 : Kind)].active = [3] ∧ t.faults[(6 : Kind)].active = [1, 2, 3, 4] := by decide +kernel
theorem witness_LogsRead :
    PortFree Tests.run ∧ 5 < (6 : Byte).toNat ∧ (5 : Byte).toNat = (4 : LogNo).val + 1 ∧
    (let s := Tests.after (.logWrite 1 5 [0x41]) Tests.run;
      (s.logs[(4 : LogNo)].next - 0).toNat = 1 ∧ s.logs[(4 : LogNo)].entries.length = 1 ∧
      (s.logs[(4 : LogNo)].next - 1).toNat = 0 ∧ (s.logs[(4 : LogNo)].next - 0xFFFFFFFF).toNat = 2) := by
  unfold PortFree; decide +kernel
theorem witness_NoteWrittenAndLogCleared_note :
    PortFree Tests.run ∧ 5 < (6 : Byte).toNat ∧ (4 : Byte).toNat < 5 ∧ 32 < (List.replicate 33 (0x41 : Byte)).length ∧
    1 ≤ ([0x41] : List Byte).length ∧ (List.replicate 32 (0x41 : Byte)).length ≤ 32 := by
  unfold PortFree; decide +kernel
theorem witness_NoteWrittenAndLogCleared_clear : PortFree Tests.run ∧ 5 < (6 : Byte).toNat ∧ (5 : Byte).toNat = (4 : LogNo).val + 1 := by
  unfold PortFree; decide +kernel

/-! ### Witnesses for the sensor links and channels -/

theorem witness_SensorFramesTrainLinks_good :
    (∀ m ∈ ([.disabled, .down, .training] : List LinkMode),
      (Tests.run.setLink 7 { Link.initial with mode := m }).links[(7 : LinkNo)].rx = [] ∧
      (Tests.run.setLink 7 { Link.initial with mode := m }).links[(7 : LinkNo)].mode = m) ∧
    (Tests.run.setLink 7 { Link.initial with mode := .training, training := 6 }).links[(7 : LinkNo)].training < 7 ∧
    (Tests.run.setLink 7 { Link.initial with mode := .training, training := 7 }).links[(7 : LinkNo)].training = 7 := by
  decide +kernel
theorem witness_SensorFramesTrainLinks_bad :
    ([0, 0, 0, 0, 0] : List Byte).length = 5 ∧ (1 : Byte) ≠ crc8 [0, 0, 0, 0, 0] ∧
    (0xC3 : Byte) ∉ ([0, 0, 0, 0, 0] : List Byte) ++ [1] ∧ Tests.run.links[(7 : LinkNo)].rx = [] ∧
    (Tests.run.setLink 7 { Link.initial with mode := .up, crcRun := 1 }).links[(7 : LinkNo)].crcRun < 2 ∧
    (Tests.run.setLink 7 { Link.initial with mode := .up, crcRun := 2 }).links[(7 : LinkNo)].crcRun = 2 := by
  decide +kernel
/-- In `Tests.ready` entry 6 is FORCE of stand 3 on link 1, slot 2. -/
theorem witness_SamplesJudged :
    (∀ s ∈ [Tests.config, Tests.ready, Tests.thread, Tests.run], s.links[(1 : LinkNo)].mode = .up ∧
      s.links[(1 : LinkNo)].rx = [] ∧ s.entryAt 7 3 = none ∧ s.entryAt 1 2 = some 6 ∧ s.entryAt 0 0 = some 0 ∧
      s.channels[(6 : EntryNo)].config = some (Tests.config_of 6 (.force 2)) ∧
      s.channels[(0 : EntryNo)].config = some (Tests.config_of 0 .entryThick) ∧
      s.channels[(6 : EntryNo)].state = .valid ∧ s.channels[(6 : EntryNo)].consecutive < 2) ∧
    roleRange (.force 2) = (-10000, 500000) ∧
    (let v (raw : BitVec 32) := roundDiv (fieldValue raw 0 32 true * 65536) 65536 + 0;
      v 500000 = 500000 ∧ v 500001 = 500001 ∧ v (BitVec.ofInt 32 (-10000)) = -10000) ∧
    2 ≤ (Tests.ready.setChannel 6 { Tests.ready.channels[(6 : EntryNo)] with consecutive := 2 }).channels[(6 : EntryNo)].consecutive ∧
    (ChannelState.invalid .age).isInvalid = true ∧ lossOf (.force 2) = some (6, 3) := by
  decide +kernel
/-- R43: the third reject in RUN makes FORCE_FEEDBACK_LOST of stand 3 active; the next accepted sample ends it, the latch kept;
a head fault on an entry that is INVALID already does not raise it again. -/
theorem test_loss_and_return :
    let s := Tests.run.setChannel 6 { Tests.run.channels[(6 : EntryNo)] with consecutive := 2 }
    let o : ReaderOrder := ⟨.gtp, true, false⟩
    let t := Tests.after (.sensorFrame 1 (sensorFrameBytes (Tests.frame 6 500001)) o) s
    let u := Tests.after (.sensorFrame 1 (sensorFrameBytes { Tests.frame 6 0 with headFault := true }) o) t
    let v := Tests.after (.sensorFrame 1 (sensorFrameBytes (Tests.frame 6 5000)) o) u
    t.faults[(6 : Kind)].active = [3] ∧ t.channels[(6 : EntryNo)].state = .invalid .range ∧
    u.faults[(6 : Kind)].count = 1 ∧ u.channels[(6 : EntryNo)].state = .invalid .headFault ∧
    v.faults[(6 : Kind)].active = [] ∧ v.faults[(6 : Kind)].latched = true ∧ v.channels[(6 : EntryNo)].state = .valid := by
  decide +kernel
/-- In `Tests.ready` entry 3 is ENTRY_LENGTH on link 0, slot 3. -/
theorem witness_EntryLengthSamples :
    Tests.ready.links[(0 : LinkNo)].mode = .up ∧ Tests.ready.links[(0 : LinkNo)].rx = [] ∧
    Tests.ready.points[PointNo.x0].started = false ∧ Tests.ready.entryAt 0 3 = some 3 ∧
    Tests.ready.channels[(3 : EntryNo)].config = some ⟨0, 3, .entryLength, 0, 32, true, 65536, 0, 1000⟩ ∧
    Tests.ready.channels[(3 : EntryNo)].lengthRef = none ∧
    (Tests.ready.setChannel 3 { Tests.ready.channels[(3 : EntryNo)] with lengthRef := some 5 }).channels[(3 : EntryNo)].lengthRef =
      some 5 ∧
    roundDiv (((1000005 + 2 ^ 32 - 5) % 2 ^ 32 : Nat) * 65536) 65536 = 1000000 ∧
    1000000 < roundDiv (((1000006 + 2 ^ 32 - 5) % 2 ^ 32 : Nat) * 65536) 65536 := by decide +kernel
theorem witness_ChannelAgeing :
    Tests.run.channels[(6 : EntryNo)].config = some ⟨1, 2, .force 2, 0, 32, true, 65536, 0, 1000⟩ ∧
    Tests.run.channels[(6 : EntryNo)].held = some (100, 0) ∧ Tests.run.channels[(6 : EntryNo)].state = .valid ∧
    1000 ≤ ({ Tests.run with time := 1000 } : State).age 0 ∧ ({ Tests.run with time := 999 } : State).age 0 < 1000 ∧
    4 * 1000 ≤ ({ Tests.run with time := 4000 } : State).age 0 ∧ ({ Tests.run with time := 3999 } : State).age 0 < 4 * 1000 ∧
    lossOf (.force 2) = some (Kind.forceFeedbackLost, 3) ∧ Tests.run.mode ≠ .config := by decide +kernel

/-! ### Witnesses for welds, tracking and control -/

theorem witness_WeldMarksCoil :
    (Tests.ready.mode = .config ∨ Tests.ready.mode = .ready ∨ Tests.ready.mode = .tripped) ∧
    (Tests.run.mode = .thread ∨ Tests.run.mode = .run) ∧ Tests.run.trip = .normal ∧
    Tests.run.trips Kind.weldRejected = false ∧ Tests.run.ring = [Tests.seg 0] ++ [Tests.seg 1] ∧
    ({ Tests.seg 1 with weld := true } : Segment).weld = true ∧
    4 ≤ ({ Tests.run with reports := List.replicate 4 (CoilReport.fresh 0 0 2) } : State).reports.length ∧
    (Tests.seg 1).weld = false ∧ Tests.run.reports.length < 4 ∧ Tests.run.queue = [] ∧
    (∀ x ∈ [Tests.seg 0], x.number ≠ (Tests.seg 1).number) ∧ (∀ r ∈ Tests.run.reports, r.coil ≠ Tests.run.coilCounter + 1) ∧
    (Tests.seg 1).coil ≠ Tests.run.coilCounter + 1 ∧ (∀ x ∈ Tests.run.transitions, x.weld ≠ (Tests.seg 1).number) ∧
    (∀ r ∈ Tests.run.reports, r.coil = (Tests.seg 1).coil → r.accounted + 1 < r.created) := by decide +kernel
theorem witness_WeldTakesSchedule :
    (let s := { Tests.run with queue := [Tests.sched 1] };
      s.ring = [Tests.seg 0] ++ [Tests.seg 1] ∧ (Tests.seg 1).weld = false ∧ s.reports.length < 4 ∧ s.queue = Tests.sched 1 :: [] ∧
      (∀ e ∈ s.table, e.sched.tag ≠ (Tests.sched 1).tag) ∧ (Tests.seg 1).tag ≠ (Tests.sched 1).tag ∧
      (∀ x ∈ s.transitions, x.weld ≠ (Tests.seg 1).number) ∧ s.points[PointNo.x6].started = true ∧
      s.points[PointNo.x6].cursor ≠ (Tests.seg 1).number ∧ s.table.length < 3 ∧ s.transitions.length < 2) ∧
    3 ≤ ({ Tests.run with table := List.replicate 3 ⟨Tests.sched 0, false, 1, none⟩ } : State).table.length ∧
    Tests.run.trips Kind.changeDeferred = false := by decide +kernel
theorem witness_PointsAdvance :
    Tests.run.points[(8 : PointNo)].travelled + 511999999 < Tests.run.line.segLen * 1024 ∧
    (0 < Tests.run.line.segLen ∧ Tests.run.trip = .normal ∧ Tests.run.points[PointNo.x0].started = true ∧
      Tests.run.ring = [Tests.seg 0] ++ [Tests.seg 1] ∧ (Tests.seg 1).number = Tests.run.points[PointNo.x0].cursor ∧
      (∀ x ∈ [Tests.seg 0], x.number ≠ (Tests.seg 1).number) ∧ (∀ x ∈ Tests.run.ring, x.number ≠ (Tests.seg 1).number + 1) ∧
      Tests.run.ring.length < 256 ∧ Tests.run.entrySchedule = some ⟨Tests.sched 0, true, 2, none⟩ ∧
      Tests.run.line.segLen * 1024 ≤ Tests.run.points[PointNo.x0].travelled + 512000000 ∧
      Tests.run.points[PointNo.x0].travelled + 1023999999 < 2 * (Tests.run.line.segLen * 1024)) ∧
    (Tests.run.trips Kind.trackOverrun = false ∧ (7 : PointNo).val + 1 = (8 : PointNo).val ∧
      Tests.run.points[(7 : PointNo)].started = true ∧
      Tests.run.points[(7 : PointNo)].cursor = Tests.run.points[(8 : PointNo)].cursor ∧
      Tests.run.line.segLen * 1024 ≤ Tests.run.points[(8 : PointNo)].travelled + 512000000) := by decide +kernel
theorem witness_ReferencesRampsAndBins_references :
    (-30000 : Int) ≤ 5000 ∧ 0 ≤ Tests.params.stepLimit ∧ (∀ l ∈ (some (-21862) : Option Int), -30000 ≤ l ∧ l ≤ 5000) ∧
    (guards Tests.params (some (-21862)) (-30000) 5000 (some 120000) (-21870)).send = some (-21870) ∧
    (guards Tests.params none (-30000) 5000 none 6000).send = some 5000 ∧
    -23000 < (-21862 : Int) - Tests.params.stepLimit ∧ 0 ≤ Tests.params.trimLimit := by decide +kernel
theorem witness_ReferencesRampsAndBins_arithmetic : (0 : Int) < 2 ∧ 2 * |roundDiv 5 2 * 2 - 5| = (2 : Int) ∧ 3 < 4 := by decide +kernel

/-! ### Witnesses for actuators and protection -/

/-- The part in RUN with every kind not tripping and actuator 3 as given. -/
def Tests.act (a : Actuator) : State := { Tests.run with policy := Tests.lenient, time := 1000000 }.setActuator 2 a

theorem witness_ActuatorStatuses :
    (∀ m ∈ ([.unlinked, .idle, .following, .moving, .opening, .opened, .faulted] : List ActMode), ∀ d : Bool,
      (Tests.act { Actuator.initial with mode := m, demand := d }).actuators[(2 : Stand)].rx = [] ∧
      (Tests.act { Actuator.initial with mode := m, demand := d }).actuators[(2 : Stand)].mode = m ∧
      (Tests.act { Actuator.initial with mode := m, demand := d }).actuators[(2 : Stand)].demand = d ∧
      (Tests.act { Actuator.initial with mode := m, demand := d }).trips Kind.actuatorFault = false) ∧
    Tests.tripped.trip = .opening ∧
    (∀ c ∈ ([0x84, 0, 0] : List Byte), c ≠ 0x3C) ∧ (0 : Byte) ≠ crc8 [0x84, 0] ∧ statusOf [0x81, 2] = none := by decide +kernel
theorem witness_ActuatorSupervision :
    (∀ m ∈ ([.unlinked, .moving] : List ActMode),
      (Tests.act { Actuator.initial with mode := m, replyTimer := some 990000 }).actuators[(2 : Stand)].replyTimer = some 990000) ∧
    10000 ≤ (Tests.act Actuator.initial).age 990000 ∧ (Tests.act Actuator.initial).age 990001 < 10000 ∧
    (Tests.act Actuator.initial).trips Kind.actuatorSilent = false ∧ (Tests.act Actuator.initial).stands[(2 : Stand)].mode = .position ∧
    100000 ≤ (Tests.act Actuator.initial).age 900000 ∧ (Tests.act Actuator.initial).age 900001 < 100000 := by decide +kernel
theorem witness_MoveAndOpenTimers :
    (let s := Tests.act { Actuator.initial with mode := .moving, posTimer := some 600000 };
      s.actuators[(2 : Stand)].mode = .moving ∧ s.stands[(2 : Stand)].params = some Tests.params ∧
      Tests.params.posTimeout * 1000 ≤ s.age 600000 ∧ s.age 600001 < Tests.params.posTimeout * 1000 ∧
      s.trips Kind.positioningTimeout = false ∧ s.stands[(2 : Stand)].mode = .position) ∧
    (let s := ({ Tests.tripped with time := 800000 } : State).setActuator 3
        { Actuator.initial with openTimer := some 0, demand := true };
      s.mode = .tripped ∧ s.trip = .opening ∧ s.line.openTimeout * 1000 ≤ s.age 0 ∧ s.age 1 < s.line.openTimeout * 1000 ∧
      s.actuators[(3 : Stand)].mode ≠ .opened ∧ (3 : Nat) + 1 ∉ s.faults[Kind.openTimeout].active) := by decide +kernel
theorem witness_ConditionTimersExpire :
    (let s := { Tests.run with time := 50000 }.setStand 0
        { StandCtl.initial with params := some Tests.params, mode := .position, unload := .running 0 };
      s.stands[(0 : Stand)].unload = .running 0 ∧ s.stands[(0 : Stand)].params = some Tests.params ∧
      Tests.params.unload * 1000 ≤ s.age 0 ∧ s.age 1 < Tests.params.unload * 1000 ∧ s.mode = .run ∧ Tests.thread.mode ≠ .run ∧
      1 ∉ s.faults[Kind.standUnloaded].active ∧ s.trips Kind.standUnloaded = true ∧ s.trip = .normal ∧
      ({ s with policy := Tests.lenient } : State).trips Kind.standUnloaded = false) ∧
    (let s := { Tests.run with time := 5000, breakTimers := State.reset.breakTimers.set 4 (.running 0) };
      s.breakTimers[(4 : Interstand)] = .running 0 ∧ s.line.breakConfirm * 1000 ≤ s.age 0 ∧
      s.age 1 < s.line.breakConfirm * 1000 ∧ s.mode = .run ∧ 5 ∉ s.faults[Kind.stripBreak].active ∧
      s.trips Kind.stripBreak = true ∧ ({ s with policy := Tests.lenient } : State).trips Kind.stripBreak = false) := by
  decide +kernel
theorem witness_ExternalStopTrips :
    (∀ s ∈ [Tests.ready, Tests.thread, Tests.run], (s.mode = .ready ∨ s.mode = .thread ∨ s.mode = .run) ∧ s.trip = .normal ∧
      s.trips 0 = true ∧ s.faults[(0 : Kind)].active = []) ∧
    Tests.config.mode = .config ∧ Tests.config.faults[(0 : Kind)].active = [] ∧
    Tests.tripped.mode = .tripped ∧ Tests.tripped.trip ≠ .normal ∧ Tests.tripped.trips 0 = true ∧
    Tests.tripped.faults[(0 : Kind)].active = [] ∧ Tests.tripped.firstOut = some ⟨0, 0, 0, .run, 0⟩ := by decide +kernel

/-! ### Witnesses for samples in THREAD and RUN -/

/-- The parts of `Brings` that are decided by evaluation, at the entry's configuration c. -/
theorem Tests.brings_of {s : State} {l : LinkNo} {f : SensorFields} {e : EntryNo} {i : Item} {v : Int} (c : ChannelConfig)
    (h : s.links[l].mode = .up ∧ s.links[l].rx = [] ∧ f.headFault = false ∧ s.entryAt l f.slot = some e ∧ s.entriesOf i = [e] ∧
      s.channels[e].config = some c ∧ v = roundDiv (fieldValue f.raw c.start c.length c.signed * c.gain) 65536 + c.offset ∧
      (roleRange i).1 ≤ v ∧ v ≤ (roleRange i).2 ∧ (s.channels[e].state = .valid ∨ s.channels[e].state = .stale)) :
    Brings s l f e i v :=
  ⟨h.1, h.2.1, h.2.2.1, h.2.2.2.1, h.2.2.2.2.1, fun d hd => by
    rw [h.2.2.2.2.2.1] at hd; cases hd; exact h.2.2.2.2.2.2.1,
    ⟨h.2.2.2.2.2.2.2.1, h.2.2.2.2.2.2.2.2.1⟩, h.2.2.2.2.2.2.2.2.2⟩

/-- FORCE of stand 3 at its loaded level and one unit above; B3 is point 4. -/
theorem witness_PointsStart_bite :
    let s : State := (Tests.thread.setPoint 4 .unstarted).setStand 2 { Tests.thread.stands[(2 : Stand)] with bite := none }
    let u := s.setPoint 3 .unstarted
    let w := u.setPoint 4 { Point.unstarted with early := true }
    Brings s 1 (Tests.frame 6 7001) 6 (.force 2) 7001 ∧ Brings s 1 (Tests.frame 6 7000) 6 (.force 2) 7000 ∧
    Brings u 1 (Tests.frame 6 7001) 6 (.force 2) 7001 ∧ Brings w 1 (Tests.frame 6 7001) 6 (.force 2) 7001 ∧
    s.mode = .thread ∧ s.trip = .normal ∧ s.stands[(2 : Stand)].params = some Tests.params ∧ 7001 < Tests.params.forceLimit ∧
    s.trips Kind.forceNearLimit = false ∧ (3 : PointNo).val + 1 = (bitePoint 2).val ∧
    Tests.params.zeroForce + Tests.params.bite < 7001 ∧ 7000 ≤ Tests.params.zeroForce + Tests.params.bite ∧
    s.points[bitePoint 2].started = false ∧ s.points[(3 : PointNo)].started = true ∧ s.stands[(2 : Stand)].bite = none ∧
    s.ring = Tests.seg 0 :: [Tests.seg 1] ∧ u.points[(3 : PointNo)].started = false ∧ u.points[bitePoint 2].early = false ∧
    u.trips Kind.trackOverrun = false ∧ w.points[bitePoint 2].early = true := by
  refine ⟨Tests.brings_of (Tests.config_of 6 (.force 2)) ?_, Tests.brings_of (Tests.config_of 6 (.force 2)) ?_,
    Tests.brings_of (Tests.config_of 6 (.force 2)) ?_, Tests.brings_of (Tests.config_of 6 (.force 2)) ?_, ?_⟩ <;> decide +kernel
/-- STAND1_THICK is entry 1 on link 0, slot 1; X1 is point 2. -/
theorem witness_PointsStart_gauge :
    let s := Tests.thread.setPoint 2 .unstarted
    let u := s.setPoint 1 .unstarted
    s.links[(0 : LinkNo)].mode = .up ∧ s.links[(0 : LinkNo)].rx = [] ∧ s.entryAt 0 (Tests.frame 1 14000).slot = some 1 ∧
    s.channels[(1 : EntryNo)].config = some (Tests.config_of 1 .stand1Thick) ∧ (1 : PointNo).val + 1 = PointNo.x1.val ∧
    s.points[PointNo.x1].started = false ∧ s.points[(1 : PointNo)].started = true ∧ s.ring = Tests.seg 0 :: [Tests.seg 1] ∧
    u.points[(1 : PointNo)].started = false ∧ u.points[PointNo.x1].early = false ∧ u.trips Kind.trackOverrun = false ∧
    (u.setPoint 2 { Point.unstarted with early := true }).points[PointNo.x1].early = true := by decide +kernel

/-- The three gauges are entries 0 to 2 on link 0; in a trip; FORCE of stand 3 in a trip. -/
theorem witness_PointsStart_readings :
    (∀ s ∈ [Tests.thread, Tests.run], ∀ v ∈ ([0, 100000] : List Int), Brings s 0 (Tests.frame 0 v) 0 .entryThick v ∧
      Brings s 0 (Tests.frame 1 v) 1 .stand1Thick v ∧ Brings s 0 (Tests.frame 2 v) 2 .exitThick v) ∧
    (∀ p : PointNo, Tests.run.points[p].started = true) ∧ Tests.run.trip = .normal ∧ (Tests.frame 0 100001).strip = true ∧
    Tests.run.entryAt 0 (Tests.frame 0 100001).slot = some 0 ∧ ¬ ((100001 : Int) ≤ 100000) ∧
    Tests.run.channels[(0 : EntryNo)].config = some (Tests.config_of 0 .entryThick) ∧ Tests.tripped.trip ≠ .normal ∧
    Brings Tests.tripped 0 (Tests.frame 1 14000) 1 .stand1Thick 14000 ∧ Brings Tests.tripped 1 (Tests.frame 6 7001) 6 (.force 2) 7001 := by
  refine ⟨fun s hs v hv => ⟨Tests.brings_of (Tests.config_of 0 .entryThick) ?_, Tests.brings_of (Tests.config_of 1 .stand1Thick) ?_,
    Tests.brings_of (Tests.config_of 2 .exitThick) ?_⟩, ?_, ?_, ?_, ?_, ?_, ?_, ?_, Tests.brings_of (Tests.config_of 1 .stand1Thick) ?_,
    Tests.brings_of (Tests.config_of 6 (.force 2)) ?_⟩
  iterate 3 revert v s; decide +kernel
  all_goals decide +kernel
/-- R56: a second reading is added to the first; one with the flag clear, and one in a trip, is not. -/
theorem test_gauge_readings :
    let o : ReaderOrder := ⟨.gtp, true, false⟩
    let f (v : Int) := Instr.sensorFrame 0 (sensorFrameBytes (Tests.frame 1 v)) o
    let s := Tests.after (f 14003) (Tests.after (f 13998) Tests.run)
    let t := Tests.after (.sensorFrame 0 (sensorFrameBytes { Tests.frame 1 5 with strip := false }) o) s
    let u := Tests.after (f 14000) Tests.tripped
    s.points[PointNo.x1].sum = 28001 ∧ s.points[PointNo.x1].count = 2 ∧ t.points = s.points ∧ u.points = Tests.tripped.points := by
  decide +kernel

/-- The part in RUN at 1 ms, every stand at 10,000 mm/s in force. -/
def Tests.rolling : State := { Tests.run with time := 1000, speeds := Vector.replicate 6 (some 10000) }

/-- ROLL_SPEED of stand 1 is entry 16 on link 4, slot 0; ENTRY_LENGTH is entry 3 on link 0, slot 3. -/
theorem witness_SpeedAdvances :
    Brings Tests.rolling 4 (Tests.frame 16 40000) 16 (.rollSpeed 0) 40000 ∧
    (∀ p : PointNo, drivenBy Tests.rolling 0 p = true → Tests.rolling.points[p].started = true →
      Tests.rolling.points[p].travelled + Tests.rolling.advanceOf 0 p < Tests.rolling.line.segLen * 1024) ∧
    0 < Tests.rolling.advanceOf 0 1 ∧
    Brings Tests.tripped 4 (Tests.frame 16 0) 16 (.rollSpeed 0) 0 ∧ Tests.tripped.trip ≠ .normal ∧
    (let s := Tests.rolling.setChannel 3 { Tests.rolling.channels[(3 : EntryNo)] with lengthRef := some 5 };
      s.links[(0 : LinkNo)].mode = .up ∧ s.points[PointNo.x0].started = true ∧ s.entryAt 0 3 = some 3 ∧
      s.channels[(3 : EntryNo)].config = some (Tests.config_of 3 .entryLength) ∧ s.channels[(3 : EntryNo)].state = .valid ∧
      s.points[PointNo.x0].travelled + (499999 : Int).toNat * 1024 < s.line.segLen * 1024) ∧
    (let s := Tests.rolling.setChannel 3 { Tests.rolling.channels[(3 : EntryNo)] with state := .noData };
      s.channels[(3 : EntryNo)].lengthRef = none ∧ s.channels[(3 : EntryNo)].state = .noData ∧
      s.points[PointNo.x0].travelled + s.advanceOf 0 PointNo.x0 < s.line.segLen * 1024) := by
  refine ⟨Tests.brings_of (Tests.config_of 16 (.rollSpeed 0)) ?_, ?_, ?_, Tests.brings_of (Tests.config_of 16 (.rollSpeed 0)) ?_, ?_⟩
    <;> decide +kernel

/-- B1 one step of 1/1024 µm before the end of segment 0, X0 being on segment 1. -/
def Tests.atBite : State := Tests.rolling.setPoint 1 { Tests.rolling.points[(1 : PointNo)] with travelled := 511999999 }
/-- X1 there, B1 being on segment 1. -/
def Tests.atGauge : State :=
  (Tests.rolling.setPoint 1 { Tests.rolling.points[(1 : PointNo)] with cursor := 1 }).setPoint 2
    { Tests.rolling.points[(2 : PointNo)] with travelled := 511999999, sum := 42000, count := 3 }
/-- X6 there, B6 being on segment 1. -/
def Tests.atExit : State :=
  (Tests.rolling.setPoint 7 { Tests.rolling.points[(7 : PointNo)] with cursor := 1 }).setPoint 8
    { Tests.rolling.points[(8 : PointNo)] with travelled := 511999999, sum := 5163, count := 3 }

theorem witness_PassagesAtBitesAndX1 :
    Brings Tests.atBite 4 (Tests.frame 16 40000) 16 (.rollSpeed 0) 40000 ∧ PassesOnce Tests.atBite 0 1 0 0 ∧ (1 : PointNo) = bitePoint 0 ∧
    Brings Tests.atGauge 4 (Tests.frame 16 40000) 16 (.rollSpeed 0) 40000 ∧ PassesOnce Tests.atGauge 0 2 1 0 ∧
    Tests.atGauge.mode = .run ∧ Tests.atGauge.trip = .normal ∧ Tests.atGauge.segment 0 = some (Tests.seg 0) ∧
    Tests.atGauge.inForce 0 = some ⟨Tests.sched 0, true, 2, none⟩ ∧ meanOf Tests.atGauge.points[PointNo.x1] = some (14000, 3) ∧
    (let s := { Tests.atBite with
      ring := [Tests.seg 0, { Tests.seg 1 with weld := true }], transitions := [⟨0, 1, 1, 0, Vector.replicate 6 false⟩] };
      s.segment (0 + 1) = some { Tests.seg 1 with weld := true } ∧
      s.transitions.find? (·.weld == 0 + 1) = some ⟨0, 1, 1, 0, Vector.replicate 6 false⟩) := by
  refine ⟨Tests.brings_of (Tests.config_of 16 (.rollSpeed 0)) ?_, ⟨?_, ?_, ?_, ?_, ?_, ?_, ?_, ?_, ?_⟩, ?_,
    Tests.brings_of (Tests.config_of 16 (.rollSpeed 0)) ?_, ⟨?_, ?_, ?_, ?_, ?_, ?_, ?_, ?_, ?_⟩, ?_⟩ <;> decide +kernel
/-- ROLL_SPEED of stand 6 is entry 21 on link 5, slot 1. -/
theorem witness_ExitPassage :
    Brings Tests.atExit 5 (Tests.frame 21 40000) 21 (.rollSpeed 5) 40000 ∧ PassesOnce Tests.atExit 5 8 7 0 ∧
    Tests.atExit.trip = .normal ∧ Tests.atExit.ring = Tests.seg 0 :: [Tests.seg 1] ∧ (∀ y ∈ [Tests.seg 1], y.number ≠ 0) ∧
    Tests.atExit.inForce (Tests.seg 0).tag = some ⟨Tests.sched 0, true, 2, none⟩ ∧
    Tests.atExit.reports = [] ++ CoilReport.fresh 0 0 2 :: [] ∧ (CoilReport.fresh 0 0 2).coil = (Tests.seg 0).coil ∧
    Tests.atExit.trips Kind.offGaugeRun = false ∧ meanOf Tests.atExit.points[PointNo.x6] = some (1721, 3) ∧
    (verdict 1721 1700 20 10).off = true := by
  refine ⟨Tests.brings_of (Tests.config_of 21 (.rollSpeed 5)) ?_, ⟨?_, ?_, ?_, ?_, ?_, ?_, ?_, ?_, ?_⟩, ?_⟩ <;> decide +kernel
/-- R157 to R160, R166: the thickness just beyond the tolerance of 20 begins a run, in bin 10. -/
theorem test_exit_passage :
    let t := Tests.after (.sensorFrame 5 (sensorFrameBytes (Tests.frame 21 40000)) ⟨.gtp, true, false⟩) Tests.atExit
    t.ring.map (·.number) = [1] ∧ t.runState.map (·.maxDev) = some 21 ∧ t.reports.map (·.bins[10]) = [1] := by decide +kernel

/-- The ring full: segments 0 to 255, X0 at the end of the last, every other point on the oldest. -/
def Tests.full : State :=
  { Tests.rolling with
    ring := Tests.seg 0 :: ((List.range 254).map (fun i => Tests.seg (BitVec.ofNat 32 (i + 1))) ++ [Tests.seg 255])
    points := Tests.rolling.points.set 0 { Point.unstarted with started := true, cursor := 255, travelled := 511999999 }
    channels := Tests.rolling.channels.set 3 { Tests.rolling.channels[(3 : EntryNo)] with lengthRef := some 5 } }

theorem witness_ForcedRelease :
    Tests.full.links[(0 : LinkNo)].mode = .up ∧ Tests.full.points[PointNo.x0].started = true ∧ Tests.full.trip = .normal ∧
    Tests.full.entryAt 0 3 = some 3 ∧ Tests.full.channels[(3 : EntryNo)].config = some (Tests.config_of 3 .entryLength) ∧
    Tests.full.channels[(3 : EntryNo)].state = .valid ∧ Tests.full.channels[(3 : EntryNo)].lengthRef = some 5 ∧
    roundDiv (((6 + 2 ^ 32 - 5) % 2 ^ 32 : Nat) * 65536) 65536 = 1 ∧
    Tests.full.points[PointNo.x0].travelled < Tests.full.line.segLen * 1024 ∧
    Tests.full.line.segLen * 1024 ≤ Tests.full.points[PointNo.x0].travelled + (1 : Int).toNat * 1024 ∧
    Tests.full.ring.length = 256 ∧ Tests.full.points[PointNo.x0].cursor = 255 ∧
    (∀ y ∈ (List.range 254).map (fun i => Tests.seg (BitVec.ofNat 32 (i + 1))),
      y.number ≠ 0 ∧ y.number ≠ 255 ∧ y.number ≠ (255 : SegNo) + 1) ∧
    Tests.full.entrySchedule = some ⟨Tests.sched 0, true, 2, none⟩ ∧ Tests.full.trips Kind.trackFull = false ∧
    Tests.full.reports = [] ++ CoilReport.fresh 0 0 2 :: [] := by decide +kernel

/-- FORCE of stand 3 at the boundaries of its levels: loaded 7000, near 190,000, limit 200,000. -/
theorem witness_ForceSamplesJudged :
    (∀ v ∈ ([7000, 7001, 189999, 190000, 199999, 200000] : List Int), Brings Tests.run 1 (Tests.frame 6 v) 6 (.force 2) v) ∧
    Tests.run.stands[(2 : Stand)].params = some Tests.params ∧ Tests.run.trips Kind.forceNearLimit = false ∧
    Tests.run.points[bitePoint 2].started = true ∧ Tests.run.stands[(2 : Stand)].mode = .position ∧
    199999 < Tests.params.forceLimit ∧ Tests.params.forceLimit ≤ 200000 ∧ Tests.run.heldOf (.gapPos 2) = some 100 ∧
    Tests.run.stands[(2 : Stand)].bite.isSome = true ∧ Tests.run.trips Kind.forceLimit = true ∧
    3 ∉ Tests.run.faults[Kind.forceLimit].active ∧ Tests.ready.stands[(2 : Stand)].mode = .off := by
  refine ⟨fun v hv => Tests.brings_of (Tests.config_of 6 (.force 2)) ?_, ?_⟩
  · revert v hv; decide +kernel
  · decide +kernel

/-- Stand 3 in GAUGE with its bite on segment 0. -/
def Tests.gauging : State :=
  Tests.run.setStand 2 { Tests.run.stands[(2 : Stand)] with mode := .gauge, lastSent := some (-5000) }

theorem witness_GaugeEvaluations :
    Brings Tests.gauging 1 (Tests.frame 6 120000) 6 (.force 2) 120000 ∧ Tests.gauging.trip = .normal ∧ Tests.gauging.mode = .run ∧
    Tests.gauging.stands[(2 : Stand)].params = some Tests.params ∧ Tests.gauging.trips Kind.forceNearLimit = false ∧
    120000 < Tests.params.forceLimit ∧ Tests.gauging.points[bitePoint 2].started = true ∧
    Tests.gauging.stands[(2 : Stand)].mode = .gauge ∧ Tests.gauging.stands[(2 : Stand)].bite = some 0 ∧
    Tests.gauging.segment 0 = some (Tests.seg 0) ∧ Tests.gauging.inForce (Tests.seg 0).tag = some ⟨Tests.sched 0, true, 2, none⟩ ∧
    Tests.gauging.stands[(2 : Stand)].lastSent = some (-5000) ∧ Tests.gauging.actuators[(2 : Stand)].mode = .idle := by
  refine ⟨Tests.brings_of (Tests.config_of 6 (.force 2)) ?_, ?_⟩ <;> decide +kernel

/-- Stand 3 in a stand mode, its actuator's positioning timer just expired. -/
def Tests.late (m : StandMode) : State :=
  Tests.after (.positioningTimerExpiry 2) ((({ Tests.gauging with time := 1000000 } : State).setStand 2
    { Tests.gauging.stands[(2 : Stand)] with mode := m }).setActuator 2
      { Tests.gauging.actuators[(2 : Stand)] with mode := .moving, target := some (-5000), posTimer := some 600000 })

theorem witness_GaugeEvaluations_beforeReport :
    Brings (Tests.late .gauge) 1 (Tests.frame 6 120000) 6 (.force 2) 120000 ∧
    TakesIn (Tests.late .gauge) 2 ⟨.gtp, true, true⟩ .gauge ∧ (Tests.late .gauge).stands[(2 : Stand)].mode = .hold ∧
    (Tests.late .gauge).stands[(2 : Stand)].params = some Tests.params ∧ (Tests.late .gauge).trip = .normal ∧
    (Tests.late .gauge).mode = .run ∧ (Tests.late .gauge).stands[(2 : Stand)].bite = some 0 ∧
    (Tests.late .gauge).segment 0 = some (Tests.seg 0) ∧ (Tests.late .gauge).trips Kind.forceNearLimit = false ∧
    (Tests.late .gauge).inForce (Tests.seg 0).tag = some ⟨Tests.sched 0, true, 2, none⟩ ∧
    (Tests.late .gauge).points[bitePoint 2].started = true ∧
    (Tests.late .gauge).stands[(2 : Stand)].lastSent = some (-5000) := by
  refine ⟨Tests.brings_of (Tests.config_of 6 (.force 2)) ?_, Or.inr ?_, ?_⟩ <;> decide +kernel
/-- R131, second row, the expiry taken first: the GAP_SET finds FOLLOWING and is a fresh move, whose timer starts now. -/
theorem test_gap_set_after_expiry :
    let t := Tests.after (.sensorFrame 1 (sensorFrameBytes (Tests.frame 6 120000)) ⟨.gtp, true, true⟩) (Tests.late .gauge)
    t.actuators[(2 : Stand)].mode = .moving ∧ t.actuators[(2 : Stand)].posTimer = some 1000000 ∧ t.sent.length = 1 ∧
    t.stands[(2 : Stand)].mode = .hold ∧ t.faults[Kind.positioningTimeout].active = [] := by decide +kernel
/-- R100, R117: the stand told of the expiry before the sample evaluates no reference. -/
theorem test_hold_evaluates_nothing :
    let t := Tests.after (.sensorFrame 1 (sensorFrameBytes (Tests.frame 6 120000)) ⟨.gtp, true, false⟩) (Tests.late .gauge)
    t.actuators[(2 : Stand)].mode = .following ∧ t.sent = [] ∧ t.stands[(2 : Stand)].counters.sent = 0 := by decide +kernel
/-- R124, last row: a FAULT, then the sample before its report: counted by the stand as handed over, and not sent. -/
theorem test_gap_set_not_sent :
    let s := Tests.after (.faultStatus 2 7) { Tests.gauging with policy := Tests.lenient }
    let t := Tests.after (.sensorFrame 1 (sensorFrameBytes (Tests.frame 6 120000)) ⟨.gtp, true, true⟩) s
    t.actuators[(2 : Stand)] = s.actuators[(2 : Stand)] ∧ t.sent = [] ∧ t.stands[(2 : Stand)].counters.sent = 1 ∧
    t.stands[(2 : Stand)].mode = .hold := by decide +kernel

theorem witness_GapSamplesJudged_beforeReport :
    Brings (Tests.late .position) 3 (Tests.frame 12 0) 12 (.gapPos 2) 0 ∧
    TakesIn (Tests.late .position) 2 ⟨.gtp, false, true⟩ .position ∧ (Tests.late .position).mode = .run ∧
    ¬ TakesIn (Tests.late .position) 2 ⟨.gtp, false, false⟩ .position ∧
    (Tests.late .position).stands[(2 : Stand)].params = some Tests.params ∧
    (Tests.late .position).stands[(2 : Stand)].lastSent = some (-5000) ∧
    (Tests.late .position).stands[(2 : Stand)].bite = some 0 ∧
    (Tests.late .position).scheduleOf 0 = some ⟨Tests.sched 0, true, 2, none⟩ := by
  refine ⟨Tests.brings_of (Tests.config_of 12 (.gapPos 2)) ?_, Or.inr ?_, ?_, fun h => ?_, ?_⟩
  · decide +kernel
  · decide +kernel
  · decide +kernel
  · rcases h with h | ⟨_, _, h⟩
    · exact absurd h (by decide +kernel)
    · exact absurd h (by decide)
  · decide +kernel

/-- The return clause: THREAD, HOLD without a cause, B3 not started, no report of the actuator in this microsecond. -/
theorem witness_GapSamplesJudged_return :
    let s := Tests.thread.setStand 2 { Tests.thread.stands[(2 : Stand)] with mode := .hold, bite := none }
    Brings s 3 (Tests.frame 12 0) 12 (.gapPos 2) 0 ∧ s.mode = .thread ∧ s.stands[(2 : Stand)].mode = .hold ∧
    s.stands[(2 : Stand)].holds = ⟨false, false, false, false⟩ ∧ s.stands[(2 : Stand)].bite = none ∧
    s.heldFrom[(2 : Stand)] = none := by
  refine ⟨Tests.brings_of (Tests.config_of 12 (.gapPos 2)) ?_, ?_⟩ <;> decide +kernel

/-- GAP_POS of stand 3 is entry 12 on link 3, slot 0; the move band is 30 gu and the open gap 300,000 gu. -/
theorem witness_GapSamplesJudged :
    (∀ v ∈ ([-4970, -4969, 299970, 299969] : List Int), Brings Tests.ready 3 (Tests.frame 12 v) 12 (.gapPos 2) v ∧
      Brings Tests.gauging 3 (Tests.frame 12 v) 12 (.gapPos 2) v) ∧
    (|(-4970 : Int) - -5000| ≤ Tests.params.moveBand ∧ ¬ |(-4969 : Int) - -5000| ≤ Tests.params.moveBand) ∧
    Tests.params.openGap - Tests.params.moveBand ≤ 299970 ∧ 299969 < Tests.params.openGap - Tests.params.moveBand ∧
    ¬ ((Tests.gauging.mode = .thread ∨ Tests.gauging.mode = .run) ∧ Tests.gauging.stands[(2 : Stand)].mode = .position) ∧
    (∀ m ∈ ([.moving, .opening, .following] : List ActMode),
      (Tests.ready.setActuator 2 { Actuator.initial with mode := m, target := some (-5000) }).actuators[(2 : Stand)].mode = m) ∧
    (Tests.run.scheduleOf 0 = some ⟨Tests.sched 0, true, 2, none⟩ ∧ Tests.run.stands[(2 : Stand)].bite = some 0 ∧
      Tests.ready.entrySchedule = some ⟨Tests.sched 0, true, 0, none⟩) ∧
    (let s := Tests.run.setChannel 12 { Tests.run.channels[(12 : EntryNo)] with state := .invalid .age };
      s.links[(3 : LinkNo)].mode = .up ∧ s.entryAt 3 0 = some 12 ∧
      s.channels[(12 : EntryNo)].config = some (Tests.config_of 12 (.gapPos 2)) ∧
      s.channels[(12 : EntryNo)].state.isInvalid = true) := by
  refine ⟨fun v hv => ⟨Tests.brings_of (Tests.config_of 12 (.gapPos 2)) ?_, Tests.brings_of (Tests.config_of 12 (.gapPos 2)) ?_⟩, ?_⟩
  · revert v hv; decide +kernel
  · revert v hv; decide +kernel
  · decide +kernel

/-- TENSION of interstand 1 is entry 22 on link 5, slot 2; the threshold is 500. -/
theorem witness_BreakTimersAndLosses :
    (∀ v ∈ ([499, 500] : List Int), Brings Tests.run 5 (Tests.frame 22 v) 22 (.tension 0) v) ∧
    (499 : Int) < (Tests.run.line.breakThreshold : Int) ∧ (Tests.run.line.breakThreshold : Int) ≤ 500 ∧
    (∀ x ∈ ([(22, .tension 0), (21, .rollSpeed 5), (20, .rollSpeed 4), (6, .force 2), (12, .gapPos 2)] : List (EntryNo × Item)),
      Tests.run.channels[x.1].config = some (Tests.config_of x.1.val x.2) ∧ Tests.run.channels[x.1].held = some (100, 0) ∧
      Tests.run.channels[x.1].state = .valid ∧ (∀ d ∈ (lossOf x.2).map (·.1), Tests.run.trips d = false) ∧
      Tests.run.entryAt (Fin.ofNat 8 (x.1.val / 4)) (Tests.frame x.1.val 0).slot = some x.1 ∧
      Tests.run.links[(Fin.ofNat 8 (x.1.val / 4) : LinkNo)].mode = .up ∧
      (roleRange x.2).2 < 500001 ∧ (roleRange x.2).1 ≤ (roleRange x.2).2) ∧
    2 ≤ (Tests.run.setChannel 6 { Tests.run.channels[(6 : EntryNo)] with consecutive := 2 }).channels[(6 : EntryNo)].consecutive ∧
    Tests.run.trips Kind.trackOverrun = false ∧
    4 * 1000 ≤ ({ Tests.run with time := 4000 } : State).age 0 := by
  refine ⟨fun v hv => Tests.brings_of (Tests.config_of 22 (.tension 0)) ?_, ?_⟩
  · revert v hv; decide +kernel
  · decide +kernel
/-! ### Witnesses for clearings and trips -/

/-- Two transitions out of weld order. -/
def Tests.changing (s : State) : State :=
  { s with transitions := [⟨0, 1, 1, 0, Vector.replicate 6 false⟩, ⟨1, 2, 0, 0, Vector.replicate 6 false⟩] }

theorem witness_ClearingRecords :
    PortFree Tests.run ∧ NoLoss Tests.run ∧ (Tests.run.reports.map (·.coil)).Nodup ∧
    InWeldOrder [⟨1, 2, 0, 0, Vector.replicate 6 false⟩, ⟨0, 1, 1, 0, Vector.replicate 6 false⟩] (Tests.changing Tests.run) ∧
    Tests.run.mode = .run ∧ Tests.run.table.filter (·.isEntry) = [⟨Tests.sched 0, true, 2, none⟩] ∧ (Tests.sched 0).tag < 32 ∧
    (∀ y ∈ Tests.run.table, y.isEntry = true ∨
      (0 < y.refs ∧ y.refs = (Tests.run.ring.filter (·.tag == y.sched.tag)).length)) ∧
    (let s := { Tests.tripped with trip := .safe, faults := State.reset.faults };
      s.mode = .tripped ∧ s.trip ≠ .opening ∧ NoTripLatched s ∧ NoLoss s) ∧
    Tests.ready.mode = .ready ∧ Tests.ready.table.length ≤ 1 ∧ (∀ y ∈ Tests.ready.table, y.sched.tag < 32) := by
  refine ⟨by unfold PortFree; decide, test_no_loss.2.2.2.1, by decide, ⟨List.Perm.swap _ _ _, by decide⟩, ?_⟩
  unfold NoTripLatched NoLoss; decide +kernel
/-- R11, R91, R160, R168: STOP in RUN with a logged run and two transitions. -/
theorem test_stop_records :
    let t := Tests.after (.stop 9) { Tests.changing Tests.run with runState := some ⟨0, 0, 1, 2, 25, .logged, false⟩ }
    t.logs[LogNo.schedule].entries.map (·.content) = [.cancelled ⟨1, 2, 0, 0, Vector.replicate 6 false⟩,
      .cancelled ⟨0, 1, 1, 0, Vector.replicate 6 false⟩] ∧
    t.logs[LogNo.defect].entries.map (·.content) = [.offGauge 0 0 1 2 25] ∧
    t.port.notices.map Notice.typ = [0x84, 0x83, 0x83, 0x80] := by decide +kernel

/-- Every kind enabled and tripping. -/
def Tests.strict (s : State) : State := { s with policy := Vector.replicate 22 ⟨true, true⟩ }

theorem witness_TrippingKindsTrip_actuators :
    (∀ m ∈ ([.idle, .following, .moving, .unlinked] : List ActMode),
      let s := Tests.strict ((Tests.act { Actuator.initial with
        mode := m, replyTimer := some 990000, posTimer := some 600000 }))
      s.trip = .normal ∧ s.mode = .run ∧ s.actuators[(2 : Stand)].rx = [] ∧ s.trips Kind.actuatorSilent = true ∧
      3 ∉ s.faults[Kind.actuatorSilent].active ∧ s.actuators[(2 : Stand)].replyTimer = some 990000 ∧ 10000 ≤ s.age 990000 ∧
      s.trips Kind.actuatorFault = true ∧ 3 ∉ s.faults[Kind.actuatorFault].active ∧ s.actuators[(2 : Stand)].mode = m ∧
      s.actuators[(2 : Stand)].demand = false ∧ s.trips Kind.positioningTimeout = true ∧
      3 ∉ s.faults[Kind.positioningTimeout].active ∧ s.stands[(2 : Stand)].params = some Tests.params ∧
      Tests.params.posTimeout * 1000 ≤ s.age 600000) ∧ Tests.run.trips Kind.actuatorFault = true := by decide +kernel
theorem witness_TrippingKindsTrip_tracking :
    (let s := Tests.strict ((Tests.thread.setPoint 2 .unstarted).setPoint 1 .unstarted);
      Brings s 0 (Tests.frame 1 14000) 1 .stand1Thick 14000 ∧ s.points[PointNo.x1].started = false ∧
      s.points[PointNo.x1].early = false ∧ s.points[(1 : PointNo)].started = false ∧ s.trips Kind.trackOverrun = true ∧
      2 ∉ s.faults[Kind.trackOverrun].active) ∧
    (let s := Tests.strict (Tests.atBite.setPoint 0 { Tests.atBite.points[(0 : PointNo)] with cursor := 0 });
      Brings s 4 (Tests.frame 16 40000) 16 (.rollSpeed 0) 40000 ∧ drivenBy s 0 1 = true ∧ s.points[(1 : PointNo)].clamped = false ∧
      s.points[(0 : PointNo)].cursor = s.points[(1 : PointNo)].cursor ∧
      s.points[(1 : PointNo)].travelled < s.line.segLen * 1024 ∧
      s.line.segLen * 1024 ≤ s.points[(1 : PointNo)].travelled + s.advanceOf 0 1 ∧
      (∀ q : PointNo, q ≠ 1 → drivenBy s 0 q = true → s.points[q].started = true →
        s.points[q].travelled + s.advanceOf 0 q < s.line.segLen * 1024)) ∧
    (let s := Tests.strict { Tests.run with ring := [Tests.seg 0] ++ [{ Tests.seg 1 with weld := true }] };
      s.trips Kind.weldRejected = true ∧ 0 ∉ s.faults[Kind.weldRejected].active) ∧
    (let s := Tests.strict { Tests.changing Tests.run with queue := [Tests.sched 1] };
      s.ring = [Tests.seg 0] ++ [Tests.seg 1] ∧ (Tests.seg 1).weld = false ∧ s.reports.length < 4 ∧ s.queue ≠ [] ∧
      2 ≤ s.transitions.length ∧ s.trips Kind.changeDeferred = true ∧ 0 ∉ s.faults[Kind.changeDeferred].active) := by
  refine ⟨⟨Tests.brings_of (Tests.config_of 1 .stand1Thick) ?_, ?_⟩, ⟨Tests.brings_of (Tests.config_of 16 (.rollSpeed 0)) ?_, ?_⟩, ?_⟩
    <;> decide +kernel

end Slice0Tests
end

/-! SUPPORT. Every step keeps what the field events and every request keep: from a `Serves` predicate that holds at reset, one
lemma for `exec` and one for `step`. -/

namespace Sys2Proof.Machine

variable {P : State → Prop}

/-- R2, R139: POWER_ON leaves the values of reset, on which the level of EXTERNAL_STOP is then judged. -/
theorem initialised_keeps (H : Raises P) (hreset : P State.reset) (s : State) : P (initialised s) := by
  unfold initialised
  extract_lets r0 r
  have hr : P r := H.steady.same hreset rfl
  split
  · exact raise_keeps H _ _ hr
  · exact hr

/-- R5: a tick changes the port as the start of every step does, and the clocks and the waiting commands besides. -/
theorem idle_keeps (H : Serves P) {s : State} (h : P s) : P (idle s) := by
  refine H.steady.same (stepStart_keeps H h) ?_
  unfold idle advanceTime
  split <;> rfl

/-- Every command has a next state, and it keeps the predicate. -/
theorem exec_keeps (H : Serves P) (hreset : P State.reset) (c : Instr) {s : State} (h : P s) :
    ∃ t, exec c s = .next t ∧ P t := by
  have F := H.toFields
  have R := H.toRaises
  have S := H.steady
  have h0 : P s.stepStart := stepStart_keeps H h
  have request : ∀ (r : Request) (n : Byte) {act : State → Answer × State}, (∀ t, act t = handle r t) →
      P (arrives r n act s.stepStart) := fun r n _ hact => arrives_keeps H r n hact h0
  cases c with
  | powerOn => exact ⟨_, rfl, initialised_keeps R hreset s⟩
  | supervisorFrame bytes => exact ⟨_, rfl, supervisorBytes_keeps H bytes h0⟩
  | frameSent => exact ⟨_, rfl, completeFrame_keeps H h0⟩
  | configureChannel n p => exact ⟨_, rfl, request (.configureChannel p) n fun _ => rfl⟩
  | configureStand n p => exact ⟨_, rfl, request (.configureStand p) n fun _ => rfl⟩
  | configureLine n p => exact ⟨_, rfl, request (.configureLine p) n fun _ => rfl⟩
  | commitConfig n => exact ⟨_, rfl, request .commitConfig n fun _ => rfl⟩
  | configOpen n => exact ⟨_, rfl, request .configOpen n fun _ => rfl⟩
  | thread n => exact ⟨_, rfl, request .thread n fun _ => rfl⟩
  | run n => exact ⟨_, rfl, request .run n fun _ => rfl⟩
  | stop n => exact ⟨_, rfl, request .stop n fun _ => rfl⟩
  | tripReset n => exact ⟨_, rfl, request .tripReset n fun _ => rfl⟩
  | restart n => exact ⟨_, rfl, request .restart n fun _ => rfl⟩
  | scheduleLoadNow n p => exact ⟨_, rfl, request (.scheduleLoad 0 p) n fun _ => rfl⟩
  | scheduleLoadAtWeld n p => exact ⟨_, rfl, request (.scheduleLoad 1 p) n fun _ => rfl⟩
  | scheduleWithdraw n tag => exact ⟨_, rfl, request (.scheduleWithdraw tag) n fun _ => rfl⟩
  | scheduleQuery n tag => exact ⟨_, rfl, request (.scheduleQuery tag) n fun _ => rfl⟩
  | faultPolicy n k e v => exact ⟨_, rfl, request (.faultPolicy k e v) n fun _ => rfl⟩
  | faultClear n ks => exact ⟨_, rfl, request (.faultClear ks) n fun _ => rfl⟩
  | countReset n ks => exact ⟨_, rfl, request (.countReset ks) n fun _ => rfl⟩
  | faultQuery n k => exact ⟨_, rfl, request (.faultQuery k) n fun _ => rfl⟩
  | segmentQuery n sel a => exact ⟨_, rfl, request (.segmentQuery sel a) n fun _ => rfl⟩
  | segmentMarkSet n f c m => exact ⟨_, rfl, request (.segmentMark f c 0 m) n fun _ => rfl⟩
  | segmentMarkClear n f c m => exact ⟨_, rfl, request (.segmentMark f c 1 m) n fun _ => rfl⟩
  | channelRead n e => exact ⟨_, rfl, request (.channelRead e) n fun _ => rfl⟩
  | linkStatus n l => exact ⟨_, rfl, request (.linkStatus l) n fun _ => rfl⟩
  | retrain n l => exact ⟨_, rfl, request (.linkControl l 0) n fun _ => rfl⟩
  | disable n l => exact ⟨_, rfl, request (.linkControl l 1) n fun _ => rfl⟩
  | enable n l => exact ⟨_, rfl, request (.linkControl l 2) n fun _ => rfl⟩
  | clearCounters n l => exact ⟨_, rfl, request (.linkControl l 3) n fun _ => rfl⟩
  | logRead n g f c => exact ⟨_, rfl, request (.logRead g f c) n fun _ => rfl⟩
  | logWrite n g text => exact ⟨_, rfl, request (.logWrite g text) n fun _ => rfl⟩
  | logClear n g => exact ⟨_, rfl, request (.logClear g) n fun _ => rfl⟩
  | status n => exact ⟨_, rfl, request .status n fun _ => rfl⟩
  | identify n => exact ⟨_, rfl, request .identify n fun _ => rfl⟩
  | sensorFrame l bytes o => exact ⟨_, rfl, sensorBytes_keeps F l bytes o h0⟩
  | frameTimerExpiry l => exact ⟨_, rfl, frameTimerExpires_keeps R l h0⟩
  | staleExpiry e => exact ⟨_, rfl, staleExpires_keeps S e h0⟩
  | invalidExpiry e => exact ⟨_, rfl, invalidExpires_keeps R e h0⟩
  | weldDetect => exact ⟨_, rfl, H.weld h0⟩
  | unloadTimerExpiry k => exact ⟨_, rfl, unloadTimerExpires_keeps R k h0⟩
  | ack k _ => exact ⟨_, rfl, actuatorBytes_keeps R k _ h0⟩
  | faultStatus k _ => exact ⟨_, rfl, actuatorBytes_keeps R k _ h0⟩
  | openConfirmed k => exact ⟨_, rfl, actuatorBytes_keeps R k _ h0⟩
  | actuatorBadFrame k _ => exact ⟨_, rfl, actuatorBytes_keeps R k _ h0⟩
  | replyTimerExpiry k => exact ⟨_, rfl, replyTimerExpires_keeps R k h0⟩
  | keepAlive k => exact ⟨_, rfl, keepsAlive_keeps S k h0⟩
  | positioningTimerExpiry k => exact ⟨_, rfl, positioningTimerExpires_keeps R k h0⟩
  | openTimerExpiry => exact ⟨_, rfl, openTimersExpire_keeps R h0⟩
  | externalStopAsserted => exact ⟨_, rfl, stopAsserted_keeps R h0⟩
  | externalStopReleased => exact ⟨_, rfl, stopReleased_keeps S h0⟩
  | breakTimerExpiry j => exact ⟨_, rfl, breakTimerExpires_keeps R j h0⟩

/-- A step is a tick or the command at the front of the queue, and either keeps the predicate. -/
theorem step_keeps (H : Serves P) (hreset : P State.reset) {s t : State} (h : P s) (hs : step s = .next t) : P t := by
  unfold step at hs
  split at hs
  · cases hs
    exact idle_keeps H h
  · rename_i c rest _
    obtain ⟨u, hu, hP⟩ := exec_keeps H hreset c (H.steady.same (t := { s with pending := rest }) h rfl)
    cases hu.symm.trans hs
    exact hP

/-! ### The stop outputs and HARD_STOP (R3) -/

/-- R3: stop outputs are asserted in CONFIG and in TRIPPED, and in no other mode. -/
theorem stopsAsserted_iff (m : Mode) : stopsAsserted m = true ↔ m = .config ∨ m = .tripped := by
  simp [stopsAsserted]

/-- After reset no kind is latched or active, and the fixed kinds have their policy. -/
theorem reset_control : ControlInv State.reset where
  outputs := ⟨rfl, rfl, by decide, by decide, by decide⟩
  latches := ⟨by decide, by decide, by decide, by decide⟩

theorem step_control {s t : State} (h : ControlInv s) (hs : step s = .next t) : ControlInv t :=
  step_keeps control_serves reset_control h hs

theorem OutputsFollow.millStop_iff {s : State} (h : OutputsFollow s) :
    s.millStop = true ↔ s.mode = .config ∨ s.mode = .tripped := by
  rw [h.millStop, stopsAsserted_iff]

theorem OutputsFollow.standTrip_iff {s : State} (h : OutputsFollow s) (k : Stand) :
    s.standTrip[k] = true ↔ s.mode = .config ∨ s.mode = .tripped := by
  have hk : s.standTrip[k] = stopsAsserted s.mode := by simp [h.standTrip]
  rw [hk, stopsAsserted_iff]

/-- Settles O5: the invariants on mode, outputs, trip state and fault table survive the step, and the outputs are read off the
state after it. -/
theorem stopOutputsFollowMode : Obligations.StopOutputsFollowMode := by
  intro s t h hs
  have ht : OutputsFollow t := (step_control h hs).outputs
  exact ⟨ht.millStop_iff, ht.standTrip_iff, ht.hardStop⟩

end Sys2Proof.Machine

/-! SUPPORT. The requests on the fault table (R145 to R147): what each does to the policies and entries, and what it leaves.
A request that arrives at a free port (R181, R182) is taken at once: its answer is that of its own rule on the received
state. -/

namespace Sys2Proof.Machine

/-! ### A request at a free port (R181) -/

/-- R185: at a port with no reply to send, a free transmitter can only begin a notice. -/
theorem beginNext_not_busy {p : Port} (h : p.busy = false) : p.beginNext.busy = false := by
  unfold Port.beginNext
  cases hsend : p.sending with
  | some f => exact h
  | none =>
    have hw : p.waiting = none := by simpa [Port.busy, hsend] using h
    unfold Port.beginNotice
    cases p.notices <;> simp [Port.busy, hw, hsend]

theorem PortFree.stepStart {s : State} (h : PortFree s) : PortFree s.stepStart :=
  ⟨beginNext_not_busy h.1, (beginNext_queue s.port).trans h.2⟩

/-- R181: the request's own rule answers, and the reply waits. -/
theorem arrives_of_portFree {s t : State} {r : Request} {n : Byte} {act : State → Answer × State} {a : Answer}
    (hfree : PortFree s) (hact : act s.received = (a, t)) :
    arrives r n act s.stepStart = t.replying (replyType (requestType r)) n a.code a.fields := by
  have hpass : ¬ (s.stepStart.port.busy = true ∨ s.stepStart.port.queue ≠ []) := by
    obtain ⟨hbusy, hqueue⟩ := hfree.stepStart
    simp only [hbusy, hqueue, Bool.false_eq_true, ne_eq, not_true_eq_false, or_self, not_false_eq_true]
  have hreply : arrives r n act s.stepStart = reply (requestType r) n (act s.received) := if_neg hpass
  rw [hreply, hact]
  rfl

/-! ### FAULT_POLICY (R145) -/

theorem fixedKind_iff (k : Kind) : fixedKind k = true ↔ k = 0 ∨ k = 3 ∨ k = 16 := by
  simp [fixedKind, or_assoc]

theorem kindOf_val {b : Byte} {k : Kind} (h : b.toNat = k.val) : kindOf b = some k := by
  simp [kindOf, h]

theorem kindOf_above {b : Byte} (h : 21 < b.toNat) : kindOf b = none := dif_neg (by omega)

theorem severityOf_valid {b : Byte} (h : b = 0 ∨ b = 1) : severityOf b = some (b == 1) := by
  rcases h with rfl | rfl <;> rfl

theorem severityOf_invalid {b : Byte} (h : b ≠ 0 ∧ b ≠ 1) : severityOf b = none :=
  (if_neg h.1).trans (if_neg h.2)

theorem doFaultPolicy_badValue {kind severity : Byte} (enable : Bool) (s : State)
    (h : 21 < kind.toNat ∨ (severity ≠ 0 ∧ severity ≠ 1)) :
    doFaultPolicy kind enable severity s = (refuse .badValue, s) := by
  unfold doFaultPolicy
  rcases h with hk | hv
  · rw [kindOf_above hk]
  · rw [severityOf_invalid hv]
    cases kindOf kind <;> rfl

/-- Section 11.3.9: the policy byte of the policy just written, from the bytes of the request. -/
theorem policyByte_setPolicy (s : State) (k : Kind) (enable : Bool) {severity : Byte} (h : severity = 0 ∨ severity = 1) :
    policyByte (s.setPolicy k ⟨enable, severity == 1⟩) k =
      [BitVec.ofNat 8 (enable.toNat + 2 * severity.toNat + 4 * (if k = 0 ∨ k = 3 ∨ k = 16 then 1 else 0))] := by
  have hp : (s.setPolicy k ⟨enable, severity == 1⟩).policy[k] = ⟨enable, severity == 1⟩ := by simp [State.setPolicy]
  have hv : (severity == 1).toNat = severity.toNat := by rcases h with rfl | rfl <;> rfl
  have hf : (fixedKind k).toNat = if k = 0 ∨ k = 3 ∨ k = 16 then 1 else 0 := by
    simp only [Bool.toNat, cond_eq_ite, fixedKind_iff]
  simp only [policyByte, policyNum, nat8, hp, hv, hf]

section ValidPolicy

variable {kind severity : Byte} {k : Kind} (enable : Bool) {s : State}

/-- R145: the three checks on a kind and a severity that exist. -/
theorem doFaultPolicy_valid (hk : kind.toNat = k.val) (hv : severity = 0 ∨ severity = 1) :
    doFaultPolicy kind enable severity s =
      if fixedKind k ∧ (⟨enable, severity == 1⟩ : Policy) ≠ s.policy[k] then (refuse .policyFixed, s)
      else if s.faults[k].latched ∧ (⟨enable, severity == 1⟩ : Policy) ≠ s.policy[k] then (⟨.latched, [kind]⟩, s)
      else (okWith (kind :: policyByte (s.setPolicy k ⟨enable, severity == 1⟩) k), s.setPolicy k ⟨enable, severity == 1⟩) := by
  have hb : nat8 k.val = [kind] := by simp [nat8, ← hk]
  simp only [doFaultPolicy, kindOf_val hk, severityOf_valid hv, hb]
  rfl

theorem doFaultPolicy_fixed (hk : kind.toNat = k.val) (hv : severity = 0 ∨ severity = 1) (hfix : k = 0 ∨ k = 3 ∨ k = 16)
    (hne : s.policy[k] ≠ ⟨enable, severity == 1⟩) :
    doFaultPolicy kind enable severity s = (refuse .policyFixed, s) := by
  rw [doFaultPolicy_valid enable hk hv, if_pos ⟨(fixedKind_iff k).2 hfix, hne.symm⟩]

theorem doFaultPolicy_latched (hk : kind.toNat = k.val) (hv : severity = 0 ∨ severity = 1)
    (hfix : ¬ (k = 0 ∨ k = 3 ∨ k = 16)) (hl : s.faults[k].latched = true) (hne : s.policy[k] ≠ ⟨enable, severity == 1⟩) :
    doFaultPolicy kind enable severity s = (⟨.latched, [kind]⟩, s) := by
  rw [doFaultPolicy_valid enable hk hv, if_neg (fun h => hfix ((fixedKind_iff k).1 h.1)), if_pos ⟨hl, hne.symm⟩]

theorem doFaultPolicy_replaced (hk : kind.toNat = k.val) (hv : severity = 0 ∨ severity = 1)
    (h : s.policy[k] = ⟨enable, severity == 1⟩ ∨ (¬ (k = 0 ∨ k = 3 ∨ k = 16) ∧ s.faults[k].latched = false)) :
    doFaultPolicy kind enable severity s =
      (okWith [kind, BitVec.ofNat 8 (enable.toNat + 2 * severity.toNat + 4 * (if k = 0 ∨ k = 3 ∨ k = 16 then 1 else 0))],
        s.setPolicy k ⟨enable, severity == 1⟩) := by
  rw [doFaultPolicy_valid enable hk hv, policyByte_setPolicy s k enable hv]
  rcases h with heq | ⟨hfix, hl⟩
  · rw [if_neg (fun h => h.2 heq.symm), if_neg (fun h => h.2 heq.symm)]
  · rw [if_neg (fun h => hfix ((fixedKind_iff k).1 h.1)), if_neg (fun h => Bool.eq_false_iff.1 hl h.1)]

end ValidPolicy

theorem exec_faultPolicy {n kind severity : Byte} {enable : Bool} {s t : State} {a : Answer} (hfree : PortFree s)
    (h : doFaultPolicy kind enable severity s.received = (a, t)) :
    exec (.faultPolicy n kind enable severity) s = .next (t.replying 0x4E n a.code a.fields) :=
  congrArg Host.Outcome.next (arrives_of_portFree (r := .faultPolicy kind enable severity) hfree h)

/-- Settles O28: one equation of `doFaultPolicy` for each case of R145, at a free port. -/
theorem faultPolicySet : Obligations.FaultPolicySet := by
  intro n kind enable severity s hfree
  refine ⟨fun hbad => exec_faultPolicy hfree (doFaultPolicy_badValue enable _ hbad), fun k hk hv => ⟨?_, ?_, ?_⟩⟩
  · intro hfix hne
    exact exec_faultPolicy hfree (doFaultPolicy_fixed enable hk hv hfix hne)
  · rintro ⟨h0, h3, h16⟩ hl hne
    exact exec_faultPolicy hfree (doFaultPolicy_latched enable hk hv (by simp [h0, h3, h16]) hl hne)
  · intro h
    refine exec_faultPolicy hfree (doFaultPolicy_replaced enable hk hv (h.imp_right ?_))
    rintro ⟨h0, h3, h16, hl⟩
    exact ⟨by simp [h0, h3, h16], hl⟩

/-! ### Editing the listed entries of the fault table (R146, R147) -/

/-- What FAULT_CLEAR and COUNT_RESET have in common: the entry of each kind of `l` that the set names is edited. -/
def State.editFaults (s : State) (ks : BitVec 24) (f : FaultEntry → FaultEntry) (l : List Kind) : State :=
  l.foldl (fun (s : State) (k : Kind) => if names ks k then s.setFault k (f s.faults[k]) else s) s

theorem clearKinds_eq (ks : BitVec 24) (s : State) :
    clearKinds ks s = s.editFaults ks FaultEntry.cleared (List.finRange 22) := rfl

theorem resetCounts_eq (ks : BitVec 24) (s : State) :
    resetCounts ks s = s.editFaults ks (fun e => { e with count := 0 }) (List.finRange 22) := rfl

theorem editFaults_frame (ks : BitVec 24) (f : FaultEntry → FaultEntry) (l : List Kind) (s : State) :
    { s.editFaults ks f l with faults := s.faults } = s := by
  refine foldl_keeps (P := fun u => { u with faults := s.faults } = s) (fun u k h => ?_) l rfl
  split <;> exact h

/-- Each kind stands in the list at most once, so its entry is edited at most once. -/
theorem editFaults_at (ks : BitVec 24) (f : FaultEntry → FaultEntry) (k : Kind) {l : List Kind} (hl : l.Nodup) (s : State) :
    (s.editFaults ks f l).faults[k] = if k ∈ l ∧ names ks k = true then f s.faults[k] else s.faults[k] := by
  induction l generalizing s with
  | nil => simp [State.editFaults]
  | cons j l ih =>
    obtain ⟨hj, hl⟩ := List.nodup_cons.1 hl
    refine (ih hl _).trans ?_
    by_cases hjk : j = k
    · subst hjk
      by_cases hn : names ks j = true <;> simp [hj, hn]
    · have hkj : k ≠ j := Ne.symm hjk
      by_cases hn : names ks j = true <;> simp only [hn, if_true, Bool.false_eq_true, if_false, setFault_at, hjk,
        List.mem_cons, hkj, false_or]

theorem clearKinds_frame (ks : BitVec 24) (s : State) : { clearKinds ks s with faults := s.faults } = s := by
  rw [clearKinds_eq]
  exact editFaults_frame ks _ _ s

theorem clearKinds_at (ks : BitVec 24) (s : State) (k : Kind) :
    (clearKinds ks s).faults[k] = if names ks k = true then s.faults[k].cleared else s.faults[k] := by
  rw [clearKinds_eq, editFaults_at ks _ k (List.nodup_finRange 22)]
  simp

theorem resetCounts_at (ks : BitVec 24) (s : State) (k : Kind) :
    (resetCounts ks s).faults[k] = { s.faults[k] with count := if names ks k = true then 0 else s.faults[k].count } := by
  rw [resetCounts_eq, editFaults_at ks _ k (List.nodup_finRange 22)]
  by_cases hn : names ks k = true <;> simp [hn]

theorem resetCounts_frame (ks : BitVec 24) (s : State) : { resetCounts ks s with faults := s.faults } = s := by
  rw [resetCounts_eq]
  exact editFaults_frame ks _ _ s

theorem namesUnknown_iff (ks : BitVec 24) : namesUnknown ks = true ↔ ks.getLsbD 22 = true ∨ ks.getLsbD 23 = true := by
  simp only [namesUnknown, Bool.or_eq_true]

theorem namesUnknown_false {ks : BitVec 24} (h22 : ks.getLsbD 22 = false) (h23 : ks.getLsbD 23 = false) :
    namesUnknown ks = false := by
  simp only [namesUnknown, h22, h23, Bool.or_self]

/-! ### FAULT_CLEAR (R146) -/

/-- A cleared entry keeps its latch only where a location is active. -/
theorem cleared_latched (e : FaultEntry) : e.cleared.latched = (e.latched && !e.active.isEmpty) := by
  unfold FaultEntry.cleared
  split
  · next h => simp [h.2]
  · next h =>
    cases hl : e.latched
    · rfl
    · simpa [hl] using h

@[simp] theorem clearFirstOut_faults (ks : BitVec 24) (s : State) : (clearFirstOut ks s).faults = s.faults := by
  unfold clearFirstOut
  split
  · split <;> rfl
  · rfl

theorem clearFirstOut_frame (ks : BitVec 24) (fs : Vector FaultEntry 22) (o : Option FirstOut) (s : State) :
    { clearFirstOut ks s with faults := fs, firstOut := o } = { s with faults := fs, firstOut := o } := by
  unfold clearFirstOut
  split
  · split <;> rfl
  · rfl

theorem clearFirstOut_some {s : State} {f : FirstOut} (h : s.firstOut = some f) (ks : BitVec 24) :
    (clearFirstOut ks s).firstOut =
      if s.trip = .normal ∧ names ks f.kind ∧ ¬ s.faults[f.kind].latched then none else some f := by
  simp only [clearFirstOut, h]
  split
  · rfl
  · exact h

theorem clearFirstOut_none {s : State} (h : s.firstOut = none) (ks : BitVec 24) : (clearFirstOut ks s).firstOut = none := by
  simp only [clearFirstOut, h]

/-- R146: the state after FAULT_CLEAR of known kinds. -/
def State.faultsCleared (s : State) (ks : BitVec 24) : State := clearFirstOut ks (clearKinds ks s)

theorem faultsCleared_at (ks : BitVec 24) (s : State) (k : Kind) :
    (s.faultsCleared ks).faults[k] = if names ks k = true then s.faults[k].cleared else s.faults[k] := by
  simp only [State.faultsCleared, clearFirstOut_faults, clearKinds_at]

theorem faultsCleared_frame (ks : BitVec 24) (s : State) :
    { s.faultsCleared ks with faults := s.faults, firstOut := s.firstOut } = s := by
  refine (clearFirstOut_frame ks _ _ _).trans ?_
  exact congrArg (fun u : State => { u with firstOut := s.firstOut }) (clearKinds_frame ks s)

theorem faultsCleared_firstOut (ks : BitVec 24) (s : State) :
    (s.faultsCleared ks).firstOut = match s.firstOut with
      | some f => if s.trip = .normal ∧ names ks f.kind ∧ (s.faultsCleared ks).faults[f.kind].latched = false then none
        else some f
      | none => none := by
  have hfirst : (clearKinds ks s).firstOut = s.firstOut := (congrArg State.firstOut (clearKinds_frame ks s) :)
  have htrip : (clearKinds ks s).trip = s.trip := (congrArg State.trip (clearKinds_frame ks s) :)
  cases hs : s.firstOut with
  | none => exact clearFirstOut_none (hfirst.trans hs) ks
  | some f =>
    refine (clearFirstOut_some (hfirst.trans hs) ks).trans ?_
    simp only [State.faultsCleared, clearFirstOut_faults, htrip, Bool.not_eq_true]

theorem doFaultClear_known {ks : BitVec 24} (h : namesUnknown ks = false) (s : State) :
    doFaultClear ks s =
      (okWith (kindSet (fun k => ks.getLsbD k.val && (s.faults[k].latched && !s.faults[k].active.isEmpty)) ++
        kindSet (fun k => (s.faultsCleared ks).faults[k].latched)), s.faultsCleared ks) := by
  have hstayed : (fun k => names ks k && (s.faultsCleared ks).faults[k].latched) =
      fun k : Kind => ks.getLsbD k.val && (s.faults[k].latched && !s.faults[k].active.isEmpty) := by
    funext k
    rw [faultsCleared_at]
    by_cases hn : names ks k = true
    · rw [if_pos hn, cleared_latched]; rfl
    · have hb : ks.getLsbD k.val = false := Bool.eq_false_iff.2 hn
      simp [names, hb]
  rw [← hstayed]
  simp only [doFaultClear, h]
  rfl

theorem exec_faultClear {n : Byte} {ks : BitVec 24} {s t : State} {a : Answer} (hfree : PortFree s)
    (h : doFaultClear ks s.received = (a, t)) : exec (.faultClear n ks) s = .next (t.replying 0x4F n a.code a.fields) :=
  congrArg Host.Outcome.next (arrives_of_portFree (r := .faultClear ks) hfree h)

/-! ### COUNT_RESET (R147) -/

theorem exec_countReset {n : Byte} {ks : BitVec 24} {s t : State} {a : Answer} (hfree : PortFree s)
    (h : doCountReset ks s.received = (a, t)) : exec (.countReset n ks) s = .next (t.replying 0x50 n a.code a.fields) :=
  congrArg Host.Outcome.next (arrives_of_portFree (r := .countReset ks) hfree h)

/-- Settles O29: both requests edit the listed entries one by one and leave the rest; a set with bit 22 or 23 is refused. -/
theorem latchesAndCountsCleared : Obligations.LatchesAndCountsCleared := by
  refine ⟨fun n ks s hfree => ⟨fun hbad => ?_, fun h22 h23 => ?_⟩, fun n ks s hfree => ⟨fun hbad => ?_, fun h22 h23 => ?_⟩⟩
  · exact exec_faultClear hfree (if_pos ((namesUnknown_iff ks).2 hbad))
  · have hknown := namesUnknown_false h22 h23
    refine ⟨s.received.faultsCleared ks, exec_faultClear hfree (doFaultClear_known hknown _), fun k => ?_,
      faultsCleared_firstOut ks s.received, faultsCleared_frame ks s.received⟩
    rw [faultsCleared_at]
    exact (ite_and ..).symm
  · exact exec_countReset hfree (if_pos ((namesUnknown_iff ks).2 hbad))
  · have hknown := Bool.eq_false_iff.1 (namesUnknown_false h22 h23)
    exact ⟨resetCounts ks s.received, exec_countReset hfree (if_neg hknown), resetCounts_at ks s.received,
      resetCounts_frame ks s.received⟩

end Sys2Proof.Machine

/-! SUPPORT. LOG_WRITE and LOG_CLEAR (R176, R177): one equation for each outcome, and their replies at a free port. -/

namespace Sys2Proof.Machine

/-! ### LOG_WRITE (R176) -/

theorem doLogWrite_above {log : Byte} (h : 5 < log.toNat) (text : List Byte) (s : State) :
    doLogWrite log text s = (refuse .badValue, s) := if_pos h

theorem doLogWrite_readOnly {log : Byte} (h : log.toNat < 5) (text : List Byte) (s : State) :
    doLogWrite log text s = (refuse .readOnly, s) :=
  (if_neg (by omega)).trans (if_pos h)

/-- R176: of a write to log 5 only the length of the text is checked. -/
theorem doLogWrite_five (text : List Byte) (s : State) :
    doLogWrite 5 text s =
      if 1 ≤ text.length ∧ text.length ≤ 32 then
        (okWith (bytes32 s.logs[LogNo.note].next ++ bytes32 s.logTime), s.append LogNo.note (.note text))
      else (refuse .badValue, s) := rfl

theorem doLogWrite_badText {text : List Byte} (h : text = [] ∨ 32 < text.length) (s : State) :
    doLogWrite 5 text s = (refuse .badValue, s) := by
  have hbad : ¬ (1 ≤ text.length ∧ text.length ≤ 32) := by
    rcases h with rfl | hlong
    · exact fun hlen => absurd hlen.1 (Nat.not_succ_le_zero 0)
    · exact fun hlen => absurd hlen.2 (Nat.not_le.2 hlong)
  rw [doLogWrite_five, if_neg hbad]

theorem doLogWrite_note {text : List Byte} (hmin : 1 ≤ text.length) (hmax : text.length ≤ 32) (s : State) :
    doLogWrite 5 text s =
      (okWith (bytes32 s.logs[LogNo.note].next ++ bytes32 s.logTime), s.append LogNo.note (.note text)) := by
  rw [doLogWrite_five, if_pos ⟨hmin, hmax⟩]

theorem exec_logWrite {n log : Byte} {text : List Byte} {s t : State} {a : Answer} (hfree : PortFree s)
    (h : doLogWrite log text s.received = (a, t)) :
    exec (.logWrite n log text) s = .next (t.replying 0x58 n a.code a.fields) :=
  congrArg Host.Outcome.next (arrives_of_portFree (r := .logWrite log text) hfree h)

/-! ### LOG_CLEAR (R177) -/

theorem logNoOf_val {b : Byte} {g : LogNo} (h : b.toNat = g.val + 1) : logNoOf b = some g := by
  have hrange : 1 ≤ b.toNat ∧ b.toNat ≤ 5 := by omega
  rw [logNoOf, dif_pos hrange]
  exact congrArg some (Fin.ext (by simp [h]))

theorem logNoOf_above {b : Byte} (h : 5 < b.toNat) : logNoOf b = none := dif_neg (by omega)

theorem doLogClear_zero (s : State) : doLogClear 0 s = (refuse .readOnly, s) := rfl

theorem doLogClear_above {log : Byte} (h : 5 < log.toNat) (s : State) : doLogClear log s = (refuse .badValue, s) := by
  have hzero : log ≠ 0 := by rintro rfl; exact absurd h (by decide)
  rw [doLogClear, if_neg hzero, logNoOf_above h]

/-- R177: the entries go, the sequence counter stays. -/
theorem doLogClear_log {log : Byte} {g : LogNo} (h : log.toNat = g.val + 1) (s : State) :
    doLogClear log s =
      (okWith (nat8 s.logs[g].entries.length ++ bytes32 s.logs[g].next), s.setLog g ⟨[], s.logs[g].next⟩) := by
  have hzero : log ≠ 0 := by rintro rfl; exact absurd h.symm (Nat.succ_ne_zero _)
  rw [doLogClear, if_neg hzero, logNoOf_val h]

theorem exec_logClear {n log : Byte} {s t : State} {a : Answer} (hfree : PortFree s)
    (h : doLogClear log s.received = (a, t)) :
    exec (.logClear n log) s = .next (t.replying 0x59 n a.code a.fields) :=
  congrArg Host.Outcome.next (arrives_of_portFree (r := .logClear log) hfree h)

/-- Settles O37: one equation of `doLogWrite` or `doLogClear` for each case, at a free port; a received frame changes
neither the logs nor the log timestamp. -/
theorem noteWrittenAndLogCleared : Obligations.NoteWrittenAndLogCleared := by
  refine ⟨fun n log text s hfree => ⟨fun habove => ?_, fun hbelow => ?_, ?_, ?_⟩,
    fun n log s hfree => ⟨fun habove => ?_, ?_, fun g hg => ?_⟩⟩
  · exact exec_logWrite hfree (doLogWrite_above habove text _)
  · exact exec_logWrite hfree (doLogWrite_readOnly hbelow text _)
  · rintro rfl hbad
    exact exec_logWrite hfree (doLogWrite_badText hbad _)
  · rintro rfl hmin hmax
    exact exec_logWrite hfree (doLogWrite_note hmin hmax _)
  · exact exec_logClear hfree (doLogClear_above habove _)
  · exact exec_logClear hfree (doLogClear_zero _)
  · exact exec_logClear hfree (doLogClear_log hg _)

end Sys2Proof.Machine

/-! SUPPORT. IDENTIFY (R190): the bytes of its fields, and its reply at a free port. -/

namespace Sys2Proof.Machine

/-- Section 11.3.9: part code 0x7C06 and every 16-bit capacity stand low byte first (R192). -/
theorem identityFields_bytes : identityFields =
    [0x06, 0x7C, 1, 0, 8, 4, 32, 6, 6, 0, 1, 8, 3, 2, 32, 4, 22, 128, 64, 16, 32, 32, 4, 32, 240] := by decide

theorem doIdentify_eq (s : State) : doIdentify s = (okWith identityFields, s) := rfl

theorem exec_identify {n : Byte} {s : State} (hfree : PortFree s) :
    exec (.identify n) s = .next (s.received.replying 0x5B n .ok identityFields) :=
  congrArg Host.Outcome.next (arrives_of_portFree (r := .identify) hfree (doIdentify_eq s.received))

/-- Settles O31: at a free port the answer is taken from the fields alone, whose bytes are those of the table; no mode and no
other part of the state is looked at. -/
theorem identifyAnswers : Obligations.IdentifyAnswers := by
  intro n s hfree
  rw [exec_identify hfree, identityFields_bytes]

end Sys2Proof.Machine

/-! SUPPORT. What holds of every step: it has a next state, it runs the command at the front of the queue, and it keeps the
invariants of Safety.lean, which hold after reset. -/

namespace Sys2Proof.Machine

/-! ### Every command runs -/

/-- No arm of `exec` faults or refuses. -/
theorem exec_next (c : Instr) (s : State) : ∃ t, exec c s = .next t := by
  cases c <;> exact ⟨_, rfl⟩

/-- Settles O1: a queue that is not empty is taken apart by `step` itself. -/
theorem stepTakesFront : Obligations.StepTakesFront := fun _ _ _ => rfl

/-- Settles O3: a step is a tick or a command, and every arm of `exec` has a next state. -/
theorem everyCommandRuns : Obligations.EveryCommandRuns := by
  refine ⟨exec_next, fun s => ?_⟩
  unfold step
  split
  · exact ⟨_, rfl⟩
  · exact exec_next _ _

/-! ### The invariants -/

/-- R170: after reset every log is empty. -/
theorem reset_logs : LogsInOrder State.reset := by
  intro g
  have hg : State.reset.logs[g] = Log.empty := by simp [State.reset]
  rw [hg]
  exact Log.InOrder.empty 0 _

/-- After reset every list is empty but the notice queue, which holds one notice. -/
theorem reset_bounded : Bounded State.reset where
  bare := ⟨by decide, by decide, by decide, .inl rfl, by decide, by decide⟩
  untracked := fun _ => ⟨rfl, rfl, rfl, by decide⟩
  unscheduled := fun _ => ⟨rfl, rfl⟩

theorem reset_portFits : PortFits State.reset := ⟨by decide, by decide⟩

/-- Settles O6: `control_serves` has it of every operation. -/
theorem controlInvariantKept : Obligations.ControlInvariantKept := fun _ _ h hs => step_control h hs

/-- Settles O7: the order of the logs depends on the logs alone, and appending and clearing keep it. -/
theorem logsStayInOrder : Obligations.LogsStayInOrder := fun _ _ h hs => step_keeps logs_loose.serves reset_logs h hs

/-- Settles O8: the capacities of the port are kept apart from those of tracking, which need the mode beside them. -/
theorem capacitiesHold : Obligations.CapacitiesHold := by
  intro s t h hs
  obtain ⟨hbounded, hport⟩ := (withinCapacity_iff s).1 h
  exact (withinCapacity_iff t).2
    ⟨step_keeps bounded_serves reset_bounded hbounded hs, step_keeps portFits_loose.serves reset_portFits hport hs⟩

/-- Settles O9: each of the invariants is read off the values at reset. -/
theorem invariantsAtReset : Obligations.InvariantsAtReset :=
  ⟨reset_control, reset_logs, (withinCapacity_iff State.reset).2 ⟨reset_bounded, reset_portFits⟩⟩

end Sys2Proof.Machine

/-! SUPPORT. Payloads and frames in both directions (sections 11.2 and 11.3.8): every field is read back from its bytes, every
request from its payload, and the receivers' hunts find a frame that stands at the front of what they hold. -/

namespace Sys2Proof.Machine

/-! ### Fields (R192) -/

/-- Bytes that follow one another in a field are a longer piece of it. -/
theorem append_low_bytes {w : Nat} (x : BitVec w) (i : Nat) :
    x.extractLsb' i 8 ++ x.extractLsb' 0 i = x.extractLsb' 0 (8 + i) := by
  simpa using BitVec.extractLsb'_append_extractLsb'_eq_extractLsb' (x := x) (start₁ := 0) (len₁ := i) (start₂ := i) (len₂ := 8)
    (Nat.zero_add i).symm

theorem word16_bytes (x : BitVec 16) : word16 (x.extractLsb' 0 8) (x.extractLsb' 8 8) = x :=
  (append_low_bytes x 8).trans (BitVec.extractLsb'_eq_self)

theorem word24_bytes (x : BitVec 24) :
    word24 (x.extractLsb' 0 8) (x.extractLsb' 8 8) (x.extractLsb' 16 8) = x := by
  have h := append_low_bytes x 8
  have h2 := append_low_bytes x 16
  unfold word24
  refine Eq.trans ?_ (h2.trans BitVec.extractLsb'_eq_self)
  exact congrArg (x.extractLsb' 16 8 ++ ·) h

theorem word32_bytes (x : BitVec 32) :
    word32 (x.extractLsb' 0 8) (x.extractLsb' 8 8) (x.extractLsb' 16 8) (x.extractLsb' 24 8) = x :=
  calc word32 (x.extractLsb' 0 8) (x.extractLsb' 8 8) (x.extractLsb' 16 8) (x.extractLsb' 24 8)
      = x.extractLsb' 24 8 ++ (x.extractLsb' 16 8 ++ x.extractLsb' 0 16) :=
        congrArg (fun y => x.extractLsb' 24 8 ++ (x.extractLsb' 16 8 ++ y)) (append_low_bytes x 8)
    _ = x.extractLsb' 24 8 ++ x.extractLsb' 0 24 := congrArg (x.extractLsb' 24 8 ++ ·) (append_low_bytes x 16)
    _ = x := (append_low_bytes x 24).trans BitVec.extractLsb'_eq_self

theorem flag8_bit (b : Bool) : (byteAt (flag8 b) 0).getLsbD 0 = b := by cases b <;> rfl

/-! ### Request payloads (section 11.3.8) -/

theorem standAt_standBytes (p : StandPayload) : standAt (standBytes p) = p := by
  cases p
  simp only [standAt, StandPayload.mk.injEq]
  exact ⟨rfl, word16_bytes _, word32_bytes _, word32_bytes _, word16_bytes _, word16_bytes _, rfl, word16_bytes _,
    word16_bytes _, rfl, word16_bytes _, word16_bytes _, word32_bytes _, rfl, rfl, word16_bytes _, word32_bytes _⟩

theorem lineAt_lineBytes (p : LinePayload) : lineAt (lineBytes p) = p := by
  cases p
  simp only [lineAt, LinePayload.mk.injEq]
  exact ⟨word32_bytes _, word16_bytes _, word16_bytes _, word16_bytes _, rfl, word16_bytes _, rfl⟩

theorem standBlockAt_front (b : StandBlock) (l : List Byte) : standBlockAt (standBlockBytes b ++ l) 0 = b := by
  cases b
  simp only [standBlockAt, StandBlock.mk.injEq]
  exact ⟨word32_bytes _, word32_bytes _, word32_bytes _, word32_bytes _, word16_bytes _, rfl⟩

theorem standBlockAt_next (b : StandBlock) (l : List Byte) (i : Nat) :
    standBlockAt (standBlockBytes b ++ l) (i + 19) = standBlockAt l i := rfl

theorem standBlockAt_head (tag take : Byte) (h0 : BitVec 32) (l : List Byte) (i : Nat) :
    standBlockAt (tag :: take :: (bytes32 h0 ++ l)) (i + 6) = standBlockAt l i := rfl

theorem vector_six {α : Type} (v : Vector α 6) : #v[v[0], v[1], v[2], v[3], v[4], v[5]] = v := by
  ext i hi
  have h6 : i = 0 ∨ i = 1 ∨ i = 2 ∨ i = 3 ∨ i = 4 ∨ i = 5 := by omega
  rcases h6 with rfl | rfl | rfl | rfl | rfl | rfl <;> rfl

theorem scheduleAt_stands (take : Byte) (p : SchedulePayload) : (scheduleAt (scheduleBytes take p)).stands = p.stands := by
  have h0 : standBlockAt (scheduleBytes take p) (0 + 6) = p.stands[0] := by
    rw [scheduleBytes, standBlockAt_head, standBlockAt_front]
  have h1 : standBlockAt (scheduleBytes take p) (0 + 19 + 6) = p.stands[1] := by
    rw [scheduleBytes, standBlockAt_head, standBlockAt_next, standBlockAt_front]
  have h2 : standBlockAt (scheduleBytes take p) (0 + 19 + 19 + 6) = p.stands[2] := by
    rw [scheduleBytes, standBlockAt_head, standBlockAt_next, standBlockAt_next, standBlockAt_front]
  have h3 : standBlockAt (scheduleBytes take p) (0 + 19 + 19 + 19 + 6) = p.stands[3] := by
    rw [scheduleBytes, standBlockAt_head, standBlockAt_next, standBlockAt_next, standBlockAt_next, standBlockAt_front]
  have h4 : standBlockAt (scheduleBytes take p) (0 + 19 + 19 + 19 + 19 + 6) = p.stands[4] := by
    rw [scheduleBytes, standBlockAt_head, standBlockAt_next, standBlockAt_next, standBlockAt_next, standBlockAt_next,
      standBlockAt_front]
  have h5 : standBlockAt (scheduleBytes take p) (0 + 19 + 19 + 19 + 19 + 19 + 6) = p.stands[5] := by
    rw [scheduleBytes, standBlockAt_head, standBlockAt_next, standBlockAt_next, standBlockAt_next, standBlockAt_next,
      standBlockAt_next, standBlockAt_front]
  simp only [Nat.reduceAdd] at h0 h1 h2 h3 h4 h5
  simp only [scheduleAt, h0, h1, h2, h3, h4, h5, vector_six]

theorem scheduleAt_scheduleBytes (take : Byte) (p : SchedulePayload) : scheduleAt (scheduleBytes take p) = p := by
  have hstands := scheduleAt_stands take p
  cases p
  simp only [scheduleAt, SchedulePayload.mk.injEq] at hstands ⊢
  exact ⟨rfl, word32_bytes _, hstands, rfl, word16_bytes _, rfl, rfl⟩

/-- R192: the presence bytes say how long the binding and the place are. -/
theorem channelAt_channelBytes (p : ChannelPayload) : channelAt (channelBytes p) = some p := by
  have hlen : (channelTailBytes p).length = 15 := rfl
  have htail : (⟨p.entry, p.binding, p.role, p.place, byteAt (channelTailBytes p) 0, byteAt (channelTailBytes p) 1,
      (byteAt (channelTailBytes p) 2).getLsbD 0, at32 (channelTailBytes p) 3, at32 (channelTailBytes p) 7,
      at32 (channelTailBytes p) 11⟩ : ChannelPayload) = p := by
    simp only [show (byteAt (channelTailBytes p) 2).getLsbD 0 = p.signed from flag8_bit _,
      show at32 (channelTailBytes p) 3 = p.gain from word32_bytes _,
      show at32 (channelTailBytes p) 7 = p.offset from word32_bytes _,
      show at32 (channelTailBytes p) 11 = p.stale from word32_bytes _]
    rfl
  unfold channelBytes channelConfigBytes
  cases hb : p.binding <;> cases hp : p.place <;> rw [hb, hp] at htail <;>
    simp only [channelAt, optional, List.cons_append, List.nil_append, if_pos hlen, htail] <;> rfl

/-! ### Requests (R181) -/

theorem channelBytes_length (p : ChannelPayload) : (channelBytes p).length ≤ 22 := by
  have hlen : (channelTailBytes p).length = 15 := rfl
  unfold channelBytes channelConfigBytes
  cases p.binding <;> cases p.place <;> simp [optional, hlen]

theorem scheduleBytes_length (take : Byte) (p : SchedulePayload) : (scheduleBytes take p).length = 125 := rfl

/-- Every request that a frame can carry is spelled by its type and payload. -/
theorem parseRequest_payload (r : Request) (h : Fits r) : parseRequest (requestType r) (requestPayload r) = .request r := by
  have exact_of {p : List Byte} {n : Nat} {q : Request} (hlen : p.length = n) (hq : q = r) :
      exactly p n q = .request r := by rw [exactly, if_pos hlen, hq]
  cases r with
  | configureChannel p =>
    show (match channelAt (channelBytes p) with | some c => Parsed.request (.configureChannel c) | none => .malformed) = _
    rw [channelAt_channelBytes]
  | configureStand p => exact exact_of rfl (congrArg _ (standAt_standBytes p))
  | configureLine p => exact exact_of rfl (congrArg _ (lineAt_lineBytes p))
  | scheduleLoad take p => exact exact_of (scheduleBytes_length take p) (congrArg (Request.scheduleLoad take) (scheduleAt_scheduleBytes take p))
  | faultPolicy k e v => exact exact_of rfl (congrArg (fun b => Request.faultPolicy k b v) (flag8_bit e))
  | faultClear ks => exact exact_of rfl (congrArg _ (word24_bytes ks))
  | countReset ks => exact exact_of rfl (congrArg _ (word24_bytes ks))
  | segmentQuery sel arg => exact exact_of rfl (congrArg _ (word32_bytes arg))
  | segmentMark f c a m =>
    exact exact_of rfl (congrArg₂ (fun x y => Request.segmentMark x y a m) (word32_bytes f) (word16_bytes c))
  | logRead g f c => exact exact_of rfl (congrArg₂ (Request.logRead g) (word32_bytes f) (word16_bytes c))
  | logWrite g t =>
    have hfit : ([BitVec.ofNat 8 t.length] ++ t).length + 1 ≤ 240 := h
    have hbyte : t.length < 2 ^ 8 := by
      simp only [List.length_append, List.length_singleton] at hfit
      omega
    exact exact_of ((BitVec.toNat_ofNat _ _).trans (Nat.mod_eq_of_lt hbyte)).symm rfl
  | commitConfig => exact exact_of rfl rfl
  | configOpen => exact exact_of rfl rfl
  | thread => exact exact_of rfl rfl
  | run => exact exact_of rfl rfl
  | stop => exact exact_of rfl rfl
  | tripReset => exact exact_of rfl rfl
  | restart => exact exact_of rfl rfl
  | scheduleWithdraw tag => exact exact_of rfl rfl
  | scheduleQuery tag => exact exact_of rfl rfl
  | faultQuery k => exact exact_of rfl rfl
  | channelRead e => exact exact_of rfl rfl
  | linkStatus l => exact exact_of rfl rfl
  | linkControl l a => exact exact_of rfl rfl
  | logClear g => exact exact_of rfl rfl
  | status => exact exact_of rfl rfl
  | identify => exact exact_of rfl rfl

/-! ### Sensor and status frames (R19, R118, R193) -/

/-- A frame at the front is consumed whole where its CRC checks. -/
theorem huntFixed_front (sync : Byte) (body rest : List Byte) (fuel : Nat) :
    huntFixed sync (body.length + 2) (fuel + 1) (sync :: (body ++ (crc8 body :: rest))) =
      (some body :: (huntFixed sync (body.length + 2) fuel rest).1, (huntFixed sync (body.length + 2) fuel rest).2) := by
  have hlong : ¬ (body ++ (crc8 body :: rest)).length < body.length + 2 - 1 := by simp
  have htake : (body ++ (crc8 body :: rest)).take (body.length + 2 - 2) = body := by simp
  have hcrc : byteAt (body ++ (crc8 body :: rest)) (body.length + 2 - 2) = crc8 body := by simp [byteAt]
  have hdrop : (body ++ (crc8 body :: rest)).drop (body.length + 2 - 1) = rest := by
    simp [List.drop_append]
  rw [huntFixed, if_neg (not_not.2 rfl), if_neg hlong]
  simp only [htake, hcrc, hdrop, if_true]

/-- The five covered bytes of a sensor frame (section 11.2.2). -/
def sensorBody (f : SensorFields) : List Byte :=
  (f.seq ++ (BitVec.ofBool f.strip ++ (BitVec.ofBool f.headFault ++ BitVec.ofNat 2 f.slot.val)) : BitVec 8) :: bytes32 f.raw

theorem sensorFrameBytes_eq (f : SensorFields) : sensorFrameBytes f = 0xC3 :: (sensorBody f ++ [crc8 (sensorBody f)]) := rfl

/-- Section 11.2.2: where the fields stand in the first byte. -/
theorem firstByte_fields : ∀ (seq : BitVec 4) (strip headFault : Bool) (slot : BitVec 2),
    let b : BitVec 8 := seq ++ (BitVec.ofBool strip ++ (BitVec.ofBool headFault ++ slot))
    b.extractLsb' 0 2 = slot ∧ b.getLsbD 2 = headFault ∧ b.getLsbD 3 = strip ∧ b.extractLsb' 4 4 = seq := by
  decide

theorem sensorFields_sensorBody (f : SensorFields) : sensorFields (sensorBody f) = f := by
  obtain ⟨slot, headFault, strip, seq, raw⟩ := f
  obtain ⟨hslot, hhead, hstrip, hseq⟩ := firstByte_fields seq strip headFault (BitVec.ofNat 2 slot.val)
  simp only [sensorFields, SensorFields.mk.injEq]
  refine ⟨Fin.ext ((congrArg BitVec.toNat hslot).trans ?_), hhead, hstrip, hseq, word32_bytes raw⟩
  exact (BitVec.toNat_ofNat _ _).trans (Nat.mod_eq_of_lt slot.isLt)

/-- A sensor frame at the front, by its fields. -/
theorem huntFixed_sensorFrame (f : SensorFields) (rest : List Byte) (fuel : Nat) :
    huntFixed 0xC3 7 (fuel + 1) (sensorFrameBytes f ++ rest) =
      (some (sensorBody f) :: (huntFixed 0xC3 7 fuel rest).1, (huntFixed 0xC3 7 fuel rest).2) := by
  have h := huntFixed_front 0xC3 (sensorBody f) rest fuel
  rwa [show sensorFrameBytes f ++ rest = 0xC3 :: (sensorBody f ++ (crc8 (sensorBody f) :: rest)) by
    simp [sensorFrameBytes_eq]]

theorem huntFixed_statusFrame (code arg : Byte) :
    huntFixed 0x3C 4 4 (statusFrameBytes code arg) = ([some [code, arg]], []) :=
  huntFixed_front 0x3C [code, arg] [] 3

theorem statusOf_ack (b : Bool) : statusOf [0x81, if b then 1 else 0] = some (.ack b) := by cases b <;> rfl

theorem statusOf_fault {code : Byte} (h0 : code ≠ 0) (h1 : code ≠ 0xFE) (h2 : code ≠ 0xFF) :
    statusOf [0x82, code] = some (.fault code) := by
  have hbad : ¬ (code = 0 ∨ code = 0xFE ∨ code = 0xFF) := not_or.2 ⟨h0, not_or.2 ⟨h1, h2⟩⟩
  show (if code = 0 ∨ code = 0xFE ∨ code = 0xFF then none else some (Status.fault code)) = _
  rw [if_neg hbad]

/-- Settles O10: requests by their payloads, then the frames of sensors and actuators at the front of what is received. -/
theorem payloadAndFrameRoundTrip : Obligations.PayloadAndFrameRoundTrip := by
  refine ⟨parseRequest_payload, fun f rest => ⟨sensorBody f, sensorFields_sensorBody f, ?_⟩, fun b => ?_,
    fun code h0 h1 h2 => ?_, ?_, rfl⟩
  · rw [show 7 + rest.length = 6 + rest.length + 1 by omega]
    exact huntFixed_sensorFrame f rest (6 + rest.length)
  · exact ⟨huntFixed_statusFrame _ _, statusOf_ack b⟩
  · exact ⟨huntFixed_statusFrame _ _, statusOf_fault h0 h1 h2⟩
  · exact huntFixed_statusFrame _ _

end Sys2Proof.Machine

/-! SUPPORT. The Supervisor Port (R179 to R186): what the receiver's hunt finds, how a good frame and a request command are
taken, the notice queue at its capacity, and the completion of a frame. -/

namespace Sys2Proof.Machine

/-! ### Replies (R181, R182) -/

theorem replyType_requestType (r : Request) : replyType (requestType r) = requestType r + 0x40 := by cases r <;> rfl

/-- A reply joins the state that its answer leaves. -/
theorem reply_eq (typ n : Byte) (r : Answer × State) : reply typ n r = r.2.replying (replyType typ) n r.1.code r.1.fields := rfl

/-- R181: a request command is the arrival of its request, which its own rule then judges. -/
theorem exec_eq_arrives {c : Instr} {n : Byte} {r : Request} (h : requestOf c = some (n, r)) (s : State) :
    exec c s = .next (arrives r n (handle r) s.stepStart) := by
  cases c <;> cases h <;> rfl

/-- R181: at a free port a request command is answered by its own rule. -/
theorem exec_request {c : Instr} {n : Byte} {r : Request} {s t : State} {a : Answer} (h : requestOf c = some (n, r))
    (hfree : PortFree s) (hact : handle r s.received = (a, t)) :
    exec c s = .next (t.replying (requestType r + 0x40) n a.code a.fields) := by
  rw [exec_eq_arrives h, arrives_of_portFree hfree hact, replyType_requestType]

theorem exec_handles {c : Instr} {n : Byte} {r : Request} {s : State} (h : requestOf c = some (n, r)) (hfree : PortFree s) :
    exec c s = .next ((handle r s.received).2.replying (requestType r + 0x40) n (handle r s.received).1.code
      (handle r s.received).1.fields) :=
  exec_request h hfree (Prod.mk.eta (p := handle r s.received)).symm

/-! ### The receiver's hunt (R179) -/

theorem huntSupervisor_nil (fuel : Nat) : huntSupervisor fuel [] = ([], []) := by cases fuel <;> rfl

/-- Bytes without a sync are dropped. -/
theorem huntSupervisor_noSync : ∀ {bs : List Byte} {fuel : Nat}, bs.length ≤ fuel → 0xA5 ∉ bs →
    huntSupervisor fuel bs = ([], [])
  | [], fuel, _, _ => huntSupervisor_nil fuel
  | b :: rest, 0, h, _ => absurd h (by simp)
  | b :: rest, fuel + 1, h, hb => by
    have hne : b ≠ 0xA5 := fun e => hb (by simp [e])
    rw [huntSupervisor.eq_def]
    simp only [if_pos hne]
    exact huntSupervisor_noSync (Nat.le_of_succ_le_succ h) (fun hr => hb (List.mem_cons_of_mem b hr))

section Collected

variable {len : Byte} {rest : List Byte} (hlen : len.toNat ≤ 240)
include hlen

/-- A frame collected whole is judged by its CRC. -/
theorem huntSupervisor_collected (hrest : len.toNat + 4 ≤ rest.length) (fuel : Nat) :
    huntSupervisor (fuel + 1) (0xA5 :: 0x5A :: len :: rest) =
      if at16 rest (len.toNat + 2) = crc16 (len :: rest.take (len.toNat + 2)) then
        (.good (byteAt rest 0) (byteAt rest 1) ((rest.drop 2).take len.toNat) ::
          (huntSupervisor fuel (rest.drop (len.toNat + 4))).1, (huntSupervisor fuel (rest.drop (len.toNat + 4))).2)
      else (.crcError :: (huntSupervisor fuel (0x5A :: len :: rest)).1, (huntSupervisor fuel (0x5A :: len :: rest)).2) := by
  have hmax : ¬ Config.maxPayload < len.toNat := Nat.not_lt.2 hlen
  have hwhole : ¬ rest.length < len.toNat + 4 := Nat.not_lt.2 hrest
  rw [huntSupervisor, if_neg (not_not.2 rfl)]
  simp only
  rw [if_neg (not_not.2 rfl), if_neg hmax, if_neg hwhole]

end Collected

theorem at16_append_bytes16 (l : List Byte) (x : BitVec 16) (tail : List Byte) :
    at16 (l ++ (bytes16 x ++ tail)) l.length = x := by
  have h0 : byteAt (l ++ (bytes16 x ++ tail)) l.length = x.extractLsb' 0 8 := by simp [byteAt, bytes16]
  have h1 : byteAt (l ++ (bytes16 x ++ tail)) (l.length + 1) = x.extractLsb' 8 8 := by
    simp [byteAt, bytes16]
  rw [at16, h0, h1, word16_bytes]

/-- A frame of length, type, number, payload and CRC, alone in the receiver. -/
theorem huntSupervisor_frame {p : List Byte} (hp : p.length ≤ 240) (typ n : Byte) (crc : BitVec 16) (fuel : Nat) :
    huntSupervisor (fuel + 1) (0xA5 :: 0x5A :: BitVec.ofNat 8 p.length :: typ :: n :: (p ++ bytes16 crc)) =
      if crc = crc16 (BitVec.ofNat 8 p.length :: typ :: n :: p) then ([.good typ n p], [])
      else (.crcError :: (huntSupervisor fuel (0x5A :: BitVec.ofNat 8 p.length :: typ :: n :: (p ++ bytes16 crc))).1,
        (huntSupervisor fuel (0x5A :: BitVec.ofNat 8 p.length :: typ :: n :: (p ++ bytes16 crc))).2) := by
  have hbyte : (BitVec.ofNat 8 p.length).toNat = p.length :=
    (BitVec.toNat_ofNat _ _).trans (Nat.mod_eq_of_lt (Nat.lt_of_le_of_lt hp (by decide)))
  have hcrclen : (bytes16 crc).length = 2 := rfl
  rw [huntSupervisor_collected (by omega) (by simp [hbyte, hcrclen])]
  have hcrc : at16 (typ :: n :: (p ++ bytes16 crc)) (p.length + 2) = crc := by
    simpa using at16_append_bytes16 (typ :: n :: p) crc []
  have htake : (typ :: n :: (p ++ bytes16 crc)).take (p.length + 2) = typ :: n :: p := by simp
  have hdrop : (typ :: n :: (p ++ bytes16 crc)).drop (p.length + 4) = [] := by simp [hcrclen]
  have hpayload : ((typ :: n :: (p ++ bytes16 crc)).drop 2).take p.length = p := by simp
  simp only [hbyte, hcrc, htake, hdrop, hpayload, huntSupervisor_nil]
  rfl

/-! ### Good frames (R180, R181) -/

theorem takeNext_busy {s : State} (h : s.port.busy = true) : takeNext s = s := if_pos h

theorem takeNext_empty {s : State} (h : s.port.queue = []) : takeNext s = s := by
  unfold takeNext
  split
  · rfl
  · rw [h]

theorem takeNext_front {s : State} {f : Frame} {rest : List Frame} (hbusy : s.port.busy = false)
    (h : s.port.queue = f :: rest) :
    takeNext s = reply f.typ f.num (answerFrame f (s.setPort { s.port with queue := rest })) := by
  unfold takeNext
  rw [if_neg (by simp [hbusy]), h]

/-- R181: at a port with nothing before it a good frame is answered at once. -/
theorem acceptGood_free {s : State} (f : Frame) (hbusy : s.port.busy = false) (hqueue : s.port.queue = []) :
    acceptGood f s = reply f.typ f.num (answerFrame f (s.count PortCounters.countGood)) := by
  have hroom : (s.count PortCounters.countGood).port.queue.length < Config.rxCapacity := by
    rw [State.count_port, hqueue]
    decide
  have henq : enqueue f (s.count PortCounters.countGood) =
      s.setPort { s.port with counters := s.port.counters.countGood, queue := [f] } := by
    rw [enqueue, if_pos hroom, State.count_port, hqueue]
    rfl
  have hport : s.setPort { s.port with counters := s.port.counters.countGood, queue := [] } =
      s.count PortCounters.countGood := by
    rw [State.count, ← hqueue]
  rw [← hport]
  exact (congrArg takeNext henq).trans (takeNext_front (rest := []) hbusy rfl)

/-- R180: while a reply is outstanding a good frame is counted and waits. -/
theorem acceptGood_busy {s : State} (f : Frame) (hbusy : s.port.busy = true) :
    acceptGood f s = enqueue f (s.count PortCounters.countGood) := by
  refine takeNext_busy ?_
  unfold enqueue
  split <;> exact hbusy

/-! ### Frames alone in the receiver -/

@[simp] theorem beginNotice_rx (p : Port) : p.beginNotice.rx = p.rx := by
  unfold Port.beginNotice
  split <;> rfl

@[simp] theorem beginNext_rx (p : Port) : p.beginNext.rx = p.rx := by
  unfold Port.beginNext
  split
  · rfl
  · split
    · split
      · rfl
      · exact beginNotice_rx p
    · exact beginNotice_rx p

/-- R179: what the receiver makes of bytes that it consumes whole. -/
theorem supervisorBytes_alone {s : State} {bytes : List Byte} {es : List RxEvent} (hrx : s.port.rx = [])
    (h : huntSupervisor bytes.length bytes = (es, [])) : supervisorBytes bytes s = es.foldl takeRx s := by
  have hsame : s.setPort { s.port with rx := [] } = s := by rw [← hrx]; rfl
  simp only [supervisorBytes, hrx, List.nil_append, h, hsame]

theorem supervisorFrameBytes_eq (typ n : Byte) (p : List Byte) : supervisorFrameBytes typ n p =
    0xA5 :: 0x5A :: BitVec.ofNat 8 p.length :: typ :: n :: (p ++ bytes16 (crc16 (BitVec.ofNat 8 p.length :: typ :: n :: p))) :=
  rfl

theorem huntSupervisor_good {p : List Byte} (hp : p.length ≤ 240) (typ n : Byte) :
    huntSupervisor (supervisorFrameBytes typ n p).length (supervisorFrameBytes typ n p) = ([.good typ n p], []) :=
  (huntSupervisor_frame hp typ n _ _).trans (if_pos rfl)

/-- R179, R181: a good frame that arrives alone at a free port is answered at once. -/
theorem exec_goodFrame {s : State} {typ n : Byte} {p : List Byte} (hp : p.length ≤ 240) (hfree : PortFree s)
    (hrx : s.port.rx = []) :
    exec (.supervisorFrame (supervisorFrameBytes typ n p)) s =
      .next (reply typ n (answerFrame ⟨typ, n, p⟩ s.received)) := by
  obtain ⟨hbusy, hqueue⟩ := hfree.stepStart
  have hbytes : supervisorBytes (supervisorFrameBytes typ n p) s.stepStart = acceptGood ⟨typ, n, p⟩ s.stepStart :=
    supervisorBytes_alone ((beginNext_rx s.port).trans hrx) (huntSupervisor_good hp typ n)
  exact congrArg Host.Outcome.next (hbytes.trans (acceptGood_free _ hbusy hqueue))

/-- Settles O11: the frame is found, spells its request, and is then taken as the request command is. -/
theorem framedRequestIsRequest : Obligations.FramedRequestIsRequest := by
  intro c n r s hc hfits hfree hrx
  have hanswer : answerFrame ⟨requestType r, n, requestPayload r⟩ s.received = handle r s.received := by
    simp only [answerFrame, parseRequest_payload r hfits]
  rw [exec_goodFrame hfits hfree hrx, hanswer, reply_eq, replyType_requestType]
  exact (exec_handles hc hfree).symm

/-! ### Bad frames (R181, R182, R186) -/

theorem exactly_ne_unknownType (p : List Byte) (n : Nat) (r : Request) : exactly p n r ≠ .unknownType := by
  unfold exactly
  split <;> exact Parsed.noConfusion

theorem exactly_malformed (p : List Byte) (n : Nat) (r : Request) : exactly p n r = .malformed ↔ p.length ≠ n := by
  unfold exactly
  split
  · next h => exact iff_of_false Parsed.noConfusion (not_not.2 h)
  · next h => exact iff_of_true rfl h

/-- R181 check 1: the types of the requests are 01h to 1Bh. -/
theorem parseRequest_unknownType (typ : Byte) (p : List Byte) :
    parseRequest typ p = .unknownType ↔ typ = 0 ∨ 0x1B < typ.toNat := by
  have hzero : typ = 0 ↔ typ.toNat = 0 := BitVec.toNat_eq
  rw [hzero]
  unfold parseRequest
  split
  case h_1 => exact iff_of_false (by split <;> exact Parsed.noConfusion) (by omega)
  case h_24 =>
    refine iff_of_false ?_ (by omega)
    split
    · exact exactly_ne_unknownType _ _ _
    · exact Parsed.noConfusion
  case h_28 =>
    refine iff_of_true rfl ?_
    simp only [imp_false] at *
    omega
  all_goals exact iff_of_false (exactly_ne_unknownType _ _ _) (by omega)

/-- R181 check 2: the one length of each type but CONFIGURE_CHANNEL and LOG_WRITE. -/
theorem parseRequest_malformed (p : List Byte) {typ : Byte} {len : Nat}
    (h : (typ, len) ∈ ([(0x02, 37), (0x03, 14), (0x04, 0), (0x05, 0), (0x06, 0), (0x07, 0),
      (0x08, 0), (0x09, 0), (0x0A, 0), (0x0B, 125), (0x0C, 1), (0x0D, 1), (0x0E, 3), (0x0F, 3), (0x10, 3), (0x11, 1), (0x12, 5),
      (0x13, 8), (0x14, 1), (0x15, 1), (0x16, 2), (0x17, 7), (0x19, 1), (0x1A, 0), (0x1B, 0)] : List (Byte × Nat))) :
    parseRequest typ p = .malformed ↔ p.length ≠ len := by
  simp only [List.mem_cons, List.not_mem_nil, or_false, Prod.mk.injEq] at h
  rcases h with ⟨rfl, rfl⟩ | ⟨rfl, rfl⟩ | ⟨rfl, rfl⟩ | ⟨rfl, rfl⟩ | ⟨rfl, rfl⟩ | ⟨rfl, rfl⟩ | ⟨rfl, rfl⟩ | ⟨rfl, rfl⟩ |
    ⟨rfl, rfl⟩ | ⟨rfl, rfl⟩ | ⟨rfl, rfl⟩ | ⟨rfl, rfl⟩ | ⟨rfl, rfl⟩ | ⟨rfl, rfl⟩ | ⟨rfl, rfl⟩ | ⟨rfl, rfl⟩ | ⟨rfl, rfl⟩ |
    ⟨rfl, rfl⟩ | ⟨rfl, rfl⟩ | ⟨rfl, rfl⟩ | ⟨rfl, rfl⟩ | ⟨rfl, rfl⟩ | ⟨rfl, rfl⟩ | ⟨rfl, rfl⟩ | ⟨rfl, rfl⟩ <;>
  exact exactly_malformed p _ _

/-- Section 11.3.8: the text length byte gives the length of a LOG_WRITE payload. -/
theorem parseRequest_logWrite (p : List Byte) :
    parseRequest 0x18 p ≠ .malformed ↔ ∃ log n text, p = log :: n :: text ∧ text.length = n.toNat := by
  match p with
  | [] => exact iff_of_false (not_not.2 rfl) (by simp)
  | [_] => exact iff_of_false (not_not.2 rfl) (by simp)
  | log :: n :: text =>
    refine (not_congr (exactly_malformed text n.toNat (.logWrite log text))).trans (not_not.trans ?_)
    simp

/-- Section 11.3.8: behind the binding a CONFIGURE_CHANNEL payload has its role, its place and 15 bytes. -/
theorem channelAt_place {e : Byte} {binding t : List Byte} (hbinding : binding = [0] ∨ ∃ l k, binding = [1, l, k])
    (h : (channelAt (e :: (binding ++ t))).isSome = true) : ∃ (role : Byte) (place rest : List Byte),
      t = role :: (place ++ rest) ∧ (place = [0] ∨ ∃ x, place = [1, x]) ∧ rest.length = 15 := by
  have hnone {t : List Byte} (hnone : channelAt (e :: (binding ++ t)) = none)
      (h : (channelAt (e :: (binding ++ t))).isSome = true) : False := by simp [hnone] at h
  match t with
  | [] => rcases hbinding with rfl | ⟨l, k, rfl⟩ <;> exact (hnone rfl h).elim
  | [_] => rcases hbinding with rfl | ⟨l, k, rfl⟩ <;> exact (hnone rfl h).elim
  | role :: pp :: u =>
    by_cases h0 : pp = 0
    · subst h0
      refine ⟨role, [0], u, rfl, .inl rfl, by_contra fun hlen => hnone ?_ h⟩
      rcases hbinding with rfl | ⟨l, k, rfl⟩ <;> simp [channelAt, hlen]
    · by_cases h1 : pp = 1
      · subst h1
        match u with
        | [] => rcases hbinding with rfl | ⟨l, k, rfl⟩ <;> exact (hnone rfl h).elim
        | pl :: v =>
          refine ⟨role, [1, pl], v, rfl, .inr ⟨pl, rfl⟩, by_contra fun hlen => hnone ?_ h⟩
          rcases hbinding with rfl | ⟨l, k, rfl⟩ <;> simp [channelAt, hlen]
      · refine (hnone ?_ h).elim
        rcases hbinding with rfl | ⟨l, k, rfl⟩ <;> simp only [channelAt, List.cons_append, List.nil_append, h0, h1, if_false] <;> rfl

/-- Section 11.3.8: the presence bytes give the length of a CONFIGURE_CHANNEL payload. -/
theorem channelAt_isSome (p : List Byte) : (channelAt p).isSome = true ↔
    ∃ (entry role : Byte) (binding place rest : List Byte),
      p = entry :: (binding ++ role :: (place ++ rest)) ∧ (binding = [0] ∨ ∃ l k, binding = [1, l, k]) ∧
        (place = [0] ∨ ∃ x, place = [1, x]) ∧ rest.length = 15 := by
  constructor
  · intro h
    have front : ∀ {e : Byte} {binding t : List Byte}, (binding = [0] ∨ ∃ l k, binding = [1, l, k]) →
        p = e :: (binding ++ t) → ∃ (entry role : Byte) (binding place rest : List Byte),
          p = entry :: (binding ++ role :: (place ++ rest)) ∧ (binding = [0] ∨ ∃ l k, binding = [1, l, k]) ∧
            (place = [0] ∨ ∃ x, place = [1, x]) ∧ rest.length = 15 := by
      rintro e binding t hbinding rfl
      obtain ⟨role, place, rest, rfl, hplace, hrest⟩ := channelAt_place hbinding h
      exact ⟨e, role, binding, place, rest, rfl, hbinding, hplace, hrest⟩
    match p with
    | [] => cases h
    | [_] => cases h
    | e :: pb :: t =>
      by_cases h0 : pb = 0
      · exact front (binding := [0]) (.inl rfl) (by rw [h0]; rfl)
      · by_cases h1 : pb = 1
        · subst h1
          match t with
          | [] => cases h
          | [_] => cases h
          | l :: k :: u => exact front (binding := [1, l, k]) (.inr ⟨l, k, rfl⟩) rfl
        · simp only [channelAt, h0, h1, if_false] at h
          cases h
  · rintro ⟨entry, role, binding, place, rest, rfl, rfl | ⟨l, k, rfl⟩, rfl | ⟨x, rfl⟩, hrest⟩ <;>
      simp [channelAt, hrest]

theorem parseRequest_channel (p : List Byte) : parseRequest 0x01 p ≠ .malformed ↔ (channelAt p).isSome = true := by
  show (match channelAt p with | some c => Parsed.request (.configureChannel c) | none => .malformed) ≠ _ ↔ _
  cases channelAt p <;> simp

/-- R179: a length field above 240 is an error, and no sync stands behind it. -/
theorem huntSupervisor_badLength {len : Byte} (h : 240 < len.toNat) :
    huntSupervisor 3 [0xA5, 0x5A, len] = ([.lengthError], []) := by
  have hne : len ≠ 0xA5 := by rintro rfl; exact absurd h (by decide)
  have hrest : huntSupervisor 2 [0x5A, len] = ([], []) :=
    huntSupervisor_noSync (Nat.le_refl 2)
      (fun h => (List.mem_cons.1 h).elim (by decide) fun h => hne (List.mem_singleton.1 h).symm)
  rw [huntSupervisor.eq_def]
  simp only [ne_eq, not_true_eq_false, if_false, Config.maxPayload, h, if_true, hrest]

/-- R179: a frame whose CRC does not match is one error where no sync stands in it. -/
theorem huntSupervisor_badCrc {p : List Byte} (hp : p.length ≤ 240) {typ n : Byte} {crc : BitVec 16}
    (hcrc : crc ≠ crc16 (BitVec.ofNat 8 p.length :: typ :: n :: p))
    (hsync : 0xA5 ∉ (BitVec.ofNat 8 p.length :: typ :: n :: p) ++ bytes16 crc) :
    huntSupervisor (0xA5 :: 0x5A :: ((BitVec.ofNat 8 p.length :: typ :: n :: p) ++ bytes16 crc)).length
      (0xA5 :: 0x5A :: ((BitVec.ofNat 8 p.length :: typ :: n :: p) ++ bytes16 crc)) = ([.crcError], []) := by
  refine (huntSupervisor_frame hp typ n crc _).trans ((if_neg hcrc).trans ?_)
  have hnone : (0xA5 : Byte) ∉ 0x5A :: (BitVec.ofNat 8 p.length :: typ :: n :: p ++ bytes16 crc) :=
    fun h => (List.mem_cons.1 h).elim (by decide) hsync
  have hrest := huntSupervisor_noSync (Nat.le_refl _) hnone
  exact congrArg (fun r : List RxEvent × List Byte => (RxEvent.crcError :: r.1, r.2)) hrest

/-- Settles O12: a frame that spells no request is answered by the check it fails; bytes that make no frame raise a counter. -/
theorem badFramesHandled : Obligations.BadFramesHandled := by
  refine ⟨⟨fun typ n p s hp hfree hrx => ⟨fun htyp => ?_, fun hbad => ?_⟩, parseRequest_unknownType,
    fun p typ len h => parseRequest_malformed p h, parseRequest_logWrite,
    fun p => (parseRequest_channel p).trans (channelAt_isSome p)⟩, fun s len hlen hrx => ?_, ?_⟩
  · have hanswer : answerFrame ⟨typ, n, p⟩ s.received = (unknownAnswer typ, s.received) := by
      simp only [answerFrame, (parseRequest_unknownType typ p).2 htyp]
    rw [exec_goodFrame hp hfree hrx, hanswer, reply_eq]
    simp only [unknownAnswer, replyType]
    split <;> rfl
  · have hanswer : answerFrame ⟨typ, n, p⟩ s.received = (refuse .malformed, s.received) := by
      simp only [answerFrame, hbad]
    have htyp : ¬ (typ = 0 ∨ 0x1B < typ.toNat) := fun h => by
      have hunknown := (parseRequest_unknownType typ p).2 h
      rw [hbad] at hunknown
      cases hunknown
    have hrequest : 1 ≤ typ.toNat ∧ typ.toNat ≤ 0x3F := by
      have hzero : typ = 0 ↔ typ.toNat = 0 := BitVec.toNat_eq
      rw [hzero] at htyp
      omega
    rw [exec_goodFrame hp hfree hrx, hanswer, reply_eq, replyType, if_pos hrequest]
    rfl
  · exact congrArg Host.Outcome.next
      (supervisorBytes_alone (bytes := [0xA5, 0x5A, len]) ((beginNext_rx s.port).trans hrx) (huntSupervisor_badLength hlen))
  · rintro s covered typ num p crc rfl hp hrx hcrc hsync
    exact congrArg Host.Outcome.next
      (supervisorBytes_alone ((beginNext_rx s.port).trans hrx) (huntSupervisor_badCrc hp hcrc hsync))

/-! ### Waiting in turn (R180, R181, R185, R186) -/

theorem beginNext_of_sending {p : Port} {f : Sending} (h : p.sending = some f) : p.beginNext = p := by
  simp only [Port.beginNext, h]

theorem beginNext_of_no_reply {p : Port} (hs : p.sending = none) (hw : p.waiting = none) : p.beginNext = p.beginNotice := by
  simp only [Port.beginNext, hs, hw]

/-- R185: a reply that is outstanding stays so when the transmitter begins a frame. -/
theorem beginNext_busy {p : Port} (h : p.busy = true) : p.beginNext.busy = true := by
  cases hs : p.sending with
  | some f => rwa [beginNext_of_sending hs]
  | none =>
    cases hw : p.waiting with
    | none => simp [Port.busy, hs, hw] at h
    | some w =>
      simp only [Port.beginNext, hs, hw]
      split
      · rfl
      · unfold Port.beginNotice
        split <;> simp [Port.busy, hw]

/-- R180, R181: while a reply is outstanding a request joins the receive queue, if it finds a place there. -/
theorem exec_waits {c : Instr} {n : Byte} {r : Request} {s : State} (hc : requestOf c = some (n, r))
    (hbusy : s.port.busy = true) :
    exec c s = .next (enqueue ⟨requestType r, n, requestPayload r⟩ s.received) := by
  have hstart : s.stepStart.port.busy = true := beginNext_busy hbusy
  rw [exec_eq_arrives hc, arrives, if_pos (.inl hstart), acceptGood_busy _ hstart]
  rfl

/-- R185, R186: the frame being sent is counted and the next one begun. -/
theorem completeFrame_of_sending {s : State} {f : Sending} (h : s.port.sending = some f) :
    completeFrame s = (if f.isReply then takeNext else id) (s.setPort
      (Port.beginNext { s.port with sending := none, counters := s.port.counters.countSent f.isReply })) := by
  simp only [completeFrame, h]
  split <;> rfl

theorem exec_frameSent {s : State} {f : Sending} (h : s.port.sending = some f) :
    exec .frameSent s = .next ((if f.isReply then takeNext else id) { s with
      sent := [], port := Port.beginNext { s.port with sending := none, counters := s.port.counters.countSent f.isReply } }) := by
  have hport : s.stepStart.port = s.port := beginNext_of_sending h
  have hstep := completeFrame_of_sending (s := s.stepStart) (hport ▸ h)
  rw [hport] at hstep
  exact congrArg Host.Outcome.next hstep

/-- R185: beginning a notice does not look at the receive queue. -/
theorem beginNotice_setQueue (p : Port) (q : List Frame) :
    ({ p with queue := q } : Port).beginNotice = { p.beginNotice with queue := q } := by
  unfold Port.beginNotice
  cases hn : p.notices <;> simp [hn]

theorem beginNotice_not_busy {p : Port} (hs : p.sending = none) (hw : p.waiting = none) : p.beginNotice.busy = false := by
  unfold Port.beginNotice
  cases p.notices <;> simp [Port.busy, hs, hw]

/-! ### The notice queue at its capacity (R183, R184) -/

theorem removeNewestOther_trips : ∀ {l : List Notice}, (∀ x ∈ l, isTripNotice x = true) → removeNewestOther l = none
  | [], _ => rfl
  | n :: rest, h => by
    have hrest := removeNewestOther_trips fun x hx => h x (List.mem_cons_of_mem n hx)
    simp only [removeNewestOther, hrest, h n List.mem_cons_self, if_true]

/-- The newest notice that is no TRIP notice is the one behind which there are TRIP notices alone. -/
theorem removeNewestOther_newest {post : List Notice} {x : Notice} (hx : isTripNotice x = false)
    (hpost : ∀ y ∈ post, isTripNotice y = true) :
    ∀ pre : List Notice, removeNewestOther (pre ++ x :: post) = some (pre.length, pre ++ post)
  | [] => by
    simp [removeNewestOther, removeNewestOther_trips hpost, hx]
  | n :: rest => by
    simp only [List.cons_append, removeNewestOther, removeNewestOther_newest hx hpost rest, List.length_cons]

/-- Settles O14: at a full queue what leaves it, if anything does, is found from the newest end. -/
theorem fullNoticeQueue : Obligations.FullNoticeQueue := by
  intro p n
  have hfull (h : 32 ≤ p.notices.length) : ¬ p.notices.length < Config.noticeCapacity := Nat.not_lt.2 h
  refine ⟨fun h => if_pos h, fun h hn => ?_, fun h hn hall => ?_, fun pre post x h hn hp hx hpost => ?_⟩
  · rw [Port.queueNotice, if_neg (hfull h), hn]
    rfl
  · simp only [Port.queueNotice, if_neg (hfull h), hn, if_true, removeNewestOther_trips hall]
    rfl
  · have hahead : (fun w : Waiting => if pre.length < w.ahead then { w with ahead := w.ahead - 1 } else w) =
        fun w => ⟨w.reply, if pre.length < w.ahead then w.ahead - 1 else w.ahead⟩ := by
      funext w
      split <;> rfl
    rw [Port.queueNotice, if_neg (hfull h), if_pos hn, hp, removeNewestOther_newest hx hpost pre, ← hahead]
    rfl

/-! ### Frames sent in full (R186) -/

/-- Settles O13: a request behind an outstanding reply is queued or lost; a frame sent in full is counted, and after a reply
the request at the head of the receive queue is taken. -/
theorem requestsAndFramesMoveOn : Obligations.RequestsAndFramesMoveOn := by
  refine ⟨fun c n r s hc hbusy => ?_, fun s f hf hr => ?_, fun s f hf hr hq => ?_, fun s f n r rest hf hr hw hfits hq => ?_,
    fun s hs hw hn => ?_⟩
  · have hqueue : s.received.port.queue = s.port.queue := beginNext_queue s.port
    refine ⟨fun hroom => ?_, fun hfull => ?_⟩
    · rw [exec_waits hc hbusy, enqueue, hqueue, if_pos (show s.port.queue.length < Config.rxCapacity from hroom)]
    · rw [exec_waits hc hbusy, enqueue, hqueue, if_neg (show ¬ s.port.queue.length < Config.rxCapacity from Nat.not_lt.2 hfull)]
      rfl
  · rw [exec_frameSent hf, hr]
    rfl
  · rw [exec_frameSent hf, hr]
    exact congrArg Host.Outcome.next (takeNext_empty ((beginNext_queue _).trans hq))
  · obtain ⟨p, hp⟩ : ∃ p : Port, p = { s.port with sending := none, counters := s.port.counters.countSent true } := ⟨_, rfl⟩
    have hsend : p.sending = none := by rw [hp]
    have hwait : p.waiting = none := by rw [hp]; exact hw
    have hbegin := beginNext_of_no_reply hsend hwait
    have hfree : p.beginNext.busy = false := hbegin ▸ beginNotice_not_busy hsend hwait
    have hfront : p.beginNext.queue = ⟨requestType r, n, requestPayload r⟩ :: rest := by rw [beginNext_queue, hp, hq]
    have hrest : ({ p.beginNext with queue := rest } : Port) = Port.beginNext { p with queue := rest } := by
      rw [hbegin, ← beginNotice_setQueue, beginNext_of_no_reply (p := { p with queue := rest }) hsend hwait]
    have htaken : exec .frameSent s = .next (reply (requestType r) n
        (handle r { s with sent := [], port := Port.beginNext { p with queue := rest } })) := by
      rw [exec_frameSent hf, hr, ← hp, ← hrest]
      refine congrArg Host.Outcome.next ((takeNext_front hfree hfront).trans ?_)
      simp only [answerFrame, parseRequest_payload r hfits]
      rfl
    refine ⟨_, _, rfl, rfl, ?_⟩
    rw [htaken, reply_eq, replyType_requestType, hp]
    rfl
  · have hnotice : s.port.beginNext = s.port := by
      rw [beginNext_of_no_reply hs hw, Port.beginNotice, hn]
    have hidle : completeFrame s.stepStart = s.stepStart := by
      unfold completeFrame
      rw [State.stepStart_port, hnotice, hs]
    exact congrArg Host.Outcome.next (hidle.trans (by rw [State.stepStart, hnotice]))

end Sys2Proof.Machine

/-! SUPPORT. R6: which requests a mode lets through. A request in another mode is refused MODE (RESTART: TRIP_ACTIVE) by its own
rule; in a mode listed for it the rule's answer is another one. -/

namespace Sys2Proof.Machine

/-! ### Refused by the mode -/

theorem handle_refused {r : Request} {s : State} (h : acceptedIn s.mode r = false) :
    handle r s = (refuse (if r = .restart then .tripActive else .mode), s) := by
  have hne {m : Mode} (hm : (s.mode == m) = false) : s.mode ≠ m := by simpa using hm
  have heq {m : Mode} (hm : (s.mode != m) = false) : s.mode = m := by simpa using hm
  cases r with
  | configureChannel p => exact if_pos (hne h)
  | configureStand p => exact if_pos (hne h)
  | configureLine p => exact if_pos (hne h)
  | commitConfig => exact if_pos (hne h)
  | configOpen => exact if_pos (hne h)
  | thread => exact if_pos (hne h)
  | run => exact if_pos (hne h)
  | stop => exact if_pos (Bool.eq_false_iff.1 h)
  | tripReset => exact if_pos (hne h)
  | restart => exact if_pos (heq h)
  | scheduleLoad t p =>
    show doScheduleLoad t p s = (refuse .mode, s)
    simp only [acceptedIn] at h
    unfold doScheduleLoad
    split
    · next ht =>
      rw [if_pos ht] at h
      exact if_pos (.inl (hne h))
    · next ht =>
      rw [if_neg ht] at h
      rw [doLoadAtWeld, if_pos (heq h), if_pos (heq h), ite_self]
  | scheduleWithdraw tag => cases h
  | scheduleQuery tag => cases h
  | faultPolicy k e v => cases h
  | faultClear ks => cases h
  | countReset ks => cases h
  | faultQuery k => cases h
  | segmentQuery sel a => cases h
  | segmentMark f c a m => cases h
  | channelRead e => cases h
  | linkStatus l => cases h
  | linkControl l a => cases h
  | logRead g f c => cases h
  | logWrite g t => cases h
  | logClear g => cases h
  | status => cases h
  | identify => cases h

/-! ### Let through by the mode -/

/-- The codes of R181 that a request gets before its own rule looks at its fields. -/
def ReplyCode.unjudged : ReplyCode → Bool
  | .mode => true
  | .unknownType => true
  | .malformed => true
  | _ => false

theorem roleRefusal_notReady {s : State} {i : Item} {a : Answer} (h : roleRefusal s i = some a) : a.code = .notReady := by
  unfold roleRefusal at h
  split at h
  · cases h; rfl
  · cases h
  · cases h; rfl

theorem standRefusal_notReady {s : State} {k : Stand} {a : Answer} (h : standRefusal s k = some a) : a.code = .notReady := by
  unfold standRefusal at h
  split at h
  · cases h; rfl
  · split at h
    · cases h
    · cases h; rfl

theorem latchRefusal_notReady {s : State} {a : Answer} (h : latchRefusal s = some a) : a.code = .notReady := by
  obtain ⟨k, _, rfl⟩ := Option.map_eq_some_iff.1 h
  rfl

theorem commitRefusal_notReady {s : State} {a : Answer} (h : commitRefusal s = some a) : a.code = .notReady := by
  unfold commitRefusal at h
  split at h
  · next b hb =>
    cases h
    obtain ⟨i, _, hi⟩ := List.exists_of_findSome?_eq_some hb
    exact roleRefusal_notReady hi
  · split at h
    · next b hb =>
      cases h
      obtain ⟨k, _, hk⟩ := List.exists_of_findSome?_eq_some hb
      exact standRefusal_notReady hk
    · exact latchRefusal_notReady h

theorem actuatorRefusal_notReady {s : State} {a : Answer} (h : actuatorRefusal s = some a) : a.code = .notReady := by
  unfold actuatorRefusal at h
  split at h
  · cases h; rfl
  · obtain ⟨k, _, rfl⟩ := Option.map_eq_some_iff.1 h
    rfl

theorem loadRecord_judged (take : TakeMode) (p : SchedulePayload) (s : State) :
    (loadRecord take p s).1.code.unjudged = false := by
  unfold loadRecord
  split
  · rfl
  · split
    · rfl
    · split
      · rfl
      · unfold placeSchedule
        split <;> rfl

theorem markSegments_judged (first : SegNo) (count : BitVec 16) (mark : Bool) (mode : MarkMode) (s : State) :
    (markSegments first count mark mode s).1.code.unjudged = false := by
  unfold markSegments
  split <;> rfl

theorem linkAction_judged (f : LinkNo → State → State) (link : Byte) (s : State) :
    (linkAction f link s).1.code.unjudged = false := by
  unfold linkAction
  split <;> rfl

theorem notReady_judged {a : Answer} (h : a.code = .notReady) : a.code.unjudged = false := by rw [h]; rfl

/-- R6: the requests that every mode lets through. -/
theorem handle_any_mode {r : Request} (h : ∀ m, acceptedIn m r = true) (s : State) :
    (handle r s).1.code.unjudged = false := by
  cases r with
  | configureChannel p => cases h .ready
  | configureStand p => cases h .ready
  | configureLine p => cases h .ready
  | commitConfig => cases h .ready
  | configOpen => cases h .config
  | thread => cases h .config
  | run => cases h .config
  | stop => cases h .config
  | tripReset => cases h .config
  | restart => cases h .tripped
  | scheduleLoad t p =>
    have hconfig := h .config
    simp [acceptedIn] at hconfig
  | scheduleWithdraw tag =>
    show (doWithdraw tag s).1.code.unjudged = false
    simp only [doWithdraw]
    split
    · rfl
    · split
      · rfl
      · split <;> rfl
  | scheduleQuery tag =>
    show (doScheduleQuery tag s).1.code.unjudged = false
    simp only [doScheduleQuery]
    split
    · rfl
    · split
      · rfl
      · split <;> rfl
  | faultPolicy k e v =>
    show (doFaultPolicy k e v s).1.code.unjudged = false
    simp only [doFaultPolicy]
    split
    · split
      · rfl
      · split <;> rfl
    · rfl
  | faultClear ks => show (doFaultClear ks s).1.code.unjudged = false; unfold doFaultClear; split <;> rfl
  | countReset ks => show (doCountReset ks s).1.code.unjudged = false; unfold doCountReset; split <;> rfl
  | faultQuery k => show (doFaultQuery k s).1.code.unjudged = false; unfold doFaultQuery; split <;> rfl
  | segmentQuery sel a => show (doSegmentQuery sel a s).1.code.unjudged = false; unfold doSegmentQuery; split <;> rfl
  | segmentMark f c a m =>
    show (doSegmentMark f c a m s).1.code.unjudged = false
    unfold doSegmentMark
    split
    · unfold doMarkSet
      split
      · exact markSegments_judged _ _ _ _ _
      · rfl
    · split
      · unfold doMarkClear
        split
        · exact markSegments_judged _ _ _ _ _
        · rfl
      · rfl
  | channelRead e => show (doChannelRead e s).1.code.unjudged = false; unfold doChannelRead; split <;> rfl
  | linkStatus l => show (doLinkStatus l s).1.code.unjudged = false; unfold doLinkStatus; split <;> rfl
  | linkControl l a =>
    show (doLinkControl l a s).1.code.unjudged = false
    unfold doLinkControl
    split
    · exact linkAction_judged _ _ _
    · split
      · exact linkAction_judged _ _ _
      · split
        · exact linkAction_judged _ _ _
        · split
          · exact linkAction_judged _ _ _
          · rfl
  | logRead g f c =>
    show (doLogRead g f c s).1.code.unjudged = false
    unfold doLogRead
    split
    · rfl
    · split <;> rfl
  | logWrite g t =>
    show (doLogWrite g t s).1.code.unjudged = false
    unfold doLogWrite
    split
    · rfl
    · split
      · rfl
      · split <;> rfl
  | logClear g =>
    show (doLogClear g s).1.code.unjudged = false
    unfold doLogClear
    split
    · rfl
    · split <;> rfl
  | status => rfl
  | identify => rfl

theorem handle_accepted {r : Request} {s : State} (h : acceptedIn s.mode r = true)
    (hnow : ∀ p, r = .scheduleLoad 0 p → s.entrySchedule = none) : (handle r s).1.code.unjudged = false := by
  have hin {m : Mode} (hm : (s.mode == m) = true) : ¬ s.mode ≠ m := by simpa using hm
  have hout {m : Mode} (hm : (s.mode != m) = true) : ¬ s.mode = m := by simpa using hm
  cases r with
  | configureChannel p =>
    show (doConfigureChannel p s).1.code.unjudged = false
    rw [doConfigureChannel, if_neg (hin h)]
    dsimp only
    split
    · split
      · rfl
      · split
        · split <;> rfl
        · rfl
    · rfl
  | configureStand p =>
    show (doConfigureStand p s).1.code.unjudged = false
    rw [doConfigureStand, if_neg (hin h)]
    split
    · rfl
    · split <;> rfl
  | configureLine p =>
    show (doConfigureLine p s).1.code.unjudged = false
    rw [doConfigureLine, if_neg (hin h)]
    split <;> rfl
  | commitConfig =>
    show (doCommitConfig s).1.code.unjudged = false
    rw [doCommitConfig, if_neg (hin h)]
    split
    · next a ha => exact notReady_judged (commitRefusal_notReady ha)
    · rfl
  | configOpen =>
    show (doConfigOpen s).1.code.unjudged = false
    rw [doConfigOpen, if_neg (hin h)]
    rfl
  | thread =>
    show (doThread s).1.code.unjudged = false
    rw [doThread, if_neg (hin h)]
    split
    · rfl
    · split
      · rfl
      · split
        · next a ha => exact notReady_judged (actuatorRefusal_notReady ha)
        · rfl
  | run =>
    show (doRun s).1.code.unjudged = false
    rw [doRun, if_neg (hin h)]
    split <;> rfl
  | stop =>
    show (doStop s).1.code.unjudged = false
    rw [doStop, if_neg (show ¬ ¬ s.tracking = true from not_not.2 h)]
    rfl
  | tripReset =>
    show (doTripReset s).1.code.unjudged = false
    rw [doTripReset, if_neg (hin h)]
    split
    · rfl
    · split
      · next a ha => exact notReady_judged (latchRefusal_notReady ha)
      · rfl
  | restart =>
    show (doRestart s).1.code.unjudged = false
    rw [doRestart, if_neg (hout h)]
    rfl
  | scheduleLoad t p =>
    show (doScheduleLoad t p s).1.code.unjudged = false
    simp only [acceptedIn] at h
    unfold doScheduleLoad
    split
    · next ht =>
      subst ht
      have hentry := hnow p rfl
      rw [doLoadNow, if_neg (by simpa [hentry] using h)]
      exact loadRecord_judged _ _ _
    · next ht =>
      rw [if_neg ht] at h
      rw [doLoadAtWeld, if_neg (hout h), if_neg (hout h)]
      split
      · exact loadRecord_judged _ _ _
      · rfl
  | scheduleWithdraw tag => exact handle_any_mode (fun _ => rfl) s
  | scheduleQuery tag => exact handle_any_mode (fun _ => rfl) s
  | faultPolicy k e v => exact handle_any_mode (fun _ => rfl) s
  | faultClear ks => exact handle_any_mode (fun _ => rfl) s
  | countReset ks => exact handle_any_mode (fun _ => rfl) s
  | faultQuery k => exact handle_any_mode (fun _ => rfl) s
  | segmentQuery sel a => exact handle_any_mode (fun _ => rfl) s
  | segmentMark f c a m => exact handle_any_mode (fun _ => rfl) s
  | channelRead e => exact handle_any_mode (fun _ => rfl) s
  | linkStatus l => exact handle_any_mode (fun _ => rfl) s
  | linkControl l a => exact handle_any_mode (fun _ => rfl) s
  | logRead g f c => exact handle_any_mode (fun _ => rfl) s
  | logWrite g t => exact handle_any_mode (fun _ => rfl) s
  | logClear g => exact handle_any_mode (fun _ => rfl) s
  | status => exact handle_any_mode (fun _ => rfl) s
  | identify => exact handle_any_mode (fun _ => rfl) s

/-- Settles O15: a received frame leaves the mode, so the mode before it decides what the request's own rule answers. -/
theorem requestsByMode : Obligations.RequestsByMode := by
  refine ⟨fun c n r s hc hfree hno => ?_, fun c n r s hc hfree hyes hnow => ?_⟩
  · exact exec_request hc hfree (handle_refused (s := s.received) hno)
  · have hjudged : (handle r s.received).1.code.unjudged = false := handle_accepted (s := s.received) hyes hnow
    refine ⟨_, _, _, exec_handles hc hfree, ?_, ?_, ?_⟩ <;>
    · intro h
      rw [h] at hjudged
      cases hjudged

end Sys2Proof.Machine

/-! SUPPORT. The tick (R5): what it changes, and which expiries and keep-alive commands join the queue at it. -/

namespace Sys2Proof.Machine

/-! ### Timers that have reached their limit -/

theorem due_iff (s : State) (start : Option Micros) (limit : Nat) :
    s.due start limit = true ↔ ∃ t0, start = some t0 ∧ limit ≤ s.age t0 := by
  cases start <;> simp [State.due]

theorem ageReached_iff (s : State) (ch : Channel) (times : Nat) :
    ageReached s ch times = true ↔
      ∃ c h, ch.config = some c ∧ ch.held = some h ∧ times * c.stale ≤ s.age h.2 := by
  unfold ageReached
  cases ch.config <;> cases ch.held <;> simp

theorem isUsable_iff (c : ChannelState) : c.isUsable = true ↔ c = .valid ∨ c = .stale := by
  cases c <;> simp [ChannelState.isUsable]

theorem unloadDue_iff (s : State) (k : Stand) : unloadDue s k = true ↔
    ∃ t0 p, s.stands[k].unload = .running t0 ∧ s.stands[k].params = some p ∧ p.unload * 1000 ≤ s.age t0 := by
  unfold unloadDue
  cases s.stands[k].unload <;> cases s.stands[k].params <;> simp

theorem positioningDue_iff (s : State) (k : Stand) : positioningDue s k = true ↔ s.actuators[k].mode = .moving ∧
    ∃ t0 p, s.actuators[k].posTimer = some t0 ∧ s.stands[k].params = some p ∧ p.posTimeout * 1000 ≤ s.age t0 := by
  unfold positioningDue
  cases s.stands[k].params <;> simp [due_iff]

theorem breakDue_iff (s : State) (j : Interstand) : breakDue s j = true ↔
    ∃ t0, s.breakTimers[j] = .running t0 ∧ s.line.breakConfirm * 1000 ≤ s.age t0 := by
  unfold breakDue
  cases s.breakTimers[j] <;> simp

theorem keepAliveDue_iff (s : State) (k : Stand) : keepAliveDue s k = true ↔
    ∀ t0, s.actuators[k].lastSent = some t0 → 100000 ≤ s.age t0 := by
  unfold keepAliveDue
  cases s.actuators[k].lastSent with
  | none => simp
  | some t => exact decide_eq_true_iff.trans (by simp [Config.keepAlive])

/-! ### What falls due (notes/assumptions/2) -/

section DueCommands

variable (s : State)

theorem mem_dueCommands (c : Instr) : c ∈ dueCommands s ↔
    (∃ l, frameTimerDue s l = true ∧ .frameTimerExpiry l = c) ∨ (∃ e, staleDue s e = true ∧ .staleExpiry e = c) ∨
    (∃ e, invalidDue s e = true ∧ .invalidExpiry e = c) ∨ (∃ k, unloadDue s k = true ∧ .unloadTimerExpiry k = c) ∨
    (∃ k, replyDue s k = true ∧ .replyTimerExpiry k = c) ∨ (∃ k, positioningDue s k = true ∧ .positioningTimerExpiry k = c) ∨
    ((∃ k, openDue s k = true) ∧ .openTimerExpiry = c) ∨ (∃ j, breakDue s j = true ∧ .breakTimerExpiry j = c) ∨
    (∃ k, keepAliveDue s k = true ∧ .keepAlive k = c) := by
  have hopen : c ∈ (if (List.finRange 6).any (openDue s) then [Instr.openTimerExpiry] else []) ↔
      (∃ k, openDue s k = true) ∧ .openTimerExpiry = c := by
    have hany : (List.finRange 6).any (openDue s) = true ↔ ∃ k, openDue s k = true := by simp
    split
    · next h => rw [List.mem_singleton, eq_comm, and_iff_right (hany.1 h)]
    · next h => simp only [List.not_mem_nil, mt hany.2 h, false_and]
  simp only [dueCommands, List.mem_append, List.mem_map, List.mem_filter, List.mem_finRange, true_and, hopen]

theorem frameTimerExpiry_mem (l : LinkNo) : .frameTimerExpiry l ∈ dueCommands s ↔
    ∃ t0, s.links[l].timer = some t0 ∧ s.line.linkTimeout ≤ s.age t0 := by
  simp [mem_dueCommands, frameTimerDue, due_iff]

theorem staleExpiry_mem (e : EntryNo) : .staleExpiry e ∈ dueCommands s ↔ s.channels[e].state = .valid ∧
    ∃ c h, s.channels[e].config = some c ∧ s.channels[e].held = some h ∧ c.stale ≤ s.age h.2 := by
  simp [mem_dueCommands, staleDue, ageReached_iff]

theorem invalidExpiry_mem (e : EntryNo) : .invalidExpiry e ∈ dueCommands s ↔
    (s.channels[e].state = .valid ∨ s.channels[e].state = .stale) ∧
    ∃ c h, s.channels[e].config = some c ∧ s.channels[e].held = some h ∧ 4 * c.stale ≤ s.age h.2 := by
  simp [mem_dueCommands, invalidDue, ageReached_iff, isUsable_iff]

theorem unloadTimerExpiry_mem (k : Stand) : .unloadTimerExpiry k ∈ dueCommands s ↔
    ∃ t0 p, s.stands[k].unload = .running t0 ∧ s.stands[k].params = some p ∧ p.unload * 1000 ≤ s.age t0 := by
  simp [mem_dueCommands, unloadDue_iff]

theorem replyTimerExpiry_mem (k : Stand) : .replyTimerExpiry k ∈ dueCommands s ↔
    ∃ t0, s.actuators[k].replyTimer = some t0 ∧ 10000 ≤ s.age t0 := by
  simp [mem_dueCommands, replyDue, due_iff, Config.replyTimeout]

theorem positioningTimerExpiry_mem (k : Stand) : .positioningTimerExpiry k ∈ dueCommands s ↔
    s.actuators[k].mode = .moving ∧
    ∃ t0 p, s.actuators[k].posTimer = some t0 ∧ s.stands[k].params = some p ∧ p.posTimeout * 1000 ≤ s.age t0 := by
  simp [mem_dueCommands, positioningDue_iff]

theorem openTimerExpiry_mem : .openTimerExpiry ∈ dueCommands s ↔
    ∃ (k : Stand) (t0 : Micros), s.actuators[k].openTimer = some t0 ∧ s.line.openTimeout * 1000 ≤ s.age t0 := by
  simp [mem_dueCommands, openDue, due_iff]

theorem breakTimerExpiry_mem (j : Interstand) : .breakTimerExpiry j ∈ dueCommands s ↔
    ∃ t0, s.breakTimers[j] = .running t0 ∧ s.line.breakConfirm * 1000 ≤ s.age t0 := by
  simp [mem_dueCommands, breakDue_iff]

theorem keepAlive_mem (k : Stand) : .keepAlive k ∈ dueCommands s ↔
    ∀ t0, s.actuators[k].lastSent = some t0 → 100000 ≤ s.age t0 := by
  simp [mem_dueCommands, keepAliveDue_iff]

end DueCommands

/-! ### The tick -/

/-- R5: a tick changes the clocks, the port and the outputs alone. -/
theorem advanceTime_frame (s : State) : { advanceTime s.stepStart with
    time := s.time, logTime := s.logTime, msPhase := s.msPhase, heldFrom := s.heldFrom, port := s.port, sent := s.sent } = s := by
  unfold advanceTime
  split <;> rfl

theorem advanceTime_time (s : State) : (advanceTime s.stepStart).time = s.time + 1 := by
  unfold advanceTime
  split <;> rfl

theorem advanceTime_port (s : State) : (advanceTime s.stepStart).port = s.port.beginNext := by
  unfold advanceTime
  split <;> rfl

theorem advanceTime_sent (s : State) : (advanceTime s.stepStart).sent = [] := by
  unfold advanceTime
  split <;> rfl

theorem advanceTime_heldFrom (s : State) : (advanceTime s.stepStart).heldFrom = Vector.replicate 6 none := by
  unfold advanceTime
  split <;> rfl

/-- Settles O2: a tick is `idle`, whose queue holds what falls due at the new time and nothing else. -/
theorem emptyQueueTicks : Obligations.EmptyQueueTicks := by
  intro s hs
  have hframe := advanceTime_frame s
  have hpending : (advanceTime s.stepStart).pending = [] := (congrArg State.pending hframe :).trans hs
  have hdue : (idle s).pending = dueCommands (advanceTime s.stepStart) :=
    congrArg (· ++ dueCommands (advanceTime s.stepStart)) hpending
  have hlinks : (advanceTime s.stepStart).links = s.links := (congrArg State.links hframe :)
  have hline : (advanceTime s.stepStart).line = s.line := (congrArg State.line hframe :)
  have hchannels : (advanceTime s.stepStart).channels = s.channels := (congrArg State.channels hframe :)
  have hstands : (advanceTime s.stepStart).stands = s.stands := (congrArg State.stands hframe :)
  have hactuators : (advanceTime s.stepStart).actuators = s.actuators := (congrArg State.actuators hframe :)
  have hbreaks : (advanceTime s.stepStart).breakTimers = s.breakTimers := (congrArg State.breakTimers hframe :)
  refine ⟨idle s, by rw [step, hs], advanceTime_time s, fun hms => ?_, fun hms => ?_, advanceTime_port s, advanceTime_sent s,
    fun k => ?_, ?_, ?_⟩
  · have hrise : s.stepStart.msPhase + 1 < 1000 := by rw [State.stepStart_msPhase]; omega
    have hadvance : advanceTime s.stepStart =
        { s.stepStart with time := s.time + 1, heldFrom := Vector.replicate 6 none, msPhase := s.msPhase + 1 } := if_pos hrise
    exact ⟨(congrArg State.msPhase hadvance :), (congrArg State.logTime hadvance :)⟩
  · have hrise : ¬ s.stepStart.msPhase + 1 < 1000 := by rw [State.stepStart_msPhase]; omega
    have hadvance : advanceTime s.stepStart =
        { s.stepStart with time := s.time + 1, heldFrom := Vector.replicate 6 none, msPhase := 0, logTime := s.logTime + 1 } :=
      if_neg hrise
    exact ⟨(congrArg State.msPhase hadvance :), (congrArg State.logTime hadvance :)⟩
  · show (advanceTime s.stepStart).heldFrom[k] = none
    rw [advanceTime_heldFrom]
    simp
  · exact (congrArg (fun u : State => { u with pending := [] }) hframe).trans (by rw [← hs])
  · rw [hdue, ← hlinks, ← hline, ← hchannels, ← hstands, ← hactuators, ← hbreaks]
    exact ⟨frameTimerExpiry_mem _, staleExpiry_mem _, invalidExpiry_mem _, unloadTimerExpiry_mem _, replyTimerExpiry_mem _,
      positioningTimerExpiry_mem _, openTimerExpiry_mem _, breakTimerExpiry_mem _, keepAlive_mem _⟩

end Sys2Proof.Machine

/-! SUPPORT. POWER_ON (R2, R139): the initial state, and what an asserted EXTERNAL_STOP adds to it. -/

namespace Sys2Proof.Machine

/-- R2: the values of reset, with what lies outside the part's own state. -/
def State.resetKeeping (s : State) : State :=
  { State.reset with externalStop := s.externalStop, pending := s.pending, freeIndex := s.freeIndex }

theorem initialised_released {s : State} (h : s.externalStop = false) : initialised s = s.resetKeeping :=
  if_neg (Bool.eq_false_iff.1 h)

/-- R139: in CONFIG the condition is latched, logged and notified, and starts no trip. -/
theorem initialised_asserted {s : State} (h : s.externalStop = true) : initialised s = { s.resetKeeping with
    faults := State.reset.faults.set 0 ⟨true, [0], 1, some (0, 0), some 0⟩
    logs := State.reset.logs.set LogNo.fault ⟨[⟨0, 0, .fault 0 0 1 true true .config .normal .none⟩], 1⟩
    port := { State.reset.port with
      notices := [.modeChanged none .config .powerOn, .fault 0 0 1 true .config .normal .none] } } :=
  (if_pos h).trans rfl

/-- Settles O4: the fields of `State.reset` are read off; an asserted EXTERNAL_STOP changes one fault entry, one log and the
notice queue. -/
theorem powerOnInitialState : Obligations.PowerOnInitialState := by
  refine ⟨fun s hs => ⟨s.resetKeeping, congrArg Host.Outcome.next (initialised_released hs), ?_⟩,
    fun s hs => ⟨_, congrArg Host.Outcome.next (initialised_asserted hs), ?_⟩⟩
  · refine ⟨rfl, rfl, rfl, rfl, rfl, ?_, rfl, ?_, rfl, rfl, rfl, rfl, rfl, ?_, rfl, ?_, rfl, rfl, ?_, ?_, ?_, ?_, ?_, rfl, rfl,
      ?_, rfl, hs, rfl⟩
    · intro k; simp [State.resetKeeping, State.reset]
    · intro e; simp [State.resetKeeping, State.reset, Channel.unbound]
    · intro p; simp [State.resetKeeping, State.reset, Point.unstarted]
    · intro k; simp [State.resetKeeping, State.reset, FaultEntry.initial]
    · show ∀ k : Kind, Policy.initial[k] = ⟨true, decide (k ∈ ([0, 1, 2, 3, 14, 15, 16] : List Kind))⟩
      decide
    · intro k; simp [State.resetKeeping, State.reset, StandCtl.initial, Holds.empty, EvalCounters.zero]
    · intro k; simp [State.resetKeeping, State.reset, Actuator.initial]
    · intro l; simp [State.resetKeeping, State.reset, Link.initial]
    · intro j; simp [State.resetKeeping, State.reset]
    · intro g; simp [State.resetKeeping, State.reset, Log.empty]
  · refine ⟨rfl, rfl, rfl, hs, rfl, rfl, fun k hk => ?_, rfl, rfl, rfl, rfl⟩
    exact (vector_set_other State.reset.faults 0 k _ hk.symm).trans (by simp [State.reset])

end Sys2Proof.Machine

/-! SUPPORT. CONFIGURE_STAND and CONFIGURE_LINE (R70, R94, R95): one equation for each outcome. -/

namespace Sys2Proof.Machine

/-! ### CONFIGURE_STAND (R94, R95) -/

theorem standOf_val {b : Byte} {k : Stand} (h : b.toNat = k.val + 1) : standOf b = some k := by
  have hrange : 1 ≤ b.toNat ∧ b.toNat ≤ 6 := by omega
  rw [standOf, dif_pos hrange]
  exact congrArg some (Fin.ext (by simp [h]))

theorem standOf_eq_some {b : Byte} {k : Stand} (h : standOf b = some k) : b.toNat = k.val + 1 := by
  unfold standOf at h
  split at h
  · cases h
    show b.toNat = b.toNat - 1 + 1
    omega
  · cases h

/-- The record of a payload, whose ranges are judged apart. -/
def standRecord (p : StandPayload) : StandParams :=
  ⟨p.modulus.toNat, p.zeroForce.toNat, p.offset.toInt, p.gfb.toNat, p.gff.toNat, p.gm.toNat, p.trimLimit.toNat,
    p.stepLimit.toNat, p.deadband.toNat, p.moveBand.toNat, p.posTimeout.toNat, p.bite.toNat, p.limitValue.toNat,
    p.limitScale.toNat, p.unload.toNat, p.openGap.toInt⟩

/-- R94: every parameter in its range. -/
structure StandInRange (k : Stand) (p : StandPayload) : Prop where
  modulus : 1000 ≤ p.modulus.toNat ∧ p.modulus.toNat ≤ 20000
  zeroForce : p.zeroForce.toNat ≤ 100000
  offset : -20000 ≤ p.offset.toInt ∧ p.offset.toInt ≤ 20000
  gains : p.gfb.toNat ≤ 256 ∧ p.gff.toNat ≤ 256
  gm : p.gm.toNat ≤ (if k = 0 ∨ k = 5 then 64 else 0)
  trim : p.trimLimit.toNat ≤ 2000
  step : 1 ≤ p.stepLimit.toNat ∧ p.stepLimit.toNat ≤ 2000
  deadband : p.deadband.toNat ≤ 50
  band : 1 ≤ p.moveBand.toNat ∧ p.moveBand.toNat ≤ 500
  timeout : 50 ≤ p.posTimeout.toNat ∧ p.posTimeout.toNat ≤ 5000
  bite : 100 ≤ p.bite.toNat ∧ p.bite.toNat ≤ 50000
  limit : 1 ≤ p.limitValue.toNat ∧ p.limitScale.toNat ≤ 3
  unload : 5 ≤ p.unload.toNat ∧ p.unload.toNat ≤ 500
  openGap : -100000 ≤ p.openGap.toInt ∧ p.openGap.toInt ≤ 400000

theorem standParamsOf_eq (k : Stand) (p : StandPayload) [Decidable (StandInRange k p)] :
    standParamsOf k p = if StandInRange k p then some (standRecord p) else none := by
  have hgm : (if k = 0 ∨ k = 5 then (64 : Int) else 0) = ((if k = 0 ∨ k = 5 then 64 else 0 : Nat) : Int) := by
    split <;> rfl
  unfold standParamsOf
  refine if_congr ?_ rfl rfl
  dsimp only
  rw [hgm]
  constructor
  · intro h
    refine ⟨?_, ?_, ?_, ?_, ?_, ?_, ?_, ?_, ?_, ?_, ?_, ?_, ?_, ?_⟩ <;> omega
  · rintro ⟨h1, h2, h3, h4, h5, h6, h7, h8, h9, h10, h11, h12, h13, h14⟩
    omega

theorem doConfigureStand_eq {p : StandPayload} {s : State} (hm : s.mode = .config) {k : Stand} (hk : p.stand.toNat = k.val + 1)
    (h : StandInRange k p) : doConfigureStand p s = (okWith [], takeRecord k (standRecord p) s) := by
  classical
  rw [doConfigureStand, if_neg (not_not.2 hm), standOf_val hk]
  simp only [standParamsOf_eq, if_pos h]

theorem doConfigureStand_badValue {p : StandPayload} {s : State} (hm : s.mode = .config)
    (h : ∀ k : Stand, p.stand.toNat = k.val + 1 → ¬ StandInRange k p) : doConfigureStand p s = (refuse .badValue, s) := by
  classical
  rw [doConfigureStand, if_neg (not_not.2 hm)]
  cases hk : standOf p.stand with
  | none => rfl
  | some k => simp only [standParamsOf_eq, if_neg (h k (standOf_eq_some hk))]

/-! ### CONFIGURE_LINE (R70) -/

/-- R70: every line parameter in its range. -/
structure LineInRange (p : LinePayload) : Prop where
  segLen : 100000 ≤ p.segLen.toNat ∧ p.segLen.toNat ≤ 5000000
  timeouts : 500 ≤ p.linkTimeout.toNat ∧ p.linkTimeout.toNat ≤ 20000 ∧ 100 ≤ p.openTimeout.toNat ∧ p.openTimeout.toNat ≤ 3000
  breaks : p.breakThreshold.toNat ≤ 50000 ∧ 1 ≤ p.breakConfirm.toNat ∧ p.breakConfirm.toNat ≤ 50 ∧
    p.breakMinSpeed.toNat ≤ 40000

theorem lineParamsOf_eq (p : LinePayload) [Decidable (LineInRange p)] :
    lineParamsOf p = if LineInRange p then some ⟨p.segLen.toNat, p.linkTimeout.toNat, p.openTimeout.toNat,
      p.breakThreshold.toNat, p.breakConfirm.toNat, p.breakMinSpeed.toNat, p.runLength.toNat⟩ else none := by
  unfold lineParamsOf
  refine if_congr ?_ rfl rfl
  dsimp only
  constructor
  · intro h
    refine ⟨?_, ?_, ?_⟩ <;> omega
  · rintro ⟨h1, h2, h3⟩
    omega

theorem doConfigureLine_eq {p : LinePayload} {s : State} (hm : s.mode = .config) (h : LineInRange p) :
    doConfigureLine p s = (okWith [], { s with line := ⟨p.segLen.toNat, p.linkTimeout.toNat, p.openTimeout.toNat,
      p.breakThreshold.toNat, p.breakConfirm.toNat, p.breakMinSpeed.toNat, p.runLength.toNat⟩ }) := by
  classical
  simp only [doConfigureLine, if_neg (not_not.2 hm), lineParamsOf_eq, if_pos h]

theorem doConfigureLine_badValue {p : LinePayload} {s : State} (hm : s.mode = .config) (h : ¬ LineInRange p) :
    doConfigureLine p s = (refuse .badValue, s) := by
  classical
  simp only [doConfigureLine, if_neg (not_not.2 hm), lineParamsOf_eq, if_neg h]

/-- Settles O17: the ranges are those of `StandInRange` and `LineInRange`, at whose bounds the two outcomes meet. -/
theorem standAndLineConfigured : Obligations.StandAndLineConfigured := by
  refine ⟨fun n p s hfree hm => ⟨?_, fun hbad => ?_⟩, fun n p s hfree hm => ⟨?_, fun hbad => ?_⟩⟩
  · intro k hk m1 m2 z o1 o2 b f g t s1 s2 d v1 v2 p1 p2 e1 e2 l1 l2 u1 u2 x1 x2
    have hrange : StandInRange k p := ⟨⟨m1, m2⟩, z, ⟨o1, o2⟩, ⟨b, f⟩, g, t, ⟨s1, s2⟩, d, ⟨v1, v2⟩, ⟨p1, p2⟩, ⟨e1, e2⟩, ⟨l1, l2⟩,
      ⟨u1, u2⟩, ⟨x1, x2⟩⟩
    exact exec_request (r := .configureStand p) rfl hfree (doConfigureStand_eq (s := s.received) hm hk hrange)
  · refine exec_request (r := .configureStand p) rfl hfree (doConfigureStand_badValue (s := s.received) hm ?_)
    rintro k hk ⟨h1, h2, h3, h4, h5, h6, h7, h8, h9, h10, h11, h12, h13, h14⟩
    have hgm : ¬ (k = 0 ∨ k = 5) → p.gm.toNat = 0 := fun hk => by simpa [hk] using h5
    have hgm' : p.gm.toNat ≤ 64 := by split at h5 <;> omega
    simp only [BitVec.toNat_eq, BitVec.ofNat_eq_ofNat, BitVec.toNat_ofNat, Nat.reducePow, Nat.reduceMod, Fin.ext_iff, ne_eq] at hbad hgm
    omega
  · intro s1 s2 l1 l2 o1 o2 b c1 c2 v
    exact exec_request (r := .configureLine p) rfl hfree
      (doConfigureLine_eq (s := s.received) hm ⟨⟨s1, s2⟩, ⟨l1, l2, o1, o2⟩, ⟨b, c1, c2, v⟩⟩)
  · refine exec_request (r := .configureLine p) rfl hfree (doConfigureLine_badValue (s := s.received) hm ?_)
    rintro ⟨h1, h2, h3⟩
    simp only [BitVec.toNat_eq, BitVec.ofNat_eq_ofNat, BitVec.toNat_ofNat, Nat.reducePow, Nat.reduceMod] at hbad
    omega

end Sys2Proof.Machine

/-! SUPPORT. COMMIT_CONFIG, CONFIG_OPEN and RUN (R7, R8, R10): the conditions that depend on the mode where no channel is lost,
the checks of COMMIT_CONFIG in their order, and what each accepted request leaves. -/

namespace Sys2Proof.Machine

/-! ### The conditions that depend on the mode (R16) -/

theorem channelState_congr {s t : State} (h : t.channels = s.channels) (i : Item) : t.channelState i = s.channelState i := by
  simp only [State.channelState, State.entryOf, h]

theorem NoLoss.congr {s t : State} (h : NoLoss s) (hc : t.channels = s.channels) : NoLoss t := fun i hi => by
  rw [channelState_congr hc i]
  exact h i hi

theorem lossConditions_none {s : State} (h : NoLoss s) : s.lossConditions = [] := by
  unfold State.lossConditions
  have hnone : (lossItems.filter fun i => (s.channelState i).isInvalid) = [] :=
    List.filter_eq_nil_iff.2 fun i hi => by simp [h i hi]
  split
  · rfl
  · rw [hnone]; rfl

theorem lossConditions_config {s : State} (h : s.mode = .config) : s.lossConditions = [] := if_pos h

theorem raiseAll_nil (s : State) : raiseAll [] s = s := rfl

theorem unloadedConditions_none {s : State} (h : s.mode = .run → ∀ k : Stand, s.stands[k].unload ≠ .expired) :
    s.unloadedConditions = [] := by
  unfold State.unloadedConditions
  split
  next hrun =>
    have hnone : ((List.finRange 6).filter fun k => s.stands[k].unload == .expired) = [] :=
      List.filter_eq_nil_iff.2 fun k _ => by simpa using h hrun k
    rw [hnone]; rfl
  · rfl

/-- R16 into READY or THREAD: the conditions of RUN end. -/
theorem modeConditions_idle {s : State} (h1 : s.mode ≠ .run) (h2 : s.mode ≠ .config) (h : NoLoss s) :
    modeConditions s = leaveRun s := by
  have hloss : (leaveRun s).lossConditions = [] := lossConditions_none (h.congr rfl)
  have hun : (leaveRun s).unloadedConditions = [] := unloadedConditions_none fun hr => absurd hr h1
  have hc : ¬ (leaveRun s).mode = .config := h2
  simp only [modeConditions, if_neg h1, if_neg hc, hun, hloss, List.append_nil, raiseAll_nil]

theorem lossesInactive_mode (s : State) : (lossesInactive s).mode = s.mode := by
  simp only [lossesInactive, List.foldl_cons, List.foldl_nil, State.allInactive_mode]

/-- R16 into CONFIG: the conditions of RUN and the losses end. -/
theorem modeConditions_config {s : State} (h : s.mode = .config) : modeConditions s = lossesInactive (leaveRun s) := by
  have h1 : ¬ s.mode = .run := by simp [h]
  have hc : (leaveRun s).mode = .config := h
  have hc' : (lossesInactive (leaveRun s)).mode = .config := (lossesInactive_mode _).trans hc
  have hun : (lossesInactive (leaveRun s)).unloadedConditions = [] :=
    unloadedConditions_none fun hr => absurd (hc'.symm.trans hr) (by simp)
  simp only [modeConditions, if_neg h1, if_pos hc, hun, lossConditions_config hc', List.append_nil, raiseAll_nil]

/-- R16 into RUN: nothing ends, and nothing becomes active where no timer is EXPIRED. -/
theorem modeConditions_run {s : State} (h : s.mode = .run) (hn : NoLoss s) (hu : ∀ k : Stand, s.stands[k].unload ≠ .expired) :
    modeConditions s = s := by
  have hc : ¬ s.mode = .config := by simp [h]
  simp only [modeConditions, if_pos h, if_neg hc, unloadedConditions_none fun _ => hu, lossConditions_none hn, List.append_nil,
    raiseAll_nil]

theorem setMode_running {m : Mode} (s : State) (h1 : m ≠ .config) (h2 : m ≠ .tripped) :
    s.setMode m = { s with mode := m, millStop := false, standTrip := Vector.replicate 6 false } := by
  cases m <;> first | rfl | contradiction

/-! ### COMMIT_CONFIG (R7) -/

theorem roleRefusal_bound {s : State} {i : Item} (h : ∃ e : EntryNo, s.entriesOf i = [e]) : roleRefusal s i = none := by
  obtain ⟨e, he⟩ := h
  simp only [roleRefusal, he]

theorem roles_pass {s : State} (h : RolesBound s) : requiredItems.findSome? (roleRefusal s) = none :=
  List.findSome?_eq_none_iff.2 fun i hi => roleRefusal_bound (h i hi)

theorem roles_fail {s : State} {pre post : List Item} {i : Item} {a : Answer} (hreq : requiredItems = pre ++ i :: post)
    (hpre : ∀ x ∈ pre, ∃ e : EntryNo, s.entriesOf x = [e]) (ha : roleRefusal s i = some a) :
    requiredItems.findSome? (roleRefusal s) = some a := by
  rw [hreq, List.findSome?_append, List.findSome?_eq_none_iff.2 fun x hx => roleRefusal_bound (hpre x hx), List.findSome?_cons, ha]
  rfl

theorem standRefusal_sound {s : State} {k : Stand} (h : StandSound s k) : standRefusal s k = none := by
  obtain ⟨p, hp, hlt⟩ := h
  have hcon : p.consistent = true := decide_eq_true hlt
  simp only [standRefusal, hp, if_pos hcon]

theorem stands_pass {s : State} (h : ∀ k : Stand, StandSound s k) : (List.finRange 6).findSome? (standRefusal s) = none :=
  List.findSome?_eq_none_iff.2 fun k _ => standRefusal_sound (h k)

/-- The first stand refused is the lowest. -/
theorem stands_fail {s : State} {k : Stand} {a : Answer} (h : ∀ j : Stand, j < k → StandSound s j) (ha : standRefusal s k = some a) :
    (List.finRange 6).findSome? (standRefusal s) = some a := by
  have hsplit : ∀ k : Stand, List.finRange 6 = (List.finRange 6).take k.val ++ k :: (List.finRange 6).drop (k.val + 1) := by
    decide
  have hlow : ∀ k : Stand, ∀ x ∈ (List.finRange 6).take k.val, x < k := by decide
  rw [hsplit k, List.findSome?_append, List.findSome?_eq_none_iff.2 fun x hx => standRefusal_sound (h x (hlow k x hx)),
    List.findSome?_cons, ha]
  rfl

theorem latchedTripping_none_of {s : State} (h : NoTripLatched s) : s.latchedTripping = none :=
  List.find?_eq_none.2 fun k _ hk => by
    obtain ⟨ht, hl⟩ := Bool.and_eq_true_iff.1 hk
    exact Bool.false_ne_true ((h k ht).symm.trans hl)

theorem latchedTripping_lowest {s : State} {d : Kind} (ht : s.trips d = true) (hl : s.faults[d].latched = true)
    (hlow : ∀ j : Kind, j < d → s.trips j = true → s.faults[j].latched = false) : s.latchedTripping = some d := by
  have hsplit : ∀ d : Kind, List.finRange 22 = (List.finRange 22).take d.val ++ d :: (List.finRange 22).drop (d.val + 1) := by
    decide
  have hbelow : ∀ d : Kind, ∀ x ∈ (List.finRange 22).take d.val, x < d := by decide
  refine List.find?_eq_some_iff_append.2 ⟨Bool.and_eq_true_iff.2 ⟨ht, hl⟩, _, _, hsplit d, fun x hx => ?_⟩
  rw [Bool.not_eq_true', Bool.eq_false_iff]
  intro hand
  obtain ⟨hx', hxl⟩ := Bool.and_eq_true_iff.1 hand
  exact Bool.false_ne_true ((hlow x (hbelow d x hx) hx').symm.trans hxl)

theorem latchRefusal_lowest {s : State} {d : Kind} (ht : s.trips d = true) (hl : s.faults[d].latched = true)
    (hlow : ∀ j : Kind, j < d → s.trips j = true → s.faults[j].latched = false) :
    latchRefusal s = some ⟨.notReady, [4, BitVec.ofNat 8 d.val, if s.faults[d].active = [] then 0 else 1, 0]⟩ := by
  rw [latchRefusal, latchedTripping_lowest ht hl hlow, Option.map_some]
  cases hact : s.faults[d].active <;> rfl

theorem doCommitConfig_refused {s : State} {a : Answer} (hm : s.mode = .config) (h : commitRefusal s = some a) :
    doCommitConfig s = (a, s) := by simp only [doCommitConfig, if_neg (not_not.2 hm), h]

theorem commitRefusal_role {s : State} {a : Answer} (h : requiredItems.findSome? (roleRefusal s) = some a) :
    commitRefusal s = some a := by simp only [commitRefusal, h]

theorem commitRefusal_stand {s : State} {a : Answer} (hr : RolesBound s) (h : (List.finRange 6).findSome? (standRefusal s) = some a) :
    commitRefusal s = some a := by simp only [commitRefusal, roles_pass hr, h]

theorem commitRefusal_sound {s : State} (hr : RolesBound s) (hs : ∀ k : Stand, StandSound s k) :
    commitRefusal s = latchRefusal s := by simp only [commitRefusal, roles_pass hr, stands_pass hs]

theorem doCommitConfig_passes {s : State} (hm : s.mode = .config) (hr : RolesBound s) (hs : ∀ k : Stand, StandSound s k)
    (hl : NoTripLatched s) (hn : NoLoss s) :
    doCommitConfig s = (okWith [], ((({ s with
      committed := true, mode := .ready, millStop := false, standTrip := Vector.replicate 6 false
      breakTimers := Vector.replicate 5 .stopped } : State).notify (.modeChanged (some .config) .ready .commitConfig)).allInactive
        Kind.stripBreak).allInactive Kind.standUnloaded) := by
  have hpass : commitRefusal s = none := by
    rw [commitRefusal_sound hr hs, latchRefusal, latchedTripping_none_of hl]; rfl
  have hn' : NoLoss (({ s with committed := true } : State).changeMode .ready .commitConfig) := hn.congr rfl
  have hmode : (({ s with committed := true } : State).changeMode .ready .commitConfig).mode = .ready := rfl
  simp only [doCommitConfig, if_neg (not_not.2 hm), hpass]
  rw [modeConditions_idle (by rw [hmode]; decide) (by rw [hmode]; decide) hn', State.changeMode,
    setMode_running _ (by decide) (by decide), hm]
  rfl

/-- Settles O18: the checks of R7 in their order, and the commit where every one passes. -/
theorem commitConfigChecked : Obligations.CommitConfigChecked := by
  refine ⟨fun n s hfree hm hr hs hl hn => ?_, fun n s hfree hm => ⟨fun pre post i hreq hpre => ⟨fun hi => ?_, fun e e' rest hi => ?_⟩,
    fun hr k hk => ⟨fun hp => ?_, fun p hp hlt => ?_⟩, fun hr hs d ht hl hlow => ?_⟩⟩
  · exact exec_request (r := .commitConfig) rfl hfree (doCommitConfig_passes (s := s.received) hm hr hs hl hn)
  · have href : roleRefusal s.received i = some (notReady 0 i.role (i.place.getD 0) 0) := by
      have hi' : s.received.entriesOf i = [] := hi
      simp only [roleRefusal, hi']
    exact exec_request (r := .commitConfig) rfl hfree
      (doCommitConfig_refused (s := s.received) hm (commitRefusal_role (roles_fail hreq hpre href)))
  · have href : roleRefusal s.received i = some (notReady 1 i.role (i.place.getD 0) e.val) := by
      have hi' : s.received.entriesOf i = e :: e' :: rest := hi
      simp only [roleRefusal, hi']
    exact exec_request (r := .commitConfig) rfl hfree
      (doCommitConfig_refused (s := s.received) hm (commitRefusal_role (roles_fail hreq hpre href)))
  · have href : standRefusal s.received k = some (notReady 2 (standLoc k) 0 0) := by
      have hp' : s.received.stands[k].params = none := hp
      simp only [standRefusal, hp']
    exact exec_request (r := .commitConfig) rfl hfree
      (doCommitConfig_refused (s := s.received) hm (commitRefusal_stand hr (stands_fail hk href)))
  · have href : standRefusal s.received k = some (notReady 3 (standLoc k) 0 0) := by
      have hp' : s.received.stands[k].params = some p := hp
      have hcon : ¬ p.consistent = true := fun h => not_lt.2 hlt (of_decide_eq_true h)
      simp only [standRefusal, hp', if_neg hcon]
    exact exec_request (r := .commitConfig) rfl hfree
      (doCommitConfig_refused (s := s.received) hm (commitRefusal_stand hr (stands_fail hk href)))
  · exact exec_request (r := .commitConfig) rfl hfree (doCommitConfig_refused (s := s.received) hm
      ((commitRefusal_sound hr hs).trans (latchRefusal_lowest (s := s.received) ht hl hlow)))

end Sys2Proof.Machine

/-! SUPPORT. CONFIG_OPEN (R8): the WITHDRAWN entries of the schedules, and the conditions that end with the mode. -/

namespace Sys2Proof.Machine

/-! ### Several entries in one log (R171) -/

theorem Log.appendAll_append (g : Log) (n : Nat) (t : Millis) (as bs : List LogContent) :
    g.appendAll n t (as ++ bs) = (g.appendAll n t as).appendAll n t bs := List.foldl_append

/-- Entries appended one after another are in the log that they name, and change nothing else. -/
theorem foldl_append_log {α : Type} (g : LogNo) (f : α → LogContent) : ∀ (cs : List α) (s : State),
    cs.foldl (fun s c => s.append g (f c)) s =
      { s with logs := s.logs.set g (s.logs[g].appendAll Config.logCapacity[g] s.logTime (cs.map f)) }
  | [], s => by simp [Log.appendAll]
  | c :: cs, s => by
    rw [List.foldl_cons, foldl_append_log g f cs (s.append g (f c))]
    simp [State.append, State.setLog, Log.appendAll]

theorem logs_set_same (s : State) (g : LogNo) (x : Log) : (s.logs.set g x)[g] = x := by simp

theorem logs_set_other {g g' : LogNo} (s : State) (x : Log) (h : g' ≠ g) : (s.logs.set g x)[g'] = s.logs[g'] := by
  have hval : g.val ≠ g'.val := fun he => h (Fin.ext he.symm)
  simp [hval]

/-! ### The schedules withdrawn (R8, R92) -/

theorem flatMap_tag (x : InForce) : ∀ n : Nat, (List.range n).flatMap (fun t => [x].filter (·.sched.tag == t)) =
    if x.sched.tag < n then [x] else []
  | 0 => by simp
  | n + 1 => by
    rw [List.range_succ, List.flatMap_append, flatMap_tag x n]
    by_cases hlt : x.sched.tag < n
    · have hne : ¬ x.sched.tag = n := by omega
      simp [hlt, hne, Nat.lt_succ_of_lt hlt]
    · by_cases heq : x.sched.tag = n
      · simp [heq]
      · have hge : ¬ x.sched.tag < n + 1 := by omega
        simp [hlt, heq, hge]

/-- A table of one schedule at most is in tag order as it stands. -/
theorem tableByTag_single {s : State} (h : s.table.length ≤ 1) (ht : ∀ e ∈ s.table, e.sched.tag < 32) : s.tableByTag = s.table := by
  unfold State.tableByTag
  match htab : s.table with
  | [] => simp
  | [x] =>
    rw [flatMap_tag x 32, if_pos (ht x (by simp [htab]))]
  | _ :: _ :: _ => simp [htab] at h

/-- The entries that a withdrawal of every schedule writes. -/
def withdrawals (c : WithdrawCause) (s : State) : List LogContent :=
  (s.queue.zipIdx 1).map (fun x => LogContent.withdrawn x.1.tag c (.pending x.2)) ++
    s.tableByTag.map fun x => LogContent.withdrawn x.sched.tag c .inForce

theorem withdrawAll_eq (c : WithdrawCause) (s : State) : withdrawAll c s = { s with
    queue := [], table := []
    logs := s.logs.set LogNo.schedule (s.logs[LogNo.schedule].appendAll 32 s.logTime (withdrawals c s)) } := by
  have hp := foldl_append_log LogNo.schedule (fun x : Schedule × Nat => LogContent.withdrawn x.1.tag c (.pending x.2))
    (s.queue.zipIdx 1) s
  have hf := foldl_append_log LogNo.schedule (fun x : InForce => LogContent.withdrawn x.sched.tag c .inForce)
    s.tableByTag (withdrawPending c s)
  have htab : (withdrawPending c s).tableByTag = s.tableByTag := by rw [withdrawPending, hp]; rfl
  have hcap : Config.logCapacity[LogNo.schedule] = 32 := rfl
  rw [withdrawAll, withdrawInForce, htab, hf, withdrawPending, hp]
  simp [withdrawals, Log.appendAll_append, hcap]

/-! ### Conditions that end together -/

theorem allInactive_at (s : State) (k d : Kind) : (s.allInactive k).faults[d] =
    { s.faults[d] with active := if d = k then [] else s.faults[d].active } := by
  rw [State.allInactive, setFault_at]
  by_cases h : k = d
  · subst h; simp
  · rw [if_neg h, if_neg (Ne.symm h)]

theorem foldl_allInactive : ∀ (ks : List Kind) (s : State), ∃ f : Vector FaultEntry 22,
    ks.foldl (fun s k => s.allInactive k) s = { s with faults := f } ∧
      ∀ d : Kind, f[d] = { s.faults[d] with active := if d ∈ ks then [] else s.faults[d].active }
  | [], s => ⟨s.faults, rfl, fun d => by simp⟩
  | k :: ks, s => by
    obtain ⟨f, hf, hat⟩ := foldl_allInactive ks (s.allInactive k)
    refine ⟨f, hf, fun d => ?_⟩
    rw [hat d, allInactive_at]
    by_cases hk : d = k <;> by_cases hd : d ∈ ks <;> simp [hk, hd]

/-- R16 into CONFIG: the conditions of RUN (kinds 1 and 2) and the losses (kinds 5 to 11) end, their latches kept. -/
theorem modeConditions_into_config {s : State} (h : s.mode = .config) : ∃ f : Vector FaultEntry 22,
    modeConditions s = { s with breakTimers := Vector.replicate 5 .stopped, faults := f } ∧
      ∀ d : Kind, f[d] = { s.faults[d] with
        active := if d ∈ ([1, 2, 5, 6, 7, 8, 9, 10, 11] : List Kind) then [] else s.faults[d].active } := by
  have hall : modeConditions s = ([1, 2] ++ [5, 6, 7, 8, 9, 10, 11] : List Kind).foldl (fun s k => s.allInactive k)
      { s with breakTimers := Vector.replicate 5 .stopped } := by
    rw [modeConditions_config h, lossesInactive, leaveRun, List.foldl_append]
    rfl
  rw [hall]
  exact foldl_allInactive [1, 2, 5, 6, 7, 8, 9, 10, 11] { s with breakTimers := Vector.replicate 5 .stopped }

/-- Settles O19: the withdrawal of every schedule, then CONFIG. -/
theorem configOpened : Obligations.ConfigOpened := by
  intro n s hfree hm hlen htag
  obtain ⟨f, hf, hat⟩ := modeConditions_into_config
    (s := (withdrawAll .configOpen { s.received with committed := false }).changeMode .config .configOpen) rfl
  have hwith := withdrawAll_eq .configOpen { s.received with committed := false }
  have hact : doConfigOpen s.received = (okWith [], { (withdrawAll .configOpen { s.received with
      committed := false }).changeMode .config .configOpen with breakTimers := Vector.replicate 5 .stopped, faults := f }) := by
    have hm' : s.received.mode = .ready := hm
    rw [doConfigOpen, if_neg (not_not.2 hm'), hf]
  have hlogs : withdrawals .configOpen { s.received with committed := false } =
      (s.queue.zipIdx 1).map (fun c => LogContent.withdrawn c.1.tag .configOpen (.pending c.2)) ++
        s.table.map fun x => LogContent.withdrawn x.sched.tag .configOpen .inForce := by
    rw [withdrawals, tableByTag_single (s := { s.received with committed := false }) hlen htag]; rfl
  rw [hlogs] at hwith
  rw [hwith] at hact hat
  refine ⟨_, exec_request (r := .configOpen) rfl hfree hact, rfl, rfl, rfl, rfl, rfl, rfl, logs_set_same s _ _,
    fun g hg => logs_set_other s _ hg, hat, rfl, ?_, rfl, rfl, rfl, rfl, rfl, rfl, rfl, rfl, rfl, rfl, rfl, rfl, rfl, rfl, rfl, rfl⟩
  exact congrArg (fun m => s.received.port.queueNotice (.modeChanged (some m) .config .configOpen)) hm

end Sys2Proof.Machine

/-! SUPPORT. What a pass over the stands leaves at each of them, and RUN (R10). -/

namespace Sys2Proof.Machine

/-! ### Writing a row back -/

theorem setStand_self (s : State) (k : Stand) : s.setStand k s.stands[k] = s := by simp [State.setStand]

theorem setActuator_self (s : State) (k : Stand) : s.setActuator k s.actuators[k] = s := by simp [State.setActuator]

theorem stands_set_at (s : State) (k j : Stand) (x : StandCtl) : (s.setStand k x).stands[j] = if j = k then x else s.stands[j] := by
  by_cases h : j = k
  · subst h; simp
  · have hval : k.val ≠ j.val := fun he => h (Fin.ext he.symm)
    simp [hval, h]

theorem actuators_set_at (s : State) (k j : Stand) (x : Actuator) :
    (s.setActuator k x).actuators[j] = if j = k then x else s.actuators[j] := by
  by_cases h : j = k
  · subst h; simp
  · have hval : k.val ≠ j.val := fun he => h (Fin.ext he.symm)
    simp [hval, h]

/-! ### A pass over the stands -/

/-- At stand k a pass does what its step for k does in some state in which k stands as at the start. -/
theorem foldl_stands_at {β : Type} {f : Stand → State → State} {P : State → Prop} (get : Stand → State → β)
    (hP : ∀ k s, P s → P (f k s)) (hother : ∀ j k s, P s → j ≠ k → get j (f k s) = get j s) (k : Stand) :
    ∀ (l : List Stand), l.Nodup → ∀ s : State, P s →
      (k ∉ l → get k (l.foldl (fun s k => f k s) s) = get k s) ∧
      (k ∈ l → ∃ u, P u ∧ get k u = get k s ∧ get k (l.foldl (fun s k => f k s) s) = get k (f k u))
  | [], _, s, _ => ⟨fun _ => rfl, fun h => absurd h (by simp)⟩
  | j :: l, hl, s, hs => by
    obtain ⟨hj, hl'⟩ := List.nodup_cons.1 hl
    obtain ⟨hout, hin⟩ := foldl_stands_at get hP hother k l hl' (f j s) (hP j s hs)
    refine ⟨fun hk => ?_, fun hk => ?_⟩
    · rw [List.foldl_cons, hout fun h => hk (List.mem_cons_of_mem _ h)]
      exact hother k j s hs fun h => hk (h ▸ List.mem_cons_self)
    · by_cases hkj : k = j
      · subst hkj
        exact ⟨s, hs, rfl, hout hj⟩
      · obtain ⟨u, hu, hsame, hval⟩ := hin ((List.mem_cons.1 hk).resolve_left hkj)
        exact ⟨u, hu, hsame.trans (hother k j s hs hkj), hval⟩

theorem forStands_at {β : Type} {f : Stand → State → State} {P : State → Prop} (get : Stand → State → β)
    (hP : ∀ k s, P s → P (f k s)) (hother : ∀ j k s, P s → j ≠ k → get j (f k s) = get j s) {s : State} (h : P s) (k : Stand) :
    ∃ u, P u ∧ get k u = get k s ∧ get k (forStands f s) = get k (f k u) :=
  (foldl_stands_at get hP hother k _ (List.nodup_finRange 6) s h).2 (List.mem_finRange k)

/-! ### RUN (R10) -/

theorem judgeAtRun_eq (k : Stand) (s : State) : judgeAtRun k s = s.setStand k { s.stands[k] with
    mode := if s.qualifies k ∧ s.stands[k].holds.isEmpty then .gauge else s.stands[k].mode } := by
  unfold judgeAtRun
  dsimp only
  split
  · rfl
  · exact (setStand_self s k).symm

theorem holds_isEmpty_iff (h : Holds) : h.isEmpty = true ↔ h = ⟨false, false, false, false⟩ := by
  cases h
  simp [Holds.isEmpty, and_assoc]

theorem gaugeFit_iff (s : State) (k : Stand) : s.gaugeFit k = true ↔ s.usable (.force k) = true ∧ s.usable (.gapPos k) = true ∧
    (s.actuators[k].mode = .idle ∨ s.actuators[k].mode = .following) := by
  simp [State.gaugeFit, and_assoc]

/-- RUN judges every stand by its own mode and hold causes, and changes nothing else. -/
theorem judgesAtRun (s : State) : { forStands judgeAtRun s with stands := s.stands } = s ∧
    ∀ k : Stand, (forStands judgeAtRun s).stands[k] = { s.stands[k] with
      mode := if s.qualifies k ∧ s.stands[k].holds.isEmpty then .gauge else s.stands[k].mode } := by
  have hP : ∀ (k : Stand) (u : State), { u with stands := s.stands } = s → { judgeAtRun k u with stands := s.stands } = s :=
    fun k u hu => by rw [judgeAtRun_eq]; exact hu
  refine ⟨forStands_keeps (P := fun u => { u with stands := s.stands } = s) hP rfl, fun k => ?_⟩
  obtain ⟨u, hu, hsame, hval⟩ := forStands_at (f := judgeAtRun) (fun k u => u.stands[k]) hP (fun j k u _ hjk => by
    rw [judgeAtRun_eq, stands_set_at, if_neg hjk]) (s := s) rfl k
  have hq : u.qualifies k = s.qualifies k := (congrArg (fun x => State.qualifies x k) hu :)
  rw [hval, judgeAtRun_eq, stands_set_at, if_pos rfl, hsame, hq]

theorem unstartedPoint_none {s : State} (h : ∀ p : PointNo, s.points[p].started = true) : unstartedPoint s = none :=
  List.find?_eq_none.2 fun p _ hp => by
    rw [h p] at hp
    exact Bool.false_ne_true hp

theorem unstartedPoint_first {s : State} {p : PointNo} (hp : s.points[p].started = false)
    (hlow : ∀ q : PointNo, q < p → s.points[q].started = true) : unstartedPoint s = some p := by
  have hsplit : ∀ p : PointNo, List.finRange 9 = (List.finRange 9).take p.val ++ p :: (List.finRange 9).drop (p.val + 1) := by
    decide
  have hbelow : ∀ p : PointNo, ∀ x ∈ (List.finRange 9).take p.val, x < p := by decide
  refine List.find?_eq_some_iff_append.2 ⟨by rw [hp]; rfl, _, _, hsplit p, fun x hx => ?_⟩
  rw [hlow x (hbelow p x hx)]
  rfl

/-- Settles O21: every point started, the stands are judged; otherwise the first unstarted point is named. -/
theorem runStarts : Obligations.RunStarts := by
  intro n s hfree hm
  have hm' : s.received.mode = .thread := hm
  refine ⟨fun hp hn hu => ?_, fun p hp hlow => ?_⟩
  · obtain ⟨hframe, hat⟩ := judgesAtRun (s.received.changeMode .run .run)
    have hmode : (forStands judgeAtRun (s.received.changeMode .run .run)).mode = .run := (congrArg State.mode hframe :)
    have hchan : (forStands judgeAtRun (s.received.changeMode .run .run)).channels = s.channels :=
      (congrArg State.channels hframe :)
    have hact : doRun s.received = (okWith [], forStands judgeAtRun (s.received.changeMode .run .run)) := by
      rw [doRun, if_neg (not_not.2 hm'), unstartedPoint_none (s := s.received) hp]
      dsimp only
      rw [modeConditions_run hmode (hn.congr hchan) fun k => by rw [hat k]; exact hu k]
    refine ⟨_, exec_request (r := .run) rfl hfree hact, fun k => ?_, ?_⟩
    · rw [hat k]
      have hq : (s.received.changeMode .run .run).qualifies k = s.gaugeFit k := rfl
      simp only [hq, gaugeFit_iff, holds_isEmpty_iff, and_assoc]
      rfl
    · rw [show s.stands = (s.received.changeMode .run .run).stands from rfl, hframe, State.changeMode,
        setMode_running _ (by decide) (by decide), hm']
  · refine exec_request (r := .run) (a := notReady 9 p.val 0 0) rfl hfree ?_
    show doRun s.received = _
    rw [doRun, if_neg (not_not.2 hm'), unstartedPoint_first (s := s.received) hp hlow]

end Sys2Proof.Machine

/-! SUPPORT. SCHEDULE_LOAD, SCHEDULE_WITHDRAW and SCHEDULE_QUERY (R72 to R79): when a record is valid, which tag a load receives, and
one equation for each outcome. -/

namespace Sys2Proof.Machine

/-! ### The record of a payload (R72, R73) -/

theorem recordOf_stands (p : SchedulePayload) (take : TakeMode) (t : Nat) (m : MarkMode) (k : Stand) :
    (recordOf p take t m).stands[k] = targetsOf p.stands[k] := by
  have hmap : (recordOf p take t m).stands = p.stands.map targetsOf := by
    rw [recordOf, ← vector_six (p.stands.map targetsOf)]
    simp
  simp [hmap]

theorem recordOf_record {p : SchedulePayload} {m : MarkMode} (hm : markOf p.mark = some m) (take : TakeMode) (t : Nat) :
    RecordOf (recordOf p take t m) p take t where
  tag := rfl
  take := rfl
  entry := rfl
  stands := recordOf_stands p take t m
  rest := ⟨rfl, rfl, rfl⟩
  mark := by
    refine ⟨fun h => ?_, fun h => ?_⟩ <;> rw [h] at hm <;> exact (Option.some.inj hm).symm

/-- The target of the strip before stand k in a payload. -/
def payloadBefore (p : SchedulePayload) (k : Stand) : Nat :=
  if h : k.val = 0 then p.h0.toNat else (p.stands[k.val - 1]'(by omega)).h.toNat

theorem recordOf_before (p : SchedulePayload) (take : TakeMode) (t : Nat) (m : MarkMode) (k : Stand) :
    (recordOf p take t m).before k = payloadBefore p k := by
  unfold Schedule.before payloadBefore
  split
  · rfl
  · have hstand := recordOf_stands p take t m ⟨k.val - 1, by omega⟩
    exact congrArg StandTargets.h hstand

theorem falls_iff (p : SchedulePayload) : (∀ k : Stand, p.stands[k].h.toNat ≤ payloadBefore p k) ↔
    p.stands[0].h.toNat ≤ p.h0.toNat ∧ ∀ j k : Stand, j.val + 1 = k.val → p.stands[k].h.toNat ≤ p.stands[j].h.toNat := by
  constructor
  · refine fun h => ⟨h 0, fun j k hjk => ?_⟩
    have hk := h k
    rw [payloadBefore, dif_neg (by omega)] at hk
    simpa only [← hjk, Nat.add_sub_cancel, Fin.getElem_fin] using hk
  · rintro ⟨hfirst, hfalls⟩ k
    unfold payloadBefore
    split
    next hk => obtain rfl : k = 0 := Fin.ext hk; exact hfirst
    next hk => exact hfalls ⟨k.val - 1, by omega⟩ k (by simp only; omega)

/-- R73 checks 3 to 5 at one stand of a payload. -/
structure BlockSound (s : State) (p : SchedulePayload) (k : Stand) : Prop where
  exit : 500 ≤ p.stands[k].h.toNat
  falls : p.stands[k].h.toNat ≤ payloadBefore p k
  gaps : -300000 ≤ p.stands[k].smin.toInt ∧ p.stands[k].smin.toInt ≤ p.stands[k].sset.toInt ∧
    p.stands[k].sset.toInt ≤ p.stands[k].smax.toInt ∧ p.stands[k].smax.toInt ≤ 400000
  opens : ∃ r, s.stands[k].params = some r ∧ p.stands[k].smax.toInt < r.openGap
  plastic : 500 ≤ p.stands[k].q.toNat ∧ p.stands[k].q.toNat ≤ 50000 ∧ p.stands[k].f.toNat ≤ 150

theorem standValid_iff (s : State) (p : SchedulePayload) (take : TakeMode) (t : Nat) (m : MarkMode) (k : Stand) :
    standValid s (recordOf p take t m) k = true ↔ BlockSound s p k := by
  have hopen : (match s.stands[k].params with
      | some r => decide (p.stands[k].smax.toInt < r.openGap)
      | none => false) = true ↔ ∃ r, s.stands[k].params = some r ∧ p.stands[k].smax.toInt < r.openGap := by
    cases s.stands[k].params <;> simp
  simp only [standValid, recordOf_stands, recordOf_before, targetsOf, Bool.and_eq_true, decide_eq_true_eq]
  constructor
  · rintro ⟨⟨⟨hexit, hgaps⟩, ho⟩, hq⟩
    refine ⟨?_, ?_, ?_, hopen.1 ho, ?_⟩ <;> omega
  · rintro ⟨hexit, hfalls, hgaps, ho, hq⟩
    refine ⟨⟨⟨?_, ?_⟩, hopen.2 ho⟩, ?_⟩ <;> omega

theorem recordOf_valid {s : State} {p : SchedulePayload} (hmark : p.mark = 1 ∨ p.mark = 2) (take : TakeMode) (t : Nat) (m : MarkMode) :
    (recordOf p take t m).valid s = true ↔ ValidPayload s p := by
  have hall : (List.finRange 6).all (standValid s (recordOf p take t m)) = true ↔ ∀ k : Stand, BlockSound s p k := by
    simp only [List.all_eq_true, List.mem_finRange, true_implies, standValid_iff]
  have hh0 : (recordOf p take t m).h0 = p.h0.toNat := rfl
  have hrest : (recordOf p take t m).ramp = p.ramp.toNat ∧ (recordOf p take t m).tol = p.tol.toNat ∧
    (recordOf p take t m).bin = p.bin.toNat := ⟨rfl, rfl, rfl⟩
  simp only [Schedule.valid, Bool.and_eq_true, decide_eq_true_eq, hall, hh0, hrest]
  constructor
  · rintro ⟨⟨he, hs⟩, hr⟩
    obtain ⟨hfirst, hfalls⟩ := (falls_iff p).1 fun k => (hs k).falls
    exact ⟨by omega, fun k => (hs k).exit, hfirst, hfalls, fun k => (hs k).gaps, fun k => (hs k).opens, fun k => (hs k).plastic,
      by omega, hmark⟩
  · rintro ⟨he, hexits, hfirst, hfalls, hgaps, hopens, hplastic, hr, -⟩
    exact ⟨⟨by omega, fun k => ⟨hexits k, (falls_iff p).2 ⟨hfirst, hfalls⟩ k, hgaps k, hopens k, hplastic k⟩⟩, by omega⟩

theorem validPayload_congr {s t : State} (h : t.stands = s.stands) (p : SchedulePayload) : ValidPayload t p ↔ ValidPayload s p := by
  constructor
  · rintro ⟨h1, h2, h3, h4, h5, h6, h7, h8, h9⟩
    exact ⟨h1, h2, h3, h4, h5, by rwa [h] at h6, h7, h8, h9⟩
  · rintro ⟨h1, h2, h3, h4, h5, h6, h7, h8, h9⟩
    exact ⟨h1, h2, h3, h4, h5, by rwa [h], h7, h8, h9⟩

theorem markOf_eq_some {b : Byte} {m : MarkMode} (h : markOf b = some m) : b = 1 ∨ b = 2 := by
  unfold markOf at h
  split at h
  next h1 => exact .inl h1
  next =>
    split at h
    next h2 => exact .inr h2
    next => exact absurd h (by simp)

theorem markOf_some {b : Byte} (h : b = 1 ∨ b = 2) : ∃ m, markOf b = some m := by
  rcases h with rfl | rfl
  · exact ⟨_, rfl⟩
  · exact ⟨_, rfl⟩

theorem validRecord_some {s : State} {p : SchedulePayload} (h : ValidPayload s p) (htag : p.tag.toNat ≤ 31 ∨ p.tag.toNat = 255)
    (take : TakeMode) : ∃ m, markOf p.mark = some m ∧ validRecord s p take = some (recordOf p take p.tag.toNat m) := by
  obtain ⟨m, hm⟩ := markOf_some h.mark
  refine ⟨m, hm, ?_⟩
  simp only [validRecord, hm]
  exact if_pos ⟨htag, (recordOf_valid h.mark take _ m).2 h⟩

theorem validRecord_none {s : State} {p : SchedulePayload} (h : (31 < p.tag.toNat ∧ p.tag.toNat < 255) ∨ ¬ ValidPayload s p)
    (take : TakeMode) : validRecord s p take = none := by
  cases hm : markOf p.mark with
  | none => simp only [validRecord, hm]
  | some m =>
    simp only [validRecord, hm]
    refine if_neg fun hand => ?_
    obtain ⟨htag, hvalid⟩ := hand
    have hv := (recordOf_valid (markOf_eq_some hm) take _ m).1 hvalid
    rcases h with h | h
    · omega
    · exact h hv

/-! ### The tag (R74, R76) -/

theorem tagInUse_iff (s : State) (t : Nat) :
    s.tagInUse t = true ↔ (∃ c ∈ s.queue, c.tag = t) ∨ ∃ x ∈ s.table, x.sched.tag = t := by
  simp [State.tagInUse]

/-- The tag that a load of a payload tag receives. -/
def Receives (s : State) (tag t : Nat) : Prop :=
  (tag ≤ 31 ∧ t = tag ∧ s.tagInUse t = false) ∨ (tag = 255 ∧ t < 32 ∧ s.tagInUse t = false ∧ ∀ u < t, s.tagInUse u = true)

theorem loadTag_receives {s : State} {tag t : Nat} (h : Receives s tag t) : loadTag s tag = some t := by
  rcases h with ⟨hle, rfl, hfree⟩ | ⟨rfl, hlt, hfree, hlow⟩
  · rw [loadTag, if_neg (by omega), if_neg (by simp [hfree])]
  · rw [loadTag, if_pos rfl, State.freeTag, List.find?_range_eq_some]
    exact ⟨by simp [hfree], by simp [hlt], fun u hu => by simp [hlow u hu]⟩

theorem loadTag_refused {s : State} {tag : Nat} (h : (tag ≤ 31 ∧ s.tagInUse tag = true) ∨ (tag = 255 ∧ ∀ u < 32, s.tagInUse u = true)) :
    loadTag s tag = none := by
  rcases h with ⟨hle, huse⟩ | ⟨rfl, huse⟩
  · rw [loadTag, if_neg (by omega), if_pos huse]
  · rw [loadTag, if_pos rfl, State.freeTag, List.find?_eq_none]
    exact fun u hu => by simp [huse u (List.mem_range.1 hu)]

/-! ### SCHEDULE_LOAD (R75, R77) -/

theorem loadRecord_invalid {s : State} {p : SchedulePayload} {take : TakeMode}
    (h : (31 < p.tag.toNat ∧ p.tag.toNat < 255) ∨ ¬ ValidPayload s p) : loadRecord take p s = (refuse .badValue, s) := by
  rw [loadRecord, validRecord_none h]

theorem loadRecord_tagInUse {s : State} {p : SchedulePayload} {take : TakeMode} (hv : ValidPayload s p)
    (h : (p.tag.toNat ≤ 31 ∧ s.tagInUse p.tag.toNat = true) ∨ (p.tag.toNat = 255 ∧ ∀ u < 32, s.tagInUse u = true)) :
    loadRecord take p s = (refuse .tagInUse, s) := by
  obtain ⟨m, -, hrec⟩ := validRecord_some hv (h.imp And.left And.left) take
  have htag : loadTag s (recordOf p take p.tag.toNat m).tag = none := loadTag_refused h
  simp only [loadRecord, hrec, htag]

/-- A valid load whose tag is free is placed under the tag it receives, if the queue has room for a pending one. -/
theorem loadRecord_receives {s : State} {p : SchedulePayload} {t : Nat} (hv : ValidPayload s p) (ht : Receives s p.tag.toNat t)
    (take : TakeMode) : ∃ c, RecordOf c p take t ∧ loadRecord take p s =
      if take = .atWeld ∧ 8 ≤ s.queue.length then (refuse .queueFull, s) else placeSchedule c s := by
  obtain ⟨m, hm, hrec⟩ := validRecord_some hv (ht.imp And.left And.left) take
  have htag : loadTag s (recordOf p take p.tag.toNat m).tag = some t := loadTag_receives ht
  refine ⟨recordOf p take t m, recordOf_record hm take t, ?_⟩
  simp only [loadRecord, hrec, htag]
  rfl

theorem doLoadNow_ready {s : State} {p : SchedulePayload} (hm : s.mode = .ready) (he : s.entrySchedule = none) :
    doLoadNow p s = loadRecord .now p s := by
  rw [doLoadNow, if_neg (by simp [hm, he])]

theorem doLoadAtWeld_open {s : State} {p : SchedulePayload} (hm : s.mode ≠ .config) : doLoadAtWeld p s = loadRecord .atWeld p s := by
  rw [doLoadAtWeld, if_neg hm]

theorem placeSchedule_now {s : State} {c : Schedule} {t : Nat} (htag : c.tag = t) (htake : c.take = .now) :
    placeSchedule c s = (⟨.ok, [BitVec.ofNat 8 t, 1, 0]⟩,
      ({ s with table := s.table ++ [⟨c, true, 0, none⟩] } : State).append LogNo.schedule (.loaded t .now .inForce)) := by
  unfold placeSchedule
  rw [htake, htag]
  rfl

theorem placeSchedule_atWeld {s : State} {c : Schedule} {t : Nat} (htag : c.tag = t) (htake : c.take = .atWeld) :
    placeSchedule c s = (⟨.ok, [BitVec.ofNat 8 t, 0, BitVec.ofNat 8 (s.queue.length + 1)]⟩,
      ({ s with queue := s.queue ++ [c] } : State).append LogNo.schedule (.loaded t .atWeld (.pending (s.queue.length + 1)))) := by
  have hlen : (s.queue ++ [c]).length = s.queue.length + 1 := by simp
  unfold placeSchedule
  rw [htake, htag]
  simp only [hlen]
  rfl

/-- The two commands of SCHEDULE_LOAD in the modes where they are taken. -/
theorem exec_load {n : Byte} {p : SchedulePayload} {s : State} {c : Instr} {a : Answer} {t : State} (hfree : PortFree s)
    (hc : (c = .scheduleLoadNow n p ∧ s.mode = .ready ∧ s.entrySchedule = none) ∨ (c = .scheduleLoadAtWeld n p ∧ s.mode ≠ .config))
    (h : ∀ take, loadRecord take p s.received = (a, t)) : exec c s = .next (t.replying 0x4B n a.code a.fields) := by
  rcases hc with ⟨rfl, hm, he⟩ | ⟨rfl, hm⟩
  · exact exec_request (r := .scheduleLoad 0 p) rfl hfree ((doLoadNow_ready (s := s.received) hm he).trans (h .now))
  · exact exec_request (r := .scheduleLoad 1 p) rfl hfree ((doLoadAtWeld_open (s := s.received) hm).trans (h .atWeld))

theorem exec_load_neither {n take : Byte} {p : SchedulePayload} {s : State} (hfree : PortFree s) (ht : 1 < take.toNat)
    (hm : s.mode ≠ .config) (hrx : s.port.rx = []) :
    exec (.supervisorFrame (supervisorFrameBytes 0x0B n (requestPayload (.scheduleLoad take p)))) s = .next
      (s.received.replying 0x4B n .badValue []) := by
  have hfits : Fits (.scheduleLoad take p) := by
    show (scheduleBytes take p).length ≤ 240
    rw [scheduleBytes_length]; decide
  have hparse : parseRequest 0x0B (requestPayload (.scheduleLoad take p)) = .request (.scheduleLoad take p) :=
    parseRequest_payload _ hfits
  have h0 : take ≠ 0 := by rintro rfl; exact absurd ht (by decide)
  have h1 : take ≠ 1 := by rintro rfl; exact absurd ht (by decide)
  have hm' : ¬ s.received.mode = .config := hm
  have hanswer : answerFrame ⟨0x0B, n, requestPayload (.scheduleLoad take p)⟩ s.received = (refuse .badValue, s.received) := by
    simp only [answerFrame, hparse, handle, doScheduleLoad, if_neg h0, if_neg h1, if_neg hm']
  rw [exec_goodFrame hfits hfree hrx, hanswer, reply_eq]
  rfl

/-- Settles O26: a valid load with a free tag is placed; the refusals are those of an invalid record, of a tag in use and of a full
queue. -/
theorem schedulesPlaced : Obligations.SchedulesPlaced := by
  intro n p s hfree
  have hsound : ValidPayload s.received p ↔ ValidPayload s p := validPayload_congr (s := s) (t := s.received) rfl p
  refine ⟨tagInUse_iff s, fun t hv ht => ⟨fun hm he => ?_, fun hm hq => ?_, fun hm hq => ?_⟩,
    fun c hc => ⟨fun h => ?_, fun hv h => ?_⟩, fun take ht hm hrx => exec_load_neither hfree ht hm hrx⟩
  · obtain ⟨c, hc, hload⟩ := loadRecord_receives (s := s.received) (hsound.2 hv) ht .now
    have hnow : ¬ (TakeMode.now = .atWeld ∧ 8 ≤ s.received.queue.length) := fun h => absurd h.1 (by decide)
    rw [if_neg hnow, placeSchedule_now hc.tag hc.take] at hload
    exact ⟨c, hc, exec_request (r := .scheduleLoad 0 p) rfl hfree ((doLoadNow_ready (s := s.received) hm he).trans hload)⟩
  · obtain ⟨c, hc, hload⟩ := loadRecord_receives (s := s.received) (hsound.2 hv) ht .atWeld
    have hroom : ¬ (TakeMode.atWeld = .atWeld ∧ 8 ≤ s.received.queue.length) := fun h => absurd hq (not_lt.2 h.2)
    rw [if_neg hroom, placeSchedule_atWeld hc.tag hc.take] at hload
    exact ⟨c, hc, exec_request (r := .scheduleLoad 1 p) rfl hfree ((doLoadAtWeld_open (s := s.received) hm).trans hload)⟩
  · obtain ⟨c, hc, hload⟩ := loadRecord_receives (s := s.received) (hsound.2 hv) ht .atWeld
    have hfull : TakeMode.atWeld = .atWeld ∧ 8 ≤ s.received.queue.length := ⟨rfl, hq⟩
    rw [if_pos hfull] at hload
    exact exec_request (r := .scheduleLoad 1 p) rfl hfree ((doLoadAtWeld_open (s := s.received) hm).trans hload)
  · exact exec_load hfree hc fun take => loadRecord_invalid (s := s.received) (h.imp_right fun hn hv => hn (hsound.1 hv))
  · exact exec_load hfree hc fun take => loadRecord_tagInUse (s := s.received) (hsound.2 hv) h

/-! ### SCHEDULE_WITHDRAW and SCHEDULE_QUERY (R78, R79) -/

theorem tagInUse_false_iff (s : State) (t : Nat) :
    s.tagInUse t = false ↔ (∀ c ∈ s.queue, c.tag ≠ t) ∧ ∀ x ∈ s.table, x.sched.tag ≠ t := by
  simp [State.tagInUse]

theorem doWithdraw_pending {s : State} {tag : Byte} {pre post : List Schedule} {c : Schedule} (hq : s.queue = pre ++ c :: post)
    (hc : c.tag = tag.toNat) (htag : tag.toNat ≤ 31) (hother : ∀ x ∈ pre ++ post, x.tag ≠ tag.toNat)
    (htable : ∀ e ∈ s.table, e.sched.tag ≠ tag.toNat) :
    queuePosition s tag.toNat = pre.length + 1 ∧
    doWithdraw tag s = (okWith [BitVec.ofNat 8 (pre.length + post.length)],
      ({ s with queue := pre ++ post } : State).append LogNo.schedule (.withdrawn c.tag .request (.pending (pre.length + 1)))) := by
  have hpre : ∀ x ∈ pre, x.tag ≠ tag.toNat := fun x hx => hother x (List.mem_append_left _ hx)
  have hpost : ∀ x ∈ post, x.tag ≠ tag.toNat := fun x hx => hother x (List.mem_append_right _ hx)
  have huse : s.tagInUse tag.toNat = true := (tagInUse_iff s _).2 (.inl ⟨c, by simp [hq], hc⟩)
  have hnone : ¬ s.table.any (·.sched.tag == tag.toNat) = true := by simpa using htable
  have hpos : queuePosition s tag.toNat = pre.length + 1 := by
    have hskip : pre.findIdx (·.tag == tag.toNat) = pre.length :=
      List.findIdx_eq_length.2 fun x hx => beq_eq_false_iff_ne.2 (hpre x hx)
    rw [queuePosition, hq, List.findIdx_append, hskip, if_neg (lt_irrefl _), List.findIdx_cons]
    simp [hc]
  have hfilter : s.queue.filter (·.tag ≠ tag.toNat) = pre ++ post := by
    have hkeep : (pre ++ post).filter (·.tag ≠ tag.toNat) = pre ++ post := List.filter_eq_self.2 fun x hx => by
      simpa using hother x hx
    rw [hq, List.filter_append, List.filter_cons, if_neg (by simp [hc]), ← List.filter_append, hkeep]
  refine ⟨hpos, ?_⟩
  simp only [doWithdraw, if_neg (not_lt.2 htag), huse, not_true_eq_false, if_false, if_neg hnone, hpos, hfilter, hc,
    List.length_append, nat8]

theorem doWithdraw_inForce {s : State} {tag : Byte} {e : InForce} (htag : tag.toNat ≤ 31)
    (he : s.table.find? (·.sched.tag == tag.toNat) = some e) : doWithdraw tag s = (⟨.inForce, [tag]⟩, s) := by
  have hany : s.table.any (·.sched.tag == tag.toNat) = true :=
    List.any_eq_true.2 ⟨e, List.mem_of_find?_eq_some he, List.find?_some (p := fun x : InForce => x.sched.tag == tag.toNat) he⟩
  have huse : s.tagInUse tag.toNat = true := by rw [State.tagInUse, hany, Bool.or_true]
  have hbyte : nat8 tag.toNat = [tag] := by simp [nat8]
  simp only [doWithdraw, if_neg (not_lt.2 htag), huse, not_true_eq_false, if_false, hany, if_true, hbyte]

theorem doWithdraw_unused {s : State} {tag : Byte} (htag : tag.toNat ≤ 31) (h : s.tagInUse tag.toNat = false) :
    doWithdraw tag s = (refuse .noSuchTag, s) := by
  simp [doWithdraw, not_lt.2 htag, h]

theorem doWithdraw_above {s : State} {tag : Byte} (htag : 31 < tag.toNat) : doWithdraw tag s = (refuse .badValue, s) := by
  simp only [doWithdraw, if_pos htag]

theorem doScheduleQuery_pending {s : State} {tag : Byte} {c : Schedule} (htag : tag.toNat ≤ 31)
    (htable : ∀ e ∈ s.table, e.sched.tag ≠ tag.toNat) (hq : s.queue.find? (·.tag == tag.toNat) = some c) :
    doScheduleQuery tag s = (okWith (recordBytes c ++ ([0] ++ nat8 (queuePosition s tag.toNat))), s) := by
  have hnone : s.inForce tag.toNat = none := List.find?_eq_none.2 fun e he => by simpa using htable e he
  simp only [doScheduleQuery, if_neg (not_lt.2 htag), hnone, hq]

theorem doScheduleQuery_inForce {s : State} {tag : Byte} {e : InForce} (htag : tag.toNat ≤ 31)
    (he : s.table.find? (·.sched.tag == tag.toNat) = some e) : doScheduleQuery tag s = (okWith (inForceFields s e), s) := by
  have he' : s.inForce tag.toNat = some e := he
  simp only [doScheduleQuery, if_neg (not_lt.2 htag), he']

theorem doScheduleQuery_unused {s : State} {tag : Byte} (htag : tag.toNat ≤ 31) (h : s.tagInUse tag.toNat = false) :
    doScheduleQuery tag s = (refuse .noSuchTag, s) := by
  obtain ⟨hq, ht⟩ := (tagInUse_false_iff s _).1 h
  have hnone : s.inForce tag.toNat = none := List.find?_eq_none.2 fun e he => by simpa using ht e he
  have hnone' : s.queue.find? (·.tag == tag.toNat) = none := List.find?_eq_none.2 fun c hc => by simpa using hq c hc
  simp only [doScheduleQuery, if_neg (not_lt.2 htag), hnone, hnone']

theorem doScheduleQuery_above {s : State} {tag : Byte} (htag : 31 < tag.toNat) : doScheduleQuery tag s = (refuse .badValue, s) := by
  simp only [doScheduleQuery, if_pos htag]

/-- Settles O27: a tag is pending, in force, unused or no tag. -/
theorem withdrawAndQuerySchedule : Obligations.WithdrawAndQuerySchedule := by
  intro n tag s hfree
  refine ⟨fun pre post c hq hc htag hother htable => ?_, fun e htag he => ⟨?_, ?_⟩, fun htag huse => ⟨?_, ?_⟩,
    fun htag => ⟨?_, ?_⟩⟩
  · obtain ⟨hpos, hwith⟩ := doWithdraw_pending (s := s.received) hq hc htag hother htable
    refine ⟨exec_request (r := .scheduleWithdraw tag) rfl hfree hwith, ?_⟩
    have hfind : s.received.queue.find? (·.tag == tag.toNat) = some c := by
      show s.queue.find? _ = _
      rw [hq, List.find?_append, List.find?_eq_none.2 fun x hx => by simpa using hother x (List.mem_append_left _ hx)]
      simp [hc]
    have hquery := doScheduleQuery_pending (s := s.received) htag htable hfind
    rw [hpos] at hquery
    exact exec_request (r := .scheduleQuery tag) rfl hfree hquery
  · exact exec_request (r := .scheduleWithdraw tag) rfl hfree (doWithdraw_inForce (s := s.received) htag he)
  · exact exec_request (r := .scheduleQuery tag) rfl hfree (doScheduleQuery_inForce (s := s.received) htag he)
  · exact exec_request (r := .scheduleWithdraw tag) rfl hfree (doWithdraw_unused (s := s.received) htag huse)
  · exact exec_request (r := .scheduleQuery tag) rfl hfree (doScheduleQuery_unused (s := s.received) htag huse)
  · exact exec_request (r := .scheduleWithdraw tag) rfl hfree (doWithdraw_above (s := s.received) htag)
  · exact exec_request (r := .scheduleQuery tag) rfl hfree (doScheduleQuery_above (s := s.received) htag)

end Sys2Proof.Machine

/-! SUPPORT. SEGMENT_MARK (R162, R163) and LOG_READ (R173 to R175): one equation for each outcome. -/

namespace Sys2Proof.Machine

/-! ### SEGMENT_MARK (R162, R163) -/

theorem markOf_none {b : Byte} (h1 : b ≠ 1) (h2 : b ≠ 2) : markOf b = none := by rw [markOf, if_neg h1, if_neg h2]

theorem doMarkSet_eq {mode : Byte} {m : MarkMode} (h : markOf mode = some m) (first : BitVec 32) (count : BitVec 16) (s : State) :
    doMarkSet first count mode s = markSegments first count true m s := by rw [doMarkSet, h]

theorem doMarkClear_eq {mode : Byte} {m : MarkMode} (h : markOf mode = some m) (first : BitVec 32) (count : BitVec 16) (s : State) :
    doMarkClear first count mode s = markSegments first count false m s := by rw [doMarkClear, h]

theorem markSegments_untracked {s : State} {first : SegNo} (h : ∀ g ∈ s.ring, g.number ≠ first) (count : BitVec 16) (mark : Bool)
    (mode : MarkMode) : markSegments first count mark mode s = (refuse .notTracked, s) := by
  have hnone : s.segment first = none := List.find?_eq_none.2 fun g hg => by simpa using h g hg
  simp only [markSegments, hnone]

/-- The range of a SEGMENT_MARK: its length, its segments in the ring and how many of its numbers are not there. -/
structure MarkRange (s : State) (first : SegNo) (count : BitVec 16) (g last : Segment) (acted : List Segment) (reach missed : Nat) :
    Prop where
  found : s.segment first = some g
  length : markLength s g count = reach
  inRing : acted = s.ring.filter (inMarkRange first reach)
  newest : acted.getLast? = some last
  rest : missed = reach - acted.length

theorem markSegments_range {s : State} {first : SegNo} {count : BitVec 16} {g last : Segment} {acted : List Segment}
    {reach missed : Nat} (h : MarkRange s first count g last acted reach missed) (mark : Bool) (mode : MarkMode) :
    markSegments first count mark mode s =
      (okWith (bytes16 (BitVec.ofNat 16 acted.length) ++ bytes16 (BitVec.ofNat 16 missed)),
        if mark = true ∧ mode = .logged then
          (markRange first reach mark s).append LogNo.defect (.manual g.coil first last.number acted.length)
        else markRange first reach mark s) := by
  have hlast : lastMarked s first reach = last.number := by
    have hl := h.newest
    rw [h.inRing] at hl
    simp only [lastMarked, hl]
  simp only [markSegments, h.found, h.length, hlast, ← h.inRing, h.rest, nat16]

theorem markRange_eq (s : State) (first : SegNo) (reach : Nat) (mark : Bool) : markRange first reach mark s =
    { s with ring := s.ring.map fun x => if (x.number - first).toNat < reach then { x with manual := mark } else x } := by
  simp only [markRange, inMarkRange, decide_eq_true_eq]

/-- Settles O33: a range that is in the ring is marked; a mode that is neither and an untracked first segment are refused. -/
theorem segmentsMarked : Obligations.SegmentsMarked := by
  intro n first count mode s hfree
  refine ⟨fun h1 h2 => ?_, fun hmode hnot => ?_, fun g newest last acted reach missed hg hacted hlast hcount => ?_⟩
  · have hset : doMarkSet first count mode s.received = (refuse .badValue, s.received) := by rw [doMarkSet, markOf_none h1 h2]
    have hclear : doMarkClear first count mode s.received = (refuse .badValue, s.received) := by
      rw [doMarkClear, markOf_none h1 h2]
    exact ⟨exec_request (r := .segmentMark first count 0 mode) rfl hfree hset,
      exec_request (r := .segmentMark first count 1 mode) rfl hfree hclear⟩
  · obtain ⟨m, hm⟩ := markOf_some hmode
    have hset := (doMarkSet_eq hm first count s.received).trans (markSegments_untracked (s := s.received) hnot count true m)
    have hclear := (doMarkClear_eq hm first count s.received).trans (markSegments_untracked (s := s.received) hnot count false m)
    exact ⟨exec_request (r := .segmentMark first count 0 mode) rfl hfree hset,
      exec_request (r := .segmentMark first count 1 mode) rfl hfree hclear⟩
  · have hnum : g.number = first := by simpa using List.find?_some (p := fun x : Segment => x.number == first) hg
    have hrange : MarkRange s.received first count g last acted reach missed := by
      refine ⟨hg, ?_, hacted, hlast, ?_⟩
      · rcases hcount with ⟨hc, hr, -⟩ | ⟨hc, hnew, hr, -, -⟩
        · rw [markLength, if_neg hc, hr]
        · have hnew' : (s.received.ring.filter (·.coil == g.coil)).getLast? = some newest := hnew
          simp only [markLength, if_pos hc, hnew', hr, hnum]
      · rcases hcount with ⟨-, hr, hmiss⟩ | ⟨-, -, -, hlen, hmiss⟩ <;> omega
    have hring := markRange_eq s.received first reach
    refine ⟨fun t ht => ⟨fun hmode => ?_, fun hmode => ?_⟩, fun hmode => ?_⟩
    · have hset := (doMarkSet_eq (mode := mode) (m := .quiet) (by rw [hmode]; rfl) first count s.received).trans
        (markSegments_range hrange true .quiet)
      rw [if_neg (by decide), hring true] at hset
      rw [ht]
      exact exec_request (r := .segmentMark first count 0 mode) rfl hfree hset
    · have hset := (doMarkSet_eq (mode := mode) (m := .logged) (by rw [hmode]; rfl) first count s.received).trans
        (markSegments_range hrange true .logged)
      rw [if_pos ⟨rfl, rfl⟩, hring true] at hset
      rw [ht]
      exact exec_request (r := .segmentMark first count 0 mode) rfl hfree hset
    · obtain ⟨m, hm⟩ := markOf_some hmode
      have hclear := (doMarkClear_eq hm first count s.received).trans (markSegments_range hrange false m)
      rw [if_neg fun h => Bool.false_ne_true h.1, hring false] at hclear
      exact exec_request (r := .segmentMark first count 1 mode) rfl hfree hclear

/-! ### LOG_READ (R173 to R175) -/

theorem Log.since_eq {g : Log} {first : BitVec 32} {d : Nat} {range : List LogEntry} (hd : d = (g.next - first).toNat)
    (hin : 1 ≤ d → d ≤ g.entries.length → range = g.entries.drop (g.entries.length - d))
    (holder : g.entries.length < d ∧ d ≤ 2 ^ 31 → range = g.entries)
    (hnewer : d = 0 ∨ (2 ^ 31 < d ∧ g.entries.length < d) → range = []) : g.since first = range := by
  subst hd
  unfold Log.since Log.isOlder Log.distance
  dsimp only
  split
  next h => exact (hin h.1 h.2).symm
  next h =>
    split
    next ho => exact (holder (of_decide_eq_true ho)).symm
    next ho =>
      have ho' : ¬ _ := fun h => ho (decide_eq_true h)
      exact (hnewer (by omega)).symm

theorem Log.range_eq (g : Log) (first : BitVec 32) (count : BitVec 16) :
    g.range first count.toNat = if count = 0 then g.since first else (g.since first).take count.toNat := by
  have hzero : count = 0 ↔ count.toNat = 0 := BitVec.toNat_eq
  simp only [Log.range, hzero]

theorem logReplyLimit_eq (g : LogNo) : Config.logReplyLimit[g] = [8, 8, 1, 8, 5].getD g.val 0 := by
  revert g; decide

/-- Settles O36: the range by the distance back of the first sequence, cut to the count and then to the reply limit. -/
theorem logsRead : Obligations.LogsRead := by
  intro n x first count s hfree
  have hx : 0 < x.toNat → x ≠ 0 := by rintro h rfl; exact absurd h (by decide)
  refine ⟨fun h5 => ?_, fun g d older range hg hd holder hin hold hnew => ?_, ?_⟩
  · have hact : doLogRead x first count s.received = (refuse .badValue, s.received) := by
      rw [doLogRead, if_neg (hx (by omega)), logNoOf_above h5]
    exact exec_request (r := .logRead x first count) rfl hfree hact
  · have hsince : s.logs[g].since first = range :=
      Log.since_eq hd hin (fun h => hold (holder.trans (decide_eq_true h))) hnew
    have hact : doLogRead x first count s.received = (okWith (logFields s g first count.toNat), s.received) := by
      rw [doLogRead, if_neg (hx (by omega)), logNoOf_val hg]
      rfl
    have hbyte : nat8 (g.val + 1) = [x] := by simp [nat8, ← hg]
    have holder' : s.logs[g].isOlder first = older := by rw [holder, hd]; rfl
    refine ⟨_, _, rfl, rfl, ?_⟩
    have hexec := exec_request (c := .logRead n x first count) (r := .logRead x first count) rfl hfree hact
    simp only [logFields, hbyte, holder', Log.range_eq, hsince, logReplyLimit_eq, nat16, okWith] at hexec
    exact hexec
  · have hact : doLogRead 0 first count s.received =
        (okWith (directoryFields s), { s.received with freeIndex := s.received.freeIndex + 1 }) := rfl
    have hfive : (List.finRange 5).flatMap (directoryEntry s) = directoryEntry s LogNo.fault ++ (directoryEntry s LogNo.defect ++
        (directoryEntry s LogNo.coil ++ (directoryEntry s LogNo.schedule ++ directoryEntry s LogNo.note))) := by
      have hlist : List.finRange 5 = [LogNo.fault, LogNo.defect, LogNo.coil, LogNo.schedule, LogNo.note] := by decide
      simp [hlist]
    have hexec := exec_request (c := .logRead n 0 first count) (r := .logRead 0 first count) rfl hfree hact
    rw [directoryFields, hfive] at hexec
    exact hexec

end Sys2Proof.Machine

/-! SUPPORT. The reply layouts of sections 11.1, 11.3.1, 11.3.3 and 11.3.9: a packed field and its bits, sets of kinds and stands, and
each reply's fields in their order. -/

namespace Sys2Proof.Machine

/-! ### Packed fields -/

theorem bit_ofNat {w n i : Nat} {b : Bool} (hi : i < w) (h : n / 2 ^ i % 2 = b.toNat) : (BitVec.ofNat w n).getLsbD i = b := by
  rw [BitVec.getLsbD_ofNat, Nat.testBit_eq_decide_div_mod_eq, h]
  cases b <;> simp [hi]

theorem optional_eq {α : Type} (f : α → List Byte) (o : Option α) : optional f o = presence (o.map f) := by cases o <;> rfl

theorem flag8_eq (b : Bool) : flag8 b = [BitVec.ofNat 8 b.toNat] := by cases b <;> rfl

theorem nat32_toNat (x : BitVec 32) : nat32 x.toNat = bytes32 x := by simp [nat32]

/-! ### The numbers of the enumerations -/

theorem Mode.num_le (m : Mode) : m.num ≤ 4 := by cases m <;> decide
theorem TripState.num_le (t : TripState) : t.num ≤ 3 := by cases t <;> decide
theorem StandMode.num_le (m : StandMode) : m.num ≤ 4 := by cases m <;> decide
theorem Timer.num_le (t : Timer) : t.num ≤ 2 := by cases t <;> simp [Timer.num]
theorem ActMode.num_le (m : ActMode) : m.num ≤ 6 := by cases m <;> decide
theorem LinkMode.num_le (m : LinkMode) : m.num ≤ 3 := by cases m <;> decide
theorem markNum_le (m : Option MarkMode) : markNum m ≤ 2 := by rcases m with _ | _ | _ <;> decide

/-! ### Sets of numbers -/

/-- The sum of the powers of 2 of a set of numbers below n. -/
def bitSum (f : Nat → Bool) (n : Nat) : Nat := (List.range n).foldl (fun acc i => if f i then acc + 2 ^ i else acc) 0

theorem bitSum_succ (f : Nat → Bool) (n : Nat) : bitSum f (n + 1) = if f n then 2 ^ n + bitSum f n else bitSum f n := by
  simp [bitSum, List.range_succ, List.foldl_append, Nat.add_comm]

theorem bitSum_bits (f : Nat → Bool) : ∀ n : Nat, bitSum f n < 2 ^ n ∧ ∀ i : Nat, (bitSum f n).testBit i = (decide (i < n) && f i)
  | 0 => ⟨by simp [bitSum], fun i => by simp [bitSum]⟩
  | n + 1 => by
    obtain ⟨hlt, hbits⟩ := bitSum_bits f n
    have hnext : bitSum f (n + 1) < 2 ^ (n + 1) := by
      rw [bitSum_succ, Nat.pow_succ]
      split <;> omega
    refine ⟨hnext, fun i => ?_⟩
    rcases Nat.lt_trichotomy i n with hi | rfl | hi
    · have hkeep : (bitSum f (n + 1)).testBit i = (bitSum f n).testBit i := by
        rw [bitSum_succ]
        split
        · exact Nat.testBit_two_pow_add_gt hi _
        · rfl
      simp [hkeep, hbits i, hi, Nat.lt_succ_of_lt hi]
    · have hlast : (bitSum f i).testBit i = false := Nat.testBit_lt_two_pow hlt
      rw [bitSum_succ]
      cases hf : f i
      · simp [hlast]
      · simp [Nat.testBit_two_pow_add_eq, hlast]
    · have hout : ¬ i < n + 1 := by omega
      rw [Nat.testBit_lt_two_pow (lt_of_lt_of_le hnext (Nat.pow_le_pow_right (by decide) (by omega)))]
      simp [hout]

/-- A set of the first n numbers, the numbers being those of `Fin n`. -/
theorem foldl_bits {n : Nat} (f : Fin n → Bool) : ∃ x : Nat,
    (List.finRange n).foldl (fun acc k => if f k then acc + 2 ^ k.val else acc) 0 = x ∧ x < 2 ^ n ∧
      ∀ k : Fin n, x.testBit k.val = f k := by
  let g : Nat → Bool := fun i => if h : i < n then f ⟨i, h⟩ else false
  have hg : ∀ k : Fin n, g k.val = f k := fun k => dif_pos k.isLt
  obtain ⟨hlt, hbits⟩ := bitSum_bits g n
  refine ⟨bitSum g n, ?_, hlt, fun k => by rw [hbits k.val, hg k]; simp⟩
  have hmap : List.range n = (List.finRange n).map Fin.val := (List.map_coe_finRange_eq_range (n := n)).symm
  rw [bitSum, hmap, List.foldl_map]
  exact congrArg (fun h => (List.finRange n).foldl h 0) (funext fun acc => funext fun k => by rw [hg k])

theorem kindSet_layout {p : Kind → Prop} {f : Kind → Bool} (h : ∀ k, f k = true ↔ p k) : KindSetLayout p (kindSet f) := by
  obtain ⟨x, hx, hlt, hbits⟩ := foldl_bits f
  have hhigh : ∀ i, 22 ≤ i → x.testBit i = false := fun i hi =>
    Nat.testBit_lt_two_pow (lt_of_lt_of_le hlt (Nat.pow_le_pow_right (by decide) hi))
  refine ⟨BitVec.ofNat 24 x, by rw [kindSet, hx], fun k => ?_, ?_, ?_⟩
  · have hk : k.val < 24 := by omega
    rw [BitVec.getLsbD_ofNat, hbits k, ← h k]
    simp [hk]
  · rw [BitVec.getLsbD_ofNat, hhigh 22 (le_refl _)]; rfl
  · rw [BitVec.getLsbD_ofNat, hhigh 23 (by decide)]; rfl

theorem standSet_layout (v : Vector Bool 6) : ∃ b : Byte, standSet v = [b] ∧ (∀ k : Stand, b.getLsbD k.val = v[k]) ∧
    packed b.toNat 6 2 = 0 := by
  obtain ⟨x, hx, hlt, hbits⟩ := foldl_bits fun k : Stand => v[k]
  refine ⟨BitVec.ofNat 8 x, ?_, fun k => ?_, ?_⟩
  · exact congrArg nat8 hx
  · have hk : k.val < 8 := by omega
    rw [BitVec.getLsbD_ofNat, hbits k]
    simp [hk]
  · simp only [packed, BitVec.toNat_ofNat]
    omega

theorem firstOut_field (s : State) : FirstOutField s (optional firstOutBytes s.firstOut) := by
  cases hf : s.firstOut with
  | none => exact .inl ⟨hf, rfl⟩
  | some f =>
    refine .inr ⟨f, firstOutBytes f, hf, ⟨BitVec.ofNat 8 (f.kind.val + 32 * f.mode.num), ?_, ?_, rfl⟩, rfl⟩
    all_goals
      have hm := f.mode.num_le
      have hk := f.kind.isLt
      simp only [packed, BitVec.toNat_ofNat]
      omega

/-! ### FAULT_QUERY, CHANNEL_READ and LINK_STATUS -/

theorem finRange_five (f : Interstand → Nat) : (List.finRange 5).foldl (fun acc j => acc + 4 ^ j.val * f j) 0 =
    f 0 + 4 * f 1 + 16 * f 2 + 64 * f 3 + 256 * f 4 := by
  have hlist : List.finRange 5 = [0, 1, 2, 3, 4] := by decide
  simp [hlist]

theorem finRange_eight (f : LinkNo → Nat) : (List.finRange 8).foldl (fun acc j => acc + 4 ^ j.val * f j) 0 =
    f 0 + 4 * f 1 + 16 * f 2 + 64 * f 3 + 256 * f 4 + 1024 * f 5 + 4096 * f 6 + 16384 * f 7 := by
  have hlist : List.finRange 8 = [0, 1, 2, 3, 4, 5, 6, 7] := by decide
  simp [hlist]

theorem breakFields_layout (s : State) (k : Kind) : ∃ b : BitVec 16, breakFields s k = bytes16 b ∧
    (∀ j : Interstand, packed b.toNat (2 * j.val) 2 = if k = 1 then s.breakTimers[j].num else 0) ∧ packed b.toNat 10 6 = 0 := by
  have h0 := s.breakTimers[(0 : Interstand)].num_le
  have h1 := s.breakTimers[(1 : Interstand)].num_le
  have h2 := s.breakTimers[(2 : Interstand)].num_le
  have h3 := s.breakTimers[(3 : Interstand)].num_le
  have h4 := s.breakTimers[(4 : Interstand)].num_le
  have hsum := finRange_five fun j => s.breakTimers[j].num
  let n : Nat := if k = 1 then s.breakTimers[(0 : Interstand)].num + 4 * s.breakTimers[(1 : Interstand)].num +
    16 * s.breakTimers[(2 : Interstand)].num + 64 * s.breakTimers[(3 : Interstand)].num +
      256 * s.breakTimers[(4 : Interstand)].num else 0
  have hdigits : ∀ c : Nat, (c = if k = 1 then 1 else 0) →
      packed (BitVec.ofNat 16 n).toNat 0 2 = c * s.breakTimers[(0 : Interstand)].num ∧
      packed (BitVec.ofNat 16 n).toNat 2 2 = c * s.breakTimers[(1 : Interstand)].num ∧
      packed (BitVec.ofNat 16 n).toNat 4 2 = c * s.breakTimers[(2 : Interstand)].num ∧
      packed (BitVec.ofNat 16 n).toNat 6 2 = c * s.breakTimers[(3 : Interstand)].num ∧
      packed (BitVec.ofNat 16 n).toNat 8 2 = c * s.breakTimers[(4 : Interstand)].num ∧
      packed (BitVec.ofNat 16 n).toNat 10 6 = 0 := by
    rintro c rfl
    simp only [packed, BitVec.toNat_ofNat, n]
    split <;> omega
  obtain ⟨d0, d1, d2, d3, d4, dhigh⟩ := hdigits _ rfl
  refine ⟨BitVec.ofNat 16 n, by rw [breakFields, hsum]; rfl, fun j => ?_, dhigh⟩
  have hscale : ∀ x : Nat, (if k = 1 then 1 else 0) * x = if k = 1 then x else 0 := fun x => by split <;> simp
  rw [← hscale]
  match j with
  | 0 => exact d0
  | 1 => exact d1
  | 2 => exact d2
  | 3 => exact d3
  | 4 => exact d4

theorem faultFields_layout (s : State) (k : Kind) : FaultLayout s k (faultFields s k) := by
  obtain ⟨breaks, hbreaks, hb, hbhigh⟩ := breakFields_layout s k
  obtain ⟨opened, hopened, ho, hohigh⟩ := standSet_layout s.opened
  have he := Bool.toNat_le s.policy[k].enabled
  have ht := Bool.toNat_le s.policy[k].tripping
  have hf := Bool.toNat_le (fixedKind k)
  have hfixed : (BitVec.ofNat 8 (policyNum s.policy[k].enabled s.policy[k].tripping + 4 * (fixedKind k).toNat)).getLsbD 2 =
      fixedKind k := bit_ofNat (by decide) (by unfold policyNum; omega)
  refine ⟨BitVec.ofNat 8 (policyNum s.policy[k].enabled s.policy[k].tripping + 4 * (fixedKind k).toNat), opened, breaks,
    optional firstOutBytes s.firstOut, s.latchedSet, bit_ofNat (by decide) (by unfold policyNum; omega),
    bit_ofNat (by decide) (by unfold policyNum; omega), ?_, ?_, hb, hbhigh, ho, hohigh, firstOut_field s,
    kindSet_layout fun k => Iff.rfl, ?_⟩
  · rw [hfixed, fixedKind_iff]
  · simp only [packed, policyNum, BitVec.toNat_ofNat]
    omega
  · simp only [faultFields, policyByte, hbreaks, hopened, optional_eq, flag8_eq, nat8, nat16, List.cons_append, List.nil_append]
    rfl

theorem channelFields_layout (s : State) (e : EntryNo) : ChannelLayout s e (channelFields s e) := by
  refine ⟨storedConfigBytes s.channels[e].config, fun h => by rw [h]; decide, fun c h => ?_, ?_⟩
  · rw [h]
    simp only [storedConfigBytes, optional_eq, flag8_eq, nat8, nat32, int32, List.cons_append, List.nil_append]
    rfl
  · have hcause : optional (fun x : InvalidCause => nat8 x.num) s.channels[e].state.cause =
        presence (match s.channels[e].state with
          | .invalid c => some [BitVec.ofNat 8 c.num]
          | _ => none) := by cases s.channels[e].state <;> rfl
    rw [channelFields, hcause]
    simp only [optional_eq, nat8, nat16, int32, State.age, nat32_toNat, List.cons_append, List.nil_append,
      funext flag8_eq] <;> rfl

theorem mem_boundTo (s : State) (l : LinkNo) (e : EntryNo) : e ∈ s.boundTo l ↔ s.channels[e].config.map (·.link) = some l := by
  simp only [State.boundTo, List.mem_filter, List.mem_finRange, true_and]
  cases s.channels[e].config <;> simp

theorem linkFields_layout (s : State) (l : LinkNo) : LinkLayout s l (linkFields s l) := by
  refine ⟨s.boundTo l, List.Pairwise.filter _ (List.pairwise_lt_finRange 32), mem_boundTo s l, ?_⟩
  have hflag : flag8 (s.links[l].mode != .disabled) = [if s.links[l].mode = .disabled then 0 else 1] := by
    cases s.links[l].mode <;> rfl
  have hbound : (s.boundTo l).flatMap (fun e => nat8 e.val) = (s.boundTo l).map fun e => BitVec.ofNat 8 e.val :=
    (List.map_eq_flatMap).symm
  simp only [linkFields, hflag, hbound]
  simp only [optional_eq, nat8, nat16, State.age, nat32_toNat, List.cons_append, List.nil_append]

/-! ### SEGMENT_QUERY -/

theorem segmentBytes_layout (g : Segment) : SegmentRecordLayout g (segmentBytes g) := by
  have hw := Bool.toNat_le g.weld
  have hm := Bool.toNat_le g.manual
  have ht := Bool.toNat_le g.tripMark
  have ho := markNum_le g.offGauge
  have hpack : packed (BitVec.ofNat 8 (g.weld.toNat + 2 * g.manual.toNat + 4 * g.tripMark.toNat + 8 * markNum g.offGauge)).toNat 3 2 =
      markNum g.offGauge := by
    simp only [packed, BitVec.toNat_ofNat]
    omega
  have hmean : ∀ m : Option (Int × Nat), optional meanBytes m = measurement m := fun m => optional_eq _ m
  have hest : ∀ x : Estimate, estimateBytes x = estimateEntry x := fun x => by
    simp only [estimateBytes, estimateEntry, optional_eq, nat8, nat32, List.cons_append, List.nil_append]
    rfl
  refine ⟨BitVec.ofNat 8 (g.weld.toNat + 2 * g.manual.toNat + 4 * g.tripMark.toNat + 8 * markNum g.offGauge),
    BitVec.ofNat 8 (g.ramp.getD 0xFF), bit_ofNat (by decide) (by omega), bit_ofNat (by decide) (by omega),
    bit_ofNat (by decide) (by omega), fun h => by rw [hpack, h]; rfl, fun h => by rw [hpack, h]; rfl,
    fun h => by rw [hpack, h]; rfl, ?_, fun h => by rw [h]; rfl, fun i h => by rw [h]; rfl, ?_⟩
  · simp only [packed, BitVec.toNat_ofNat]
    omega
  · simp only [segmentBytes, hmean, funext hest, nat8, List.cons_append, List.nil_append]

theorem pointFields_layout (p : Point) : PointLayout p (pointFields p) := by
  have hs := Bool.toNat_le p.started
  have hc := Bool.toNat_le p.clamped
  have he := Bool.toNat_le p.early
  refine ⟨BitVec.ofNat 8 (p.started.toNat + 2 * p.clamped.toNat + 4 * p.early.toNat), bit_ofNat (by decide) (by omega),
    bit_ofNat (by decide) (by omega), bit_ofNat (by decide) (by omega), ?_, ?_⟩
  · simp only [packed, BitVec.toNat_ofNat]
    omega
  · simp only [pointFields, optional_eq, nat8, nat32, List.cons_append, List.nil_append]
    cases p.started <;> rfl

theorem frozen_iff (s : State) : s.frozen = true ↔ s.trip ≠ .normal := by simp [State.frozen]

theorem substitute_iff (s : State) :
    s.substitute = true ↔ (s.channelState .entryLength).isInvalid = true ∨ s.channelState .entryLength = .noData := by
  simp [State.substitute]

theorem vector_toList {α : Type} {n : Nat} (v : Vector α n) : v.toList = (List.finRange n).map fun k => v[k] := by
  refine List.ext_getElem (by simp) fun i h1 h2 => ?_
  simp

theorem segmentFields_layout {s : State} {g oldest newest : Segment} (ho : s.ring.head? = some oldest)
    (hn : s.ring.getLast? = some newest) : SegmentLayout s g (segmentFields s g) := by
  have hf := Bool.toNat_le s.frozen
  have hs := Bool.toNat_le s.substitute
  have hfbit : (BitVec.ofNat 8 (s.frozen.toNat + 2 * s.substitute.toNat)).getLsbD 0 = s.frozen := bit_ofNat (by decide) (by omega)
  have hsbit : (BitVec.ofNat 8 (s.frozen.toNat + 2 * s.substitute.toNat)).getLsbD 1 = s.substitute :=
    bit_ofNat (by decide) (by omega)
  refine ⟨segmentBytes g, oldest, newest, BitVec.ofNat 8 (s.frozen.toNat + 2 * s.substitute.toNat), fun p => pointFields s.points[p],
    segmentBytes_layout g, ho, hn, by rw [hfbit, frozen_iff], by rw [hsbit, substitute_iff], ?_, fun p => pointFields_layout _, ?_⟩
  · simp only [packed, BitVec.toNat_ofNat]
    omega
  · simp only [segmentFields, ringFields, ho, hn, Option.map_some, Option.getD_some, nat8, nat16, vector_toList, List.flatMap_map,
      List.append_assoc, List.cons_append, List.nil_append]

/-- What each selector names. -/
theorem doSegmentQuery_found {s : State} {sel : Byte} {arg : BitVec 32} {g : Segment} (h : selectSegment s sel arg = some (some g)) :
    doSegmentQuery sel arg s = (okWith (segmentFields s g), s) := by simp only [doSegmentQuery, h]

theorem doSegmentQuery_untracked {s : State} {sel : Byte} {arg : BitVec 32} (h : selectSegment s sel arg = some none) :
    doSegmentQuery sel arg s = (refuse .notTracked, s) := by simp only [doSegmentQuery, h]

theorem doSegmentQuery_bad {s : State} {sel : Byte} {arg : BitVec 32} (h : selectSegment s sel arg = none) :
    doSegmentQuery sel arg s = (refuse .badValue, s) := by simp only [doSegmentQuery, h]

theorem selectSegment_point {s : State} {arg : BitVec 32} {p : PointNo} (h : arg.toNat = p.val) :
    selectSegment s 1 arg = some (if s.points[p].started then s.segment s.points[p].cursor else none) := by
  have hlt : arg.toNat < 9 := by omega
  have hp : (⟨arg.toNat, hlt⟩ : PointNo) = p := Fin.ext h
  subst hp
  exact (if_neg (by decide)).trans ((if_pos rfl).trans (dif_pos hlt))

theorem selectSegment_above {s : State} {arg : BitVec 32} (h : 8 < arg.toNat) : selectSegment s 1 arg = none :=
  (if_neg (by decide)).trans ((if_pos rfl).trans (dif_neg (by omega)))

theorem selectSegment_none {s : State} {sel : Byte} (arg : BitVec 32) (h : 3 < sel.toNat) : selectSegment s sel arg = none := by
  have hne : ∀ b : Byte, b.toNat ≤ 3 → sel ≠ b := fun b hb he => by rw [he] at h; omega
  rw [selectSegment, if_neg (hne 0 (by decide)), if_neg (hne 1 (by decide)), if_neg (hne 2 (by decide)), if_neg (hne 3 (by decide))]

/-- Settles O32: what each selector names, and the reply for the segment named. -/
theorem segmentQueryAnswers : Obligations.SegmentQueryAnswers := by
  intro n arg s hfree
  refine ⟨fun sel g h => ?_, fun h => ?_, fun p hp hst => ?_, fun h => ?_, fun hring sel hsel => ?_, fun sel hsel => ?_⟩
  · have hsel : selectSegment s.received sel arg = some (some g) ∧ g ∈ s.ring := by
      rcases h with ⟨rfl, hg⟩ | ⟨rfl, p, hp, hst, hg⟩ | ⟨rfl, rest, hr⟩ | ⟨rfl, pre, hr⟩
      · exact ⟨congrArg some hg, List.mem_of_find?_eq_some hg⟩
      · rw [selectSegment_point hp]
        have hst' : s.received.points[p].started = true := hst
        rw [if_pos hst']
        exact ⟨congrArg some hg, List.mem_of_find?_eq_some hg⟩
      · have hhead : s.received.ring.head? = some g := by
          show s.ring.head? = _
          rw [hr]; rfl
        exact ⟨congrArg some hhead, by simp [hr]⟩
      · have hlast : s.received.ring.getLast? = some g := by
          show s.ring.getLast? = _
          rw [hr]; simp
        exact ⟨congrArg some hlast, by simp [hr]⟩
    obtain ⟨hfound, hmem⟩ := hsel
    have hne : s.ring ≠ [] := List.ne_nil_of_mem hmem
    refine ⟨_, exec_request (r := .segmentQuery sel arg) rfl hfree (doSegmentQuery_found hfound), ?_⟩
    exact segmentFields_layout (s := s) (List.head?_eq_some_head hne) (List.getLast?_eq_some_getLast hne)
  · have hnone : s.segment arg = none := List.find?_eq_none.2 fun g hg => by simpa using h g hg
    exact exec_request (r := .segmentQuery 0 arg) rfl hfree
      (doSegmentQuery_untracked (s := s.received) (congrArg some hnone))
  · have hst' : ¬ s.received.points[p].started = true := by
      show ¬ s.points[p].started = true
      rw [hst]; decide
    exact exec_request (r := .segmentQuery 1 arg) rfl hfree
      (doSegmentQuery_untracked (s := s.received) ((selectSegment_point hp).trans (by rw [if_neg hst'])))
  · exact exec_request (r := .segmentQuery 1 arg) rfl hfree (doSegmentQuery_bad (s := s.received) (selectSegment_above h))
  · have hnone : selectSegment s.received sel arg = some none := by
      rcases hsel with rfl | rfl
      · exact congrArg (fun r => some (List.head? r)) hring
      · exact congrArg (fun r => some (List.getLast? r)) hring
    exact exec_request (r := .segmentQuery sel arg) rfl hfree (doSegmentQuery_untracked hnone)
  · exact exec_request (r := .segmentQuery sel arg) rfl hfree
      (doSegmentQuery_bad (s := s.received) (selectSegment_none arg hsel))

/-! ### STATUS (section 11.3.1) -/

theorem standStatus_layout (s : State) (k : Stand) : StandLayout s k (standStatus s k) := by
  have hmode := s.stands[k].mode.num_le
  have hunload := s.stands[k].unload.num_le
  have hact := s.actuators[k].mode.num_le
  have h1 := Bool.toNat_le s.stands[k].holds.gapLost
  have h2 := Bool.toNat_le s.stands[k].holds.faulted
  have h3 := Bool.toNat_le s.stands[k].holds.unlinked
  have h4 := Bool.toNat_le s.stands[k].holds.posTimeout
  have hdem := Bool.toNat_le s.actuators[k].demand
  refine ⟨BitVec.ofNat 16 (s.stands[k].mode.num + 8 * s.stands[k].unload.num + 32 * s.stands[k].holds.num +
    512 * s.actuators[k].mode.num + 4096 * s.actuators[k].demand.toNat), ?_, ?_, bit_ofNat (by decide) ?_, bit_ofNat (by decide) ?_,
    bit_ofNat (by decide) ?_, bit_ofNat (by decide) ?_, ?_, bit_ofNat (by decide) ?_, ?_, ?_⟩
  on_goal 10 =>
    simp only [standStatus, optional_eq, nat16, int16, List.flatMap_cons, List.flatMap_nil, List.append_assoc,
      List.append_nil]
    rfl
  all_goals
    simp only [packed, BitVec.toNat_ofNat, Holds.num]
    omega

theorem tableByTag_layout {s : State} (h : ∀ y ∈ s.table, y.sched.tag < 32) :
    List.Perm s.tableByTag s.table ∧ s.tableByTag.Pairwise (fun x y => x.sched.tag ≤ y.sched.tag) := by
  have hprefix : ∀ n : Nat, List.Perm ((List.range n).flatMap fun t => s.table.filter (·.sched.tag == t))
        (s.table.filter fun y => decide (y.sched.tag < n)) ∧
      ((List.range n).flatMap fun t => s.table.filter (·.sched.tag == t)).Pairwise fun x y => x.sched.tag ≤ y.sched.tag := by
    intro n
    induction n with
    | zero => simp
    | succ n ih =>
      obtain ⟨hperm, hpair⟩ := ih
      rw [List.range_succ, List.flatMap_append]
      have hsplit := List.filter_append_perm (fun y : InForce => decide (y.sched.tag < n))
        (s.table.filter fun y => decide (y.sched.tag < n + 1))
      have hlow : (s.table.filter fun y => decide (y.sched.tag < n + 1)).filter (fun y => decide (y.sched.tag < n)) =
          s.table.filter fun y => decide (y.sched.tag < n) := by
        rw [List.filter_filter]
        refine List.filter_congr fun y _ => ?_
        rw [Bool.eq_iff_iff]
        simp only [Bool.and_eq_true, decide_eq_true_eq]
        omega
      have hat : (s.table.filter fun y => decide (y.sched.tag < n + 1)).filter (fun y => !decide (y.sched.tag < n)) =
          s.table.filter (·.sched.tag == n) := by
        rw [List.filter_filter]
        refine List.filter_congr fun y _ => ?_
        rw [Bool.eq_iff_iff]
        simp only [Bool.and_eq_true, Bool.not_eq_true', decide_eq_true_eq, decide_eq_false_iff_not, beq_iff_eq]
        omega
      rw [hlow, hat] at hsplit
      have hone : [n].flatMap (fun t => s.table.filter (·.sched.tag == t)) = s.table.filter (·.sched.tag == n) := by simp
      rw [hone]
      refine ⟨(hperm.append_right _).trans hsplit, List.pairwise_append.2 ⟨hpair, ?_, fun x hx y hy => ?_⟩⟩
      · refine List.pairwise_of_forall_mem_list fun x hx y hy => ?_
        simp only [List.mem_filter, beq_iff_eq] at hx hy
        omega
      · have hx' := hperm.mem_iff.1 hx
        simp only [List.mem_filter, decide_eq_true_eq, beq_iff_eq] at hx' hy
        omega
  obtain ⟨hperm, hpair⟩ := hprefix 32
  refine ⟨hperm.trans (List.Perm.of_eq (List.filter_eq_self.2 fun y hy => decide_eq_true (h y hy))), hpair⟩

theorem linkStates_layout (s : State) : ∃ b : BitVec 16, linkStates s = bytes16 b ∧
    ∀ l : LinkNo, packed b.toNat (2 * l.val) 2 = s.links[l].mode.num := by
  have h0 := s.links[(0 : LinkNo)].mode.num_le
  have h1 := s.links[(1 : LinkNo)].mode.num_le
  have h2 := s.links[(2 : LinkNo)].mode.num_le
  have h3 := s.links[(3 : LinkNo)].mode.num_le
  have h4 := s.links[(4 : LinkNo)].mode.num_le
  have h5 := s.links[(5 : LinkNo)].mode.num_le
  have h6 := s.links[(6 : LinkNo)].mode.num_le
  have h7 := s.links[(7 : LinkNo)].mode.num_le
  have hsum := finRange_eight fun l => s.links[l].mode.num
  refine ⟨_, rfl, fun l => ?_⟩
  rw [hsum]
  match l with
  | 0 => show packed _ 0 2 = _; simp only [packed, BitVec.toNat_ofNat]; omega
  | 1 => show packed _ 2 2 = _; simp only [packed, BitVec.toNat_ofNat]; omega
  | 2 => show packed _ 4 2 = _; simp only [packed, BitVec.toNat_ofNat]; omega
  | 3 => show packed _ 6 2 = _; simp only [packed, BitVec.toNat_ofNat]; omega
  | 4 => show packed _ 8 2 = _; simp only [packed, BitVec.toNat_ofNat]; omega
  | 5 => show packed _ 10 2 = _; simp only [packed, BitVec.toNat_ofNat]; omega
  | 6 => show packed _ 12 2 = _; simp only [packed, BitVec.toNat_ofNat]; omega
  | 7 => show packed _ 14 2 = _; simp only [packed, BitVec.toNat_ofNat]; omega

theorem linkSum_eq (s : State) (f : Link → Nat) : linkSum s f = min (s.links.toList.map f).sum 65535 := by
  have hfold : ∀ (l : List LinkNo) (a : Nat), l.foldl (fun acc x => acc + f s.links[x]) a = a + (l.map fun x => f s.links[x]).sum := by
    intro l
    induction l with
    | nil => simp
    | cons x l ih => intro a; rw [List.foldl_cons, ih, List.map_cons, List.sum_cons, Nat.add_assoc]
  rw [linkSum, hfold, vector_toList, List.map_map, Nat.zero_add]
  rfl

/-- The fields of a STATUS reply where the tables keep their capacities, which the packed counts need. -/
theorem statusFields_layout {s : State} (hlen : s.table.length ≤ 3 ∧ s.queue.length ≤ 8 ∧ s.transitions.length ≤ 2 ∧
    s.ring.length ≤ 256 ∧ s.reports.length ≤ 4) (htag : ∀ y ∈ s.table, y.sched.tag < 32) : StatusLayout s (statusFields s) := by
  obtain ⟨hperm, hpair⟩ := tableByTag_layout htag
  obtain ⟨links, hlinks, hl⟩ := linkStates_layout s
  have hmode := s.mode.num_le
  have htrip := s.trip.num_le
  have hcom := Bool.toNat_le s.committed
  have hactive : KindSetLayout (fun k => s.faults[k].active ≠ []) (kindSet fun k => !s.faults[k].active.isEmpty) :=
    kindSet_layout fun k => by simp
  have htags : s.tableByTag.flatMap (fun e => nat8 (e.sched.tag + 128 * e.isEntry.toNat)) =
      s.tableByTag.map fun x => BitVec.ofNat 8 (x.sched.tag + if x.isEntry = true then 128 else 0) := by
    rw [List.map_eq_flatMap]
    refine congrArg (fun f => s.tableByTag.flatMap f) (funext fun e => ?_)
    cases e.isEntry <;> rfl
  refine ⟨BitVec.ofNat 8 (s.mode.num + 8 * s.trip.num + 32 * s.committed.toNat),
    BitVec.ofNat 8 (s.table.length + 4 * s.queue.length + 64 * s.transitions.length),
    BitVec.ofNat 16 (s.ring.length + 4096 * s.reports.length), links, s.latchedSet, _, optional firstOutBytes s.firstOut, standStatus s,
    s.tableByTag, ?_, ?_, bit_ofNat (by decide) (by omega), ?_, kindSet_layout fun k => Iff.rfl, hactive, firstOut_field s,
    standStatus_layout s, ?_, ?_, ?_, hperm, hpair, ?_, ?_, ?_, ?_, hl, ?_⟩
  on_goal 11 =>
    rw [statusFields, htags, hlinks]
    simp only [linkSum_eq, portFields, nat8, nat16, List.flatMap_cons, List.flatMap_nil, List.append_assoc, List.append_nil,
      List.cons_append, List.nil_append]
    cases s.ring.head? <;> cases s.ring.getLast? <;> rfl
  all_goals
    simp only [packed, BitVec.toNat_ofNat]
    omega

/-- Settles O30: each query's fields have the layout that the spec spells out. -/
theorem queriesAnswer : Obligations.QueriesAnswer := by
  intro n x s hfree
  refine ⟨⟨statusFields s.received, exec_request (r := .status) rfl hfree rfl, fun hcap htag => ?_⟩, fun k hk => ?_, fun h => ?_,
    fun e he => ?_, fun h => ?_, fun l hl => ?_, fun h => ?_, ?_⟩
  · exact statusFields_layout (s := s.received) ⟨hcap.table, hcap.queue, hcap.transitions, hcap.ring, hcap.reports⟩ htag
  · have hact : doFaultQuery x s.received = (okWith (faultFields s k), s.received) := by
      rw [doFaultQuery, kindOf_val hk]; rfl
    exact ⟨_, exec_request (r := .faultQuery x) rfl hfree hact, faultFields_layout s k⟩
  · have hact : doFaultQuery x s.received = (refuse .badValue, s.received) := by rw [doFaultQuery, kindOf_above h]
    exact exec_request (r := .faultQuery x) rfl hfree hact
  · have hno : entryNoOf x = some e := (dif_pos (by omega)).trans (congrArg some (Fin.ext he))
    have hact : doChannelRead x s.received = (okWith (channelFields s e), s.received) := by rw [doChannelRead, hno]; rfl
    exact ⟨_, exec_request (r := .channelRead x) rfl hfree hact, channelFields_layout s e⟩
  · have hno : entryNoOf x = none := dif_neg (by omega)
    have hact : doChannelRead x s.received = (refuse .badValue, s.received) := by rw [doChannelRead, hno]
    exact exec_request (r := .channelRead x) rfl hfree hact
  · have hno : linkNoOf x = some l := (dif_pos (by omega)).trans (congrArg some (Fin.ext hl))
    have hact : doLinkStatus x s.received = (okWith (linkFields s l), s.received) := by rw [doLinkStatus, hno]; rfl
    exact ⟨_, exec_request (r := .linkStatus x) rfl hfree hact, linkFields_layout s l⟩
  · have hno : linkNoOf x = none := dif_neg (by omega)
    have hact : doLinkStatus x s.received = (refuse .badValue, s.received) := by rw [doLinkStatus, hno]
    exact exec_request (r := .linkStatus x) rfl hfree hact
  · exact ⟨rfl, rfl, rfl, rfl, rfl, rfl, fun _ => rfl, rfl, rfl, fun _ => rfl, fun _ => ⟨rfl, rfl⟩⟩

end Sys2Proof.Machine

/-! SUPPORT. The arithmetic of the control: rounding (R4), ramps (R86), bins (R157) and what the guards of an evaluation let pass
(R109 to R112). -/

namespace Sys2Proof.Machine

/-! ### Rounding (R4) -/

theorem roundDiv_zero {d : Int} (hd : 0 < d) : roundDiv 0 d = 0 := by
  rw [roundDiv, if_pos (le_refl 0)]
  exact Int.ediv_eq_zero_of_lt (by omega) (by omega)

theorem roundDiv_neg (n : Int) {d : Int} (hd : 0 < d) : roundDiv (-n) d = -roundDiv n d := by
  rcases lt_trichotomy n 0 with hn | rfl | hn
  · rw [roundDiv, roundDiv, if_pos (by omega), if_neg (by omega), Int.neg_neg]
  · rw [Int.neg_zero, roundDiv_zero hd, Int.neg_zero]
  · rw [roundDiv, roundDiv, if_neg (by omega), if_pos (by omega), Int.neg_neg]

/-- Of a number that is not negative: the quotient rounded, halves up. -/
theorem roundDiv_between {n d : Int} (hn : 0 ≤ n) (hd : 0 < d) :
    2 * (roundDiv n d * d) ≤ 2 * n + d ∧ 2 * n < 2 * (roundDiv n d * d) + d := by
  rw [roundDiv, if_pos hn]
  have hle := Int.ediv_mul_le (2 * n + d) (show 2 * d ≠ 0 by omega)
  have hlt := Int.lt_ediv_add_one_mul_self (2 * n + d) (show 0 < 2 * d by omega)
  constructor <;> linarith

theorem roundDiv_nonneg {n d : Int} (hn : 0 ≤ n) (hd : 0 < d) : 0 ≤ roundDiv n d := by
  rw [roundDiv, if_pos hn]
  exact Int.ediv_nonneg (by omega) (by omega)

/-- R4: to the nearest, halves away from zero. -/
theorem roundDiv_nearest (n : Int) {d : Int} (hd : 0 < d) : 2 * |roundDiv n d * d - n| ≤ d ∧
    (2 * |roundDiv n d * d - n| = d → |n| < |roundDiv n d * d|) := by
  have hpos : ∀ m : Int, 0 ≤ m → 2 * |roundDiv m d * d - m| ≤ d ∧ (2 * |roundDiv m d * d - m| = d → |m| < |roundDiv m d * d|) := by
    intro m hm
    obtain ⟨hle, hlt⟩ := roundDiv_between hm hd
    have hq : 0 ≤ roundDiv m d * d := Int.mul_nonneg (roundDiv_nonneg hm hd) (by omega)
    rw [abs_of_nonneg hm, abs_of_nonneg hq]
    rcases abs_cases (roundDiv m d * d - m) with ⟨habs, -⟩ | ⟨habs, -⟩ <;> rw [habs] <;> constructor <;> intros <;> linarith
  rcases le_total 0 n with hn | hn
  · exact hpos n hn
  · have hneg := hpos (-n) (by omega)
    have hflip : roundDiv (-n) d * d - -n = -(roundDiv n d * d - n) := by rw [roundDiv_neg n hd]; ring
    have hflip' : roundDiv (-n) d * d = -(roundDiv n d * d) := by rw [roundDiv_neg n hd]; ring
    rwa [hflip, hflip', abs_neg, abs_neg, abs_neg] at hneg

theorem roundDiv_le {n d k : Int} (hn : 0 ≤ n) (hd : 0 < d) (hk : n ≤ k * d) : roundDiv n d ≤ k := by
  obtain ⟨hle, -⟩ := roundDiv_between hn hd
  by_contra hlt
  have hge : (k + 1) * d ≤ roundDiv n d * d := Int.mul_le_mul_of_nonneg_right (by omega) (by omega)
  linarith

/-! ### Ramps and bins (R86, R157) -/

theorem ramped_between (a b : Int) (i w : Nat) (h : i < w) : min a b ≤ ramped a b i w ∧ ramped a b i w ≤ max a b := by
  have hw : (0 : Int) < w + 1 := by omega
  have hup : ∀ c : Int, 0 ≤ c → 0 ≤ roundDiv (c * (i + 1)) (w + 1) ∧ roundDiv (c * (i + 1)) (w + 1) ≤ c := fun c hc => by
    have hprod : 0 ≤ c * (i + 1) := Int.mul_nonneg hc (by omega)
    exact ⟨roundDiv_nonneg hprod hw, roundDiv_le hprod hw (Int.mul_le_mul_of_nonneg_left (by omega) hc)⟩
  unfold ramped
  rcases le_total a b with hab | hab
  · have hb := hup (b - a) (by omega)
    omega
  · have hb := hup (a - b) (by omega)
    have hflip : (b - a) * ((i : Int) + 1) = -((a - b) * (i + 1)) := by ring
    rw [hflip, roundDiv_neg _ hw]
    omega

theorem binOf_val (d w : Int) : ((binOf d w).val : Int) = max 0 (min (floorDiv d w + 8) 15) := by
  simp only [binOf, clampInt]
  omega

theorem floorDiv_lt {d w b : Int} (hw : 0 < w) : floorDiv d w < b ↔ d < b * w := by
  rw [floorDiv, Int.fdiv_eq_ediv_of_nonneg _ hw.le, Int.ediv_lt_iff_lt_mul hw]

theorem bin_lowest {d w : Int} (hw : 0 < w) : binOf d w = 0 ↔ d < -7 * w := by
  have hval := binOf_val d w
  rw [← floorDiv_lt hw, Fin.ext_iff]
  show (binOf d w).val = 0 ↔ _
  omega

theorem bin_highest {d w : Int} (hw : 0 < w) : binOf d w = 15 ↔ 7 * w ≤ d := by
  have hval := binOf_val d w
  rw [← not_lt, ← floorDiv_lt hw, Fin.ext_iff]
  show (binOf d w).val = 15 ↔ _
  omega

theorem bin_inner {d w : Int} (hw : 0 < w) {b : Fin 16} (h0 : 0 < b) (h15 : b < 15) :
    binOf d w = b ↔ ((b.val : Int) - 8) * w ≤ d ∧ d < ((b.val : Int) - 7) * w := by
  have hval := binOf_val d w
  rw [← not_lt, ← floorDiv_lt hw, ← floorDiv_lt hw, Fin.ext_iff]
  have h0' : 0 < b.val := h0
  have h15' : b.val < 15 := h15
  omega

/-! ### The guards of an evaluation (R109 to R112) -/

theorem clampInt_between {x lo hi : Int} (h : lo ≤ hi) : lo ≤ clampInt x lo hi ∧ clampInt x lo hi ≤ hi := by
  unfold clampInt
  omega

/-- R111: what the force guard makes of a reference. -/
theorem forceGuarded_cases (p : StandParams) (l : Int) (force : Option Int) (x : Int) :
    (forceGuarded p (some l) force x = x ∧ ∀ f, force = some f → p.nearLevel ≤ f → l ≤ x) ∨
      (forceGuarded p (some l) force x = l ∧ x < l) := by
  unfold forceGuarded
  cases force with
  | none => exact .inl ⟨rfl, fun f hf => absurd hf (by simp)⟩
  | some f =>
    dsimp only
    split
    next h => exact .inr ⟨rfl, h.2⟩
    next h =>
      refine .inl ⟨rfl, fun f' hf hn => ?_⟩
      obtain rfl := Option.some.inj hf
      by_contra hlt
      exact h ⟨hn, lt_of_not_ge hlt⟩

/-- A reference that is sent is neither blocked nor within the deadband. -/
theorem guards_sent {p : StandParams} {last force : Option Int} {smin smax raw r : Int}
    (h : (guards p last smin smax force raw).send = some r) :
    r = forceGuarded p last force (stepLimited p last (clampInt raw smin smax)) ∧
      smin ≤ stepLimited p last (clampInt raw smin smax) ∧ stepLimited p last (clampInt raw smin smax) ≤ smax ∧
      isSent p last r = true := by
  simp only [guards] at h
  split at h
  · exact absurd h (by simp)
  next hb =>
    split at h
    next hs =>
      obtain rfl := Option.some.inj h
      simp only [decide_eq_true_eq, not_or, not_lt] at hb
      exact ⟨rfl, hb.1, hb.2, hs⟩
    · exact absurd h (by simp)

theorem guards_within {p : StandParams} {last force : Option Int} {smin smax raw r : Int} (hlim : smin ≤ smax) (hstep : 0 ≤ p.stepLimit)
    (hlast : ∀ l, last = some l → smin ≤ l ∧ l ≤ smax) (h : (guards p last smin smax force raw).send = some r) :
    smin ≤ r ∧ r ≤ smax ∧
      (∀ l, last = some l → |r - l| ≤ p.stepLimit ∧ p.deadband ≤ |r - l| ∧ r ≠ l ∧ (∀ f, force = some f → p.nearLevel ≤ f → l ≤ r)) ∧
      (last = none → r = clampInt raw smin smax) := by
  obtain ⟨hr, hlo, hhi, hsent⟩ := guards_sent h
  cases last with
  | none =>
    obtain ⟨hc1, hc2⟩ := clampInt_between (x := raw) hlim
    have hr' : r = clampInt raw smin smax := hr
    exact ⟨hr' ▸ hc1, hr' ▸ hc2, fun l hl => absurd hl (by simp), fun _ => hr'⟩
  | some l =>
    obtain ⟨hl1, hl2⟩ := hlast l rfl
    obtain ⟨hdead, hone⟩ := of_decide_eq_true hsent
    have hne : r ≠ l := by rintro rfl; simp at hone
    have hlimited : stepLimited p (some l) (clampInt raw smin smax) =
        clampInt (clampInt raw smin smax) (l - p.stepLimit) (l + p.stepLimit) := rfl
    have hbound := clampInt_between (x := clampInt raw smin smax) (show l - p.stepLimit ≤ l + p.stepLimit by omega)
    rw [← hlimited] at hbound
    rcases forceGuarded_cases p l force (stepLimited p (some l) (clampInt raw smin smax)) with ⟨hg, hguard⟩ | ⟨hg, -⟩
    · rw [hg] at hr
      refine ⟨by omega, by omega, fun l' hl' => ?_, fun hl' => absurd hl' (by simp)⟩
      obtain rfl := Option.some.inj hl'
      exact ⟨abs_le.2 ⟨by omega, by omega⟩, hdead, hne, fun f hf hn => hr ▸ hguard f hf hn⟩
    · exact absurd (hr.trans hg) hne

theorem guards_blocked {p : StandParams} {l : Int} {force : Option Int} {smin smax raw : Int}
    (hstep : 0 ≤ p.stepLimit) (h : l + p.stepLimit < smin ∨ smax < l - p.stepLimit) :
    (guards p (some l) smin smax force raw).send = none ∧ (guards p (some l) smin smax force raw).blocked = true := by
  have hbound := clampInt_between (x := clampInt raw smin smax) (show l - p.stepLimit ≤ l + p.stepLimit by omega)
  have hblocked : stepLimited p (some l) (clampInt raw smin smax) < smin ∨ smax < stepLimited p (some l) (clampInt raw smin smax) := by
    show clampInt (clampInt raw smin smax) (l - p.stepLimit) (l + p.stepLimit) < smin ∨
      smax < clampInt (clampInt raw smin smax) (l - p.stepLimit) (l + p.stepLimit)
    omega
  simp only [guards, decide_eq_true hblocked, if_true, and_self]

/-- Settles O54: the bounds of sent references, gaugemeter thickness and trims, and the rounding, ramps and bins under them. -/
theorem referencesRampsAndBins : Obligations.ReferencesRampsAndBins := by
  refine ⟨⟨fun p last force smin smax raw r hlim hstep hlast h => guards_within hlim hstep hlast h,
    fun p l force smin smax raw _ hstep h => guards_blocked hstep h, fun p f gap => clampInt_between (by decide),
    fun p trim q err h => ?_⟩, fun n d hd => ?_, ramped_between, fun m target tol w hw => ?_⟩
  · exact abs_le.2 (clampInt_between (by omega))
  · obtain ⟨hle, haway⟩ := roundDiv_nearest n hd
    exact ⟨hle, haway, roundDiv_neg n hd⟩
  · exact ⟨bin_lowest hw, bin_highest hw, fun b h0 h15 => bin_inner hw h0 h15, decide_eq_true_iff⟩

end Sys2Proof.Machine

/-! SUPPORT. Taking faults (R135 to R137): what a take records, what an event of several conditions leaves in the fault table, and
which conditions end. -/

namespace Sys2Proof.Machine

/-! ### Rows of the fault table -/

/-- Of the fault table, only conditions of the kinds `ks` have ended, with nothing else written. -/
structure Ends (ks : List Kind) (s t : State) : Prop where
  others : ∀ d : Kind, d ∉ ks → t.faults[d] = s.faults[d]
  kept : ∀ d : Kind, t.faults[d] = { s.faults[d] with active := t.faults[d].active }
  fewer : ∀ (d : Kind) (loc : Nat), loc ∈ t.faults[d].active → loc ∈ s.faults[d].active

theorem Ends.refl (ks : List Kind) (s : State) : Ends ks s s := ⟨fun _ _ => rfl, fun _ => rfl, fun _ _ h => h⟩

theorem Ends.trans {ks : List Kind} {s t u : State} (h : Ends ks s t) (h' : Ends ks t u) : Ends ks s u where
  others := fun d hd => (h'.others d hd).trans (h.others d hd)
  kept := fun d => by rw [h'.kept d, h.kept d]
  fewer := fun d loc hl => h.fewer d loc (h'.fewer d loc hl)

theorem Ends.mono {ks ks' : List Kind} {s t : State} (h : Ends ks s t) (hsub : ∀ d ∈ ks, d ∈ ks') : Ends ks' s t :=
  ⟨fun d hd => h.others d fun hk => hd (hsub d hk), h.kept, h.fewer⟩

theorem Ends.of_faults {s t : State} (h : t.faults = s.faults) (ks : List Kind) : Ends ks s t :=
  ⟨fun d _ => by rw [h], fun d => by rw [h], fun d loc hl => by rwa [h] at hl⟩

theorem Ends.latched {ks : List Kind} {s t : State} (h : Ends ks s t) (d : Kind) : t.faults[d].latched = s.faults[d].latched :=
  (congrArg FaultEntry.latched (h.kept d) :)

theorem inactive_at (s : State) (k d : Kind) (loc : Nat) : (s.inactive k loc).faults[d] =
    { s.faults[d] with active := if d = k then s.faults[d].active.filter (· ≠ loc) else s.faults[d].active } := by
  rw [State.inactive, setFault_at]
  by_cases h : k = d
  · subst h; simp
  · rw [if_neg h, if_neg (Ne.symm h)]

theorem inactive_ends (s : State) (k : Kind) (loc : Nat) : Ends [k] s (s.inactive k loc) where
  others := fun d hd => by
    have hne : d ≠ k := by simpa using hd
    rw [inactive_at, if_neg hne]
  kept := fun d => by rw [inactive_at]
  fewer := fun d l hl => by
    rw [inactive_at] at hl
    dsimp only at hl
    split at hl
    · exact (List.mem_filter.1 hl).1
    · exact hl

theorem inactive_gone (s : State) (k : Kind) (loc : Nat) : loc ∉ (s.inactive k loc).faults[k].active := by
  rw [inactive_at]
  simp

theorem allInactive_ends (s : State) (k : Kind) : Ends [k] s (s.allInactive k) where
  others := fun d hd => by
    have hne : d ≠ k := by simpa using hd
    rw [allInactive_at, if_neg hne]
  kept := fun d => by rw [allInactive_at]
  fewer := fun d l hl => by
    rw [allInactive_at] at hl
    dsimp only at hl
    split at hl
    · exact absurd hl (by simp)
    · exact hl

theorem mem_insertLoc (x y : Nat) : ∀ l : List Nat, x ∈ insertLoc y l ↔ x = y ∨ x ∈ l
  | [] => by simp [insertLoc]
  | z :: zs => by
    unfold insertLoc
    split
    · simp
    · split
      next h => subst h; simp
      next => simp [mem_insertLoc x y zs]; tauto

theorem markActive_at (s : State) (k d : Kind) (loc : Nat) : (s.markActive k loc).faults[d] =
    { s.faults[d] with active := if d = k then insertLoc loc s.faults[d].active else s.faults[d].active } := by
  rw [State.markActive, setFault_at]
  by_cases h : k = d
  · subst h; simp
  · rw [if_neg h, if_neg (Ne.symm h)]

/-! ### What a take records (R136 steps 1 to 4, R153) -/

/-- What a take writes beside a trip: the fault entry, the fault log, the notice of an enabled kind, and the count of subsequent
faults. -/
def recordTake (k : Kind) (loc : Nat) (s : State) : State :=
  { s with
    faults := s.faults.set k (s.faults[k].taken loc s.logTime)
    logs := s.logs.set LogNo.fault (s.logs[LogNo.fault].append 128 s.logTime (.fault k loc (s.faults[k].taken loc s.logTime).count
      s.policy[k].enabled s.policy[k].tripping s.mode s.trip (takeClass s k)))
    port := if s.policy[k].enabled then s.port.queueNotice (.fault k loc (s.faults[k].taken loc s.logTime).count
      s.policy[k].tripping s.mode s.trip (takeClass s k)) else s.port
    firstOut := if isSubsequent s k then s.firstOut.map fun f => { f with subsequent := satAdd f.subsequent 1 255 } else s.firstOut }

theorem logNotice_eq (k : Kind) (e : FaultEntry) (c : LogContent) (n : Notice) (b : Bool) (s : State) :
    (if b = true then ((s.setFault k e).append LogNo.fault c).notify n else (s.setFault k e).append LogNo.fault c) =
      { s with
        faults := s.faults.set k e, logs := s.logs.set LogNo.fault (s.logs[LogNo.fault].append 128 s.logTime c)
        port := if b then s.port.queueNotice n else s.port } := by cases b <;> rfl

/-- R136: a take records, then starts the trip where it does, then asserts HARD_STOP where it does. -/
theorem take_eq (k : Kind) (loc : Nat) (s : State) : take k loc s =
    (fun u => if k = Kind.openTimeout ∧ s.trip = .opening then enterHardStop u else u)
      (if startsTrip s k then tripStart k loc (recordTake k loc s) else recordTake k loc s) := by
  have hexcl : startsTrip s k = true → isSubsequent s k = false := fun h => by
    simp only [startsTrip, Bool.and_eq_true, beq_iff_eq] at h
    simp [isSubsequent, h.1.2]
  have hclass : takeClass s k = if startsTrip s k then .firstOut else if isSubsequent s k then .subsequent else .none := rfl
  unfold take
  dsimp only
  rw [logNotice_eq]
  refine congrArg (fun u => if k = Kind.openTimeout ∧ s.trip = .opening then enterHardStop u else u) ?_
  cases hs : startsTrip s k
  · cases hsub : isSubsequent s k
    · rw [hs, hsub] at hclass
      simp only [recordTake, hclass, hsub]
      rfl
    · rw [hs, hsub] at hclass
      simp only [recordTake, hclass, hsub]
      rfl
  · rw [hs] at hclass
    simp only [recordTake, hclass, hexcl hs]
    rfl

/-- A take that starts no trip only records. -/
theorem take_quiet {k : Kind} (loc : Nat) {s : State} (hk : k ≠ Kind.openTimeout) (hs : startsTrip s k = false) :
    take k loc s = recordTake k loc s := by
  rw [take_eq, hs]
  exact if_neg fun h => hk h.1

/-- A take that starts the trip. -/
theorem take_starts {k : Kind} (loc : Nat) {s : State} (hs : startsTrip s k = true) :
    take k loc s = tripStart k loc (recordTake k loc s) := by
  have hnormal : s.trip = .normal := by
    simp only [startsTrip, Bool.and_eq_true, beq_iff_eq] at hs
    exact hs.1.2
  rw [take_eq, hs]
  exact if_neg fun h => absurd (hnormal.symm.trans h.2) (by decide)

theorem startsTrip_of_trips {s : State} {k : Kind} (h : s.trips k = false) : startsTrip s k = false := by simp [startsTrip, h]

theorem startsTrip_config {s : State} (h : s.mode = .config) (k : Kind) : startsTrip s k = false := by simp [startsTrip, h]

theorem startsTrip_of_trip {s : State} (h : s.trip ≠ .normal) (k : Kind) : startsTrip s k = false := by simp [startsTrip, h]

theorem startsTrip_iff (s : State) (k : Kind) : startsTrip s k = true ↔
    s.trips k = true ∧ s.trip = .normal ∧ (s.mode = .ready ∨ s.mode = .thread ∨ s.mode = .run) := by
  simp [startsTrip, and_assoc, or_assoc]

theorem recordTake_at (k d : Kind) (loc : Nat) (s : State) :
    (recordTake k loc s).faults[d] = if d = k then s.faults[k].taken loc s.logTime else s.faults[d] := by
  rw [show (recordTake k loc s).faults = (s.setFault k (s.faults[k].taken loc s.logTime)).faults from rfl, setFault_at]
  by_cases h : k = d
  · subst h; simp
  · rw [if_neg h, if_neg (Ne.symm h)]

theorem recordTake_logs (k : Kind) (loc : Nat) (s : State) {g : LogNo} (hg : g ≠ LogNo.fault) :
    (recordTake k loc s).logs[g] = s.logs[g] := logs_set_other s _ hg

/-- Nothing has changed but what takes record: the fault table, the logs, the notices and the first-out record. -/
def Recorded (s t : State) : Prop :=
  { t with faults := s.faults, logs := s.logs, port := s.port, firstOut := s.firstOut } = s

theorem Recorded.refl (s : State) : Recorded s s := rfl

/-- A state is the one before but for what was recorded. -/
theorem Recorded.eq {s t : State} (h : Recorded s t) :
    t = { s with faults := t.faults, logs := t.logs, port := t.port, firstOut := t.firstOut } := by
  conv_rhs => rw [← h]

theorem Recorded.trans {s t u : State} (h : Recorded s t) (h' : Recorded t u) : Recorded s u := by
  rw [h'.eq, h.eq]
  rfl

theorem Recorded.of_faults {s t : State} (h : { t with faults := s.faults } = s) : Recorded s t := by
  have ht : t = { s with faults := t.faults } := by conv_rhs => rw [← h]
  rw [ht]
  rfl

theorem recordTake_recorded (k : Kind) (loc : Nat) (s : State) : Recorded s (recordTake k loc s) := rfl

/-! ### The conditions of one event (R137) -/

/-- Marking conditions writes active sets alone, and what is taken are those that were not active. -/
theorem markFresh_spec : ∀ (cs : List (Kind × Nat)) (s : State),
    { (markFresh cs s).2 with faults := s.faults } = s ∧
    (∀ d : Kind, (markFresh cs s).2.faults[d] = { s.faults[d] with active := (markFresh cs s).2.faults[d].active }) ∧
    (∀ (d : Kind) (loc : Nat), loc ∈ (markFresh cs s).2.faults[d].active ↔ loc ∈ s.faults[d].active ∨ (d, loc) ∈ cs) ∧
    (∀ d : Kind, (∀ c ∈ cs, c.1 ≠ d) → (markFresh cs s).2.faults[d] = s.faults[d]) ∧
    ∀ c : Kind × Nat, c ∈ (markFresh cs s).1 ↔ c ∈ cs ∧ c.2 ∉ s.faults[c.1].active
  | [], s => ⟨rfl, fun _ => rfl, fun _ _ => by simp [markFresh], fun _ _ => rfl, fun _ => by simp [markFresh]⟩
  | (k, loc) :: rest, s => by
    by_cases hin : loc ∈ s.faults[k].active
    · obtain ⟨hframe, hkept, hmem, hsame, hfresh⟩ := markFresh_spec rest s
      have heq : markFresh ((k, loc) :: rest) s = markFresh rest s := by rw [markFresh, if_pos hin]
      rw [heq]
      refine ⟨hframe, hkept, fun d l => ?_, fun d hd => hsame d fun c hc => hd c (List.mem_cons_of_mem _ hc), fun c => ?_⟩
      · rw [hmem d l, List.mem_cons]
        constructor
        · exact fun h => h.imp_right .inr
        · rintro (h | h | h)
          · exact .inl h
          · obtain ⟨rfl, rfl⟩ := Prod.mk.inj h; exact .inl hin
          · exact .inr h
      · rw [hfresh c, List.mem_cons]
        constructor
        · exact fun h => ⟨.inr h.1, h.2⟩
        · rintro ⟨rfl | h, hn⟩
          · exact absurd hin hn
          · exact ⟨h, hn⟩
    · obtain ⟨hframe, hkept, hmem, hsame, hfresh⟩ := markFresh_spec rest (s.markActive k loc)
      have heq : markFresh ((k, loc) :: rest) s =
          ((k, loc) :: (markFresh rest (s.markActive k loc)).1, (markFresh rest (s.markActive k loc)).2) := by
        rw [markFresh, if_neg hin]
      have hact : ∀ (d : Kind) (l : Nat),
          l ∈ (s.markActive k loc).faults[d].active ↔ l ∈ s.faults[d].active ∨ (d, l) = (k, loc) := fun d l => by
        rw [markActive_at]
        dsimp only
        split
        next h => subst h; rw [mem_insertLoc]; simp [or_comm]
        next h => simp [h]
      rw [heq]
      refine ⟨(congrArg (fun u : State => { u with faults := s.faults }) hframe :), fun d => ?_, fun d l => ?_, fun d hd => ?_,
        fun c => ?_⟩
      · rw [hkept d, markActive_at]
      · rw [hmem d l, hact d l, List.mem_cons, or_assoc]
      · rw [hsame d fun c hc => hd c (List.mem_cons_of_mem _ hc), markActive_at]
        have hne : d ≠ k := fun h => hd (k, loc) List.mem_cons_self h.symm
        rw [if_neg hne]
      · rw [List.mem_cons, hfresh c, List.mem_cons, hact c.1 c.2]
        constructor
        · rintro (rfl | ⟨hc, hn⟩)
          · exact ⟨.inl rfl, hin⟩
          · exact ⟨.inr hc, fun h => hn (.inl h)⟩
        · rintro ⟨rfl | hc, hn⟩
          · exact .inl rfl
          · by_cases hce : c = (k, loc)
            · exact .inl hce
            · exact .inr ⟨hc, fun h => h.elim hn hce⟩

theorem raise_active {k : Kind} {loc : Nat} {s : State} (h : loc ∈ s.faults[k].active) : raise k loc s = s := by
  simp only [raise, raiseAll, markFresh, if_pos h, List.foldl_nil]

theorem raise_fresh {k : Kind} {loc : Nat} {s : State} (h : loc ∉ s.faults[k].active) :
    raise k loc s = take k loc (s.markActive k loc) := by
  simp only [raise, raiseAll, markFresh, if_neg h, List.foldl_cons, List.foldl_nil]

/-- A pass of takes of kinds that start no trip. -/
theorem takes_quiet : ∀ (L : List (Kind × Nat)) (s : State), (∀ c ∈ L, startsTrip s c.1 = false ∧ c.1 ≠ Kind.openTimeout) →
    Recorded s (L.foldl (fun s c => take c.1 c.2 s) s) ∧
    (∀ d : Kind, (L.foldl (fun s c => take c.1 c.2 s) s).faults[d].active = s.faults[d].active) ∧
    (∀ d : Kind, (L.foldl (fun s c => take c.1 c.2 s) s).faults[d].latched = (s.faults[d].latched || L.any fun c => c.1 == d)) ∧
    (∀ d : Kind, (∀ c ∈ L, c.1 ≠ d) → (L.foldl (fun s c => take c.1 c.2 s) s).faults[d] = s.faults[d]) ∧
    ∀ g : LogNo, g ≠ LogNo.fault → (L.foldl (fun s c => take c.1 c.2 s) s).logs[g] = s.logs[g]
  | [], s, _ => ⟨rfl, fun _ => rfl, fun _ => by simp, fun _ _ => rfl, fun _ _ => rfl⟩
  | (k, loc) :: L, s, h => by
    obtain ⟨hs, hk⟩ := h (k, loc) List.mem_cons_self
    have hstep : take k loc s = recordTake k loc s := take_quiet loc hk hs
    obtain ⟨hrec, hact, hlat, hsame, hlog⟩ := takes_quiet L (recordTake k loc s) fun c hc => h c (List.mem_cons_of_mem _ hc)
    rw [List.foldl_cons, hstep]
    refine ⟨(recordTake_recorded k loc s).trans hrec, fun d => ?_, fun d => ?_, fun d hd => ?_, fun g hg => ?_⟩
    · rw [hact d, recordTake_at]
      split
      next h => subst h; rfl
      next => rfl
    · rw [hlat d, recordTake_at, List.any_cons]
      by_cases hd : d = k
      · subst hd; simp [FaultEntry.taken]
      · rw [if_neg hd]
        have hne : (k == d) = false := beq_eq_false_iff_ne.2 (Ne.symm hd)
        simp [hne]
    · rw [hsame d fun c hc => hd c (List.mem_cons_of_mem _ hc), recordTake_at, if_neg]
      exact fun h => hd (k, loc) List.mem_cons_self h.symm
    · rw [hlog g hg, recordTake_logs k loc s hg]

/-- An event none of whose conditions starts a trip: nothing changes but what its takes record; each of its conditions is active,
and those that were not are latched. -/
structure Raised (cs : List (Kind × Nat)) (s t : State) : Prop where
  recorded : Recorded s t
  active : ∀ (d : Kind) (loc : Nat), loc ∈ t.faults[d].active ↔ loc ∈ s.faults[d].active ∨ (d, loc) ∈ cs
  latched : ∀ d : Kind, t.faults[d].latched =
    (s.faults[d].latched || cs.any fun c => c.1 == d && !decide (c.2 ∈ s.faults[d].active))
  others : ∀ d : Kind, (∀ c ∈ cs, c.1 ≠ d) → t.faults[d] = s.faults[d]
  logs : ∀ g : LogNo, g ≠ LogNo.fault → t.logs[g] = s.logs[g]

theorem startsTrip_congr {s t : State} (hp : t.policy = s.policy) (ht : t.trip = s.trip) (hm : t.mode = s.mode) (k : Kind) :
    startsTrip t k = startsTrip s k := by
  rw [startsTrip, startsTrip, trips_congr hp, ht, hm]

theorem raiseAll_quiet {cs : List (Kind × Nat)} {s : State}
    (h : ∀ c ∈ cs, startsTrip s c.1 = false ∧ c.1 ≠ Kind.openTimeout) : Raised cs s (raiseAll cs s) := by
  obtain ⟨hframe, hkept, hmem, hsame, hfresh⟩ := markFresh_spec cs s
  have hstarts : ∀ k, startsTrip (markFresh cs s).2 k = startsTrip s k := startsTrip_congr (congrArg State.policy hframe :)
    (congrArg State.trip hframe :) (congrArg State.mode hframe :)
  obtain ⟨hrec, hact, hlat, hkeep, hlog⟩ := takes_quiet (markFresh cs s).1 (markFresh cs s).2 fun c hc => by
    rw [hstarts]
    exact h c ((hfresh c).1 hc).1
  have hlogs : (markFresh cs s).2.logs = s.logs := (congrArg State.logs hframe :)
  refine ⟨?_, fun d loc => ?_, fun d => ?_, fun d hd => ?_, fun g hg => ?_⟩
  · exact (Recorded.of_faults hframe).trans hrec
  · rw [raiseAll]; rw [hact d]; exact hmem d loc
  · have hany : ((markFresh cs s).1.any fun c => c.1 == d) = cs.any fun c => c.1 == d && !decide (c.2 ∈ s.faults[d].active) := by
      rw [Bool.eq_iff_iff]
      simp only [List.any_eq_true, Bool.and_eq_true, beq_iff_eq, Bool.not_eq_true', decide_eq_false_iff_not]
      constructor
      · rintro ⟨c, hc, rfl⟩
        exact ⟨c, ((hfresh c).1 hc).1, rfl, ((hfresh c).1 hc).2⟩
      · rintro ⟨c, hc, rfl, hn⟩
        exact ⟨c, (hfresh c).2 ⟨hc, hn⟩, rfl⟩
    rw [raiseAll]; rw [hlat d, hkept d, hany]
  · rw [raiseAll]; rw [hkeep d fun c hc => hd c ((hfresh c).1 hc).1, hsame d hd]
  · rw [raiseAll]; rw [hlog g hg, hlogs]

/-- Conditions that are all active are no event. -/
theorem raiseAll_active : ∀ {cs : List (Kind × Nat)} {s : State}, (∀ c ∈ cs, c.2 ∈ s.faults[c.1].active) → raiseAll cs s = s
  | [], _, _ => rfl
  | (k, loc) :: rest, s, h => by
    have hrest := raiseAll_active (cs := rest) (s := s) fun c hc => h c (List.mem_cons_of_mem _ hc)
    have hin : loc ∈ s.faults[k].active := h (k, loc) List.mem_cons_self
    simpa only [raiseAll, markFresh, if_pos hin] using hrest

end Sys2Proof.Machine

/-! SUPPORT. The advance of a point (R55, R57, R61): short of its segment's end, over it, and behind its upstream neighbour. -/

namespace Sys2Proof.Machine

/-! ### Single conditions -/

theorem raise_quiet {k : Kind} (loc : Nat) {s : State} (hk : k ≠ Kind.openTimeout) (hs : startsTrip s k = false) :
    Raised [(k, loc)] s (raise k loc s) :=
  raiseAll_quiet fun c hc => by
    rw [List.mem_singleton.1 hc]
    exact ⟨hs, hk⟩

theorem Raised.on {k : Kind} {loc : Nat} {s t : State} (h : Raised [(k, loc)] s t) : loc ∈ t.faults[k].active :=
  (h.active k loc).2 (.inr List.mem_cons_self)

/-! ### Rows of the points -/

theorem setPoint_same (s : State) (p : PointNo) (x : Point) : (s.setPoint p x).points[p] = x := by simp

theorem setPoint_other {p q : PointNo} (s : State) (x : Point) (h : q ≠ p) : (s.setPoint p x).points[q] = s.points[q] := by
  rw [setPoint_at, if_neg (Ne.symm h)]

theorem setPoint_twice (s : State) (p : PointNo) (x y : Point) : (s.setPoint p x).setPoint p y = s.setPoint p y := by
  simp [State.setPoint]

theorem setPoint_self (s : State) (p : PointNo) : s.setPoint p s.points[p] = s := by simp [State.setPoint]

/-! ### Passages of one advance -/

theorem passages_short {fuel : Nat} {p : PointNo} {s : State} (h : s.points[p].travelled < s.full) : passages fuel p s = s := by
  cases fuel with
  | zero => rfl
  | succ n => rw [passages, if_pos h]

/-- One passage, after which the point is short of the end of its next segment. -/
theorem passages_once {fuel : Nat} {p : PointNo} {s : State} (hfull : s.full ≤ s.points[p].travelled) (hf : s.frozen = false)
    (hb : blocked p s = false) (hnext : (passage p s).points[p].travelled < (passage p s).full) :
    passages (fuel + 1) p s = passage p s := by
  rw [passages, if_neg (not_lt.2 hfull), if_neg (by simp [hf]), if_neg (by simp [hb]), passages_short hnext]

theorem passages_blocked {fuel : Nat} {p : PointNo} {s : State} (hfull : s.full ≤ s.points[p].travelled) (hf : s.frozen = false)
    (hb : blocked p s = true) : passages (fuel + 1) p s = clampPoint p s := by
  rw [passages, if_neg (not_lt.2 hfull), if_neg (by simp [hf]), if_pos hb]

theorem advanceBy_short {p : PointNo} {d : Nat} {s : State} (h : s.points[p].travelled + d < s.full) :
    advanceBy p d s = s.setPoint p { s.points[p] with travelled := s.points[p].travelled + d } := by
  refine passages_short ?_
  rw [setPoint_same]
  exact h

/-! ### Opening a segment (R47, R57) -/

theorem openNext_room {n : SegNo} {s : State} (h : s.ring.length < 256) : openNext n s = addSegment n s := by
  exact congrArg (addSegment n) (if_neg (not_le.2 h))

/-- The open segment's number rises by one: the new segment, its reference and its report. -/
theorem addSegment_eq {n : SegNo} {s : State} {e : InForce} (h : s.entrySchedule = some e) : addSegment n s = { s with
    ring := s.ring ++ [newSegment e n s.coilCounter]
    table := s.table.map fun x => if x.sched.tag = e.sched.tag then { x with refs := x.refs + 1 } else x
    reports := s.reports.map fun r => if r.coil = s.coilCounter then { r with created := r.created + 1 } else r } := by
  simp only [addSegment, h, addRef, modifyEntry, modifyReport]

theorem unclamp_frame (p : PointNo) (n : SegNo) (s : State) :
    { unclamp p n s with points := s.points, faults := s.faults } = s := by
  unfold unclamp
  dsimp only
  split <;> rfl

theorem unclamp_point {p q : PointNo} (n : SegNo) (s : State) (h : q ≠ p) : (unclamp p n s).points[q] = s.points[q] := by
  unfold unclamp
  dsimp only
  split
  · exact setPoint_other s _ h
  · rfl

theorem scheduleArrival_plain {p : PointNo} {n : SegNo} {s : State} (h : ∀ g, s.segment n = some g → g.weld = false) :
    scheduleArrival p n s = s := by
  unfold scheduleArrival
  split
  next g hg => rw [if_neg (by simp [h g hg])]
  next => rfl

theorem arrive_x0 {n : SegNo} {s : State} (h : ∀ g, s.segment n = some g → g.weld = false) : arrive PointNo.x0 n s = s := by
  have hbite : biteOf PointNo.x0 = none := by decide
  rw [arrive, hbite]
  exact scheduleArrival_plain h

theorem setSegment_last {s : State} {pre : List Segment} {g : Segment} (hr : s.ring = pre ++ [g]) (hpre : ∀ x ∈ pre, x.number ≠ g.number)
    (f : Segment → Segment) : (s.setSegment g.number f).ring = pre ++ [f g] := by
  have hkeep : pre.map (fun x => if x.number = g.number then f x else x) = pre := by
    conv_rhs => rw [← List.map_id pre]
    exact List.map_congr_left fun x hx => if_neg (hpre x hx)
  rw [show (s.setSegment g.number f).ring = s.ring.map fun x => if x.number = g.number then f x else x from rfl, hr, List.map_append,
    hkeep]
  simp

/-- R57: X0 over the end of the open segment, the ring having room. -/
theorem passage_x0 {s : State} {pre : List Segment} {g : Segment} {e : InForce} (hr : s.ring = pre ++ [g])
    (hg : g.number = s.points[PointNo.x0].cursor) (hpre : ∀ x ∈ pre, x.number ≠ g.number)
    (hnew : ∀ x ∈ s.ring, x.number ≠ g.number + 1) (hroom : s.ring.length < 256) (he : s.entrySchedule = some e) :
    (passage PointNo.x0 s).ring = pre ++ [{ g with entry := closedMean s.points[PointNo.x0].sum s.points[PointNo.x0].count },
      newSegment e (g.number + 1) s.coilCounter] ∧
    (passage PointNo.x0 s).points[PointNo.x0] = { s.points[PointNo.x0] with
      cursor := g.number + 1, travelled := s.points[PointNo.x0].travelled - s.full, sum := 0, count := 0 } ∧
    (passage PointNo.x0 s).line = s.line := by
  have hbite : biteOf PointNo.x0 = none := by decide
  have hdown : downstream PointNo.x0 = some 1 := by decide
  let m := closedMean s.points[PointNo.x0].sum s.points[PointNo.x0].count
  let s1 := s.setSegment g.number fun x => { x with entry := m }
  have hring1 : s1.ring = pre ++ [{ g with entry := m }] := setSegment_last hr hpre _
  have hlen : s1.ring.length < 256 := by rw [hring1]; simpa [hr] using hroom
  have hpass : passX0 g.number s = { s1 with
      ring := s1.ring ++ [newSegment e (g.number + 1) s.coilCounter]
      table := s.table.map fun x => if x.sched.tag = e.sched.tag then { x with refs := x.refs + 1 } else x
      reports := s.reports.map fun r => if r.coil = s.coilCounter then { r with created := r.created + 1 } else r } := by
    show openNext (g.number + 1) s1 = _
    rw [openNext_room hlen, addSegment_eq (s := s1) he]
    rfl
  let s2 := (passX0 g.number s).setPoint PointNo.x0 { s.points[PointNo.x0] with
    cursor := g.number + 1, travelled := s.points[PointNo.x0].travelled - s.full, sum := 0, count := 0 }
  have hframe := unclamp_frame 1 g.number s2
  have hring2 : (unclamp 1 g.number s2).ring = pre ++ [{ g with entry := m }, newSegment e (g.number + 1) s.coilCounter] := by
    rw [(congrArg State.ring hframe :)]
    show (passX0 g.number s).ring = _
    rw [hpass]
    show s1.ring ++ _ = _
    rw [hring1, List.append_assoc]
    rfl
  have harr : arrive PointNo.x0 (g.number + 1) (unclamp 1 g.number s2) = unclamp 1 g.number s2 := by
    refine arrive_x0 fun x hx => ?_
    have hmem := List.mem_of_find?_eq_some hx
    have hnum : x.number = g.number + 1 := by simpa using List.find?_some (p := fun y : Segment => y.number == g.number + 1) hx
    rw [hring2] at hmem
    simp only [List.mem_append, List.mem_cons, List.not_mem_nil, or_false] at hmem
    rcases hmem with hx' | rfl | rfl
    · exact absurd hnum (hnew x (by rw [hr]; exact List.mem_append_left _ hx'))
    · exact absurd hnum (hnew g (by rw [hr]; simp))
    · rfl
  have hall : passage PointNo.x0 s = unclamp 1 g.number s2 := by
    have hpoints : (passX0 g.number s).points = s.points := by rw [hpass]; rfl
    rw [← harr]
    simp only [passage, passageActions, hbite, hdown, if_true, ← hg, hpoints]
    rfl
  rw [hall]
  refine ⟨hring2, ?_, ?_⟩
  · rw [unclamp_point g.number s2 (show PointNo.x0 ≠ 1 by decide)]
    exact setPoint_same _ _ _
  · rw [(congrArg State.line hframe :)]
    show (passX0 g.number s).line = _
    rw [hpass]; rfl

theorem blocked_iff {p q : PointNo} (h : q.val + 1 = p.val) (s : State) :
    blocked p s = (s.points[q].started && s.points[q].cursor == s.points[p].cursor) := by
  have hup : upstream p = some q := by
    have hp : ¬ p = 0 := by
      rintro rfl
      exact absurd h (by simp)
    rw [upstream, if_neg hp]
    exact congrArg some (Fin.ext (by simp only; omega))
  simp only [blocked, hup]

/-- R61: a point behind its upstream neighbour is held, and the first hold raises TRACK_OVERRUN. -/
theorem clampPoint_quiet {p : PointNo} {s : State} (h : startsTrip s Kind.trackOverrun = false) :
    Recorded (s.setPoint p { s.points[p] with travelled := s.full - 1, clamped := true }) (clampPoint p s) ∧
      (s.points[p].clamped = false → p.val ∈ (clampPoint p s).faults[Kind.trackOverrun].active) := by
  have hraise := raise_quiet (k := Kind.trackOverrun) p.val
    (s := s.setPoint p { s.points[p] with travelled := s.full - 1, clamped := true }) (by decide) h
  unfold clampPoint
  dsimp only
  split
  next hc => exact ⟨rfl, fun h => absurd (hc.symm.trans h) (by decide)⟩
  next => exact ⟨hraise.recorded, fun _ => hraise.on⟩

/-- Settles O53: the three outcomes of an advance. -/
theorem pointsAdvance : Obligations.PointsAdvance := by
  refine ⟨fun p d s h => advanceBy_short h, fun d s pre g e hlen htrip hst hr hg hpre hnew hroom he hge hlt => ?_,
    fun p q d s hlen htrip hpol hq hqst hcur hge => ?_⟩
  · let s' := s.setPoint PointNo.x0 { s.points[PointNo.x0] with travelled := s.points[PointNo.x0].travelled + d }
    have hpt : s'.points[PointNo.x0] = { s.points[PointNo.x0] with travelled := s.points[PointNo.x0].travelled + d } :=
      setPoint_same _ _ _
    obtain ⟨hring, hpoint, hline⟩ := passage_x0 (s := s') hr (by rw [hpt]; exact hg) hpre hnew hroom he
    have hshort : (passage PointNo.x0 s').points[PointNo.x0].travelled < (passage PointNo.x0 s').full := by
      have hfull : (passage PointNo.x0 s').full = s.line.segLen * 1024 := congrArg (fun l : LineParams => l.segLen * 1024) hline
      rw [hpoint, hfull, hpt]
      show s.points[PointNo.x0].travelled + d - s.line.segLen * 1024 < s.line.segLen * 1024
      omega
    have hadv : advanceBy PointNo.x0 d s = passage PointNo.x0 s' :=
      passages_once (by rw [hpt]; exact hge) (by simp [State.frozen, htrip]) rfl hshort
    rw [hadv, hring, hpoint, hpt]
    exact ⟨rfl, rfl, rfl⟩
  · let s' := s.setPoint p { s.points[p] with travelled := s.points[p].travelled + d }
    have hpt : s'.points[p] = { s.points[p] with travelled := s.points[p].travelled + d } := setPoint_same _ _ _
    have hne : q ≠ p := by
      rintro rfl
      omega
    have hblocked : blocked p s' = true := by
      rw [blocked_iff hq, setPoint_other s _ hne, hpt, hqst, hcur]
      exact beq_self_eq_true _
    obtain ⟨hrec, hraised⟩ := clampPoint_quiet (p := p) (s := s') (startsTrip_of_trips hpol)
    have hadv : advanceBy p d s = clampPoint p s' :=
      passages_blocked (by rw [hpt]; exact hge) (by simp [State.frozen, htrip]) hblocked
    rw [hadv]
    refine ⟨?_, fun hc => hraised (by rw [hpt]; exact hc), (congrArg State.ring hrec :)⟩
    rw [(congrArg State.points hrec :), setPoint_same, hpt]
    rfl

end Sys2Proof.Machine

/-! SUPPORT. The trip start (R149), whole: what each of its parts leaves at every stand and actuator, and what the step is not. -/

namespace Sys2Proof.Machine

/-- One condition ends in a state whose fault table is that of another. -/
theorem Ends.inactive_of {s u : State} {k : Kind} {loc : Nat} (h : u.faults = s.faults) : Ends [k] s (u.inactive k loc) :=
  (Ends.of_faults h [k]).trans (inactive_ends u k loc)

/-! ### Stands and actuators at the trip start (R99, R127) -/

theorem enterIdleMode_eq (m : StandMode) (k : Stand) (s : State) : enterIdleMode m k s =
    (s.setStand k { s.stands[k] with mode := m, holds := .empty, unload := .stopped }).inactive Kind.standUnloaded (standLoc k) := by
  simp [enterIdleMode, stopUnload, State.setStand]

/-- R118, R127: an actuator to which OPEN has been handed. -/
def Actuator.handed (a : Actuator) (now : Micros) : Actuator :=
  { a with
    mode := if a.mode = .idle ∨ a.mode = .following ∨ a.mode = .moving then .opening else a.mode
    demand := true, posTimer := none
    openTimer := if a.mode = .opening ∨ a.mode = .opened then a.openTimer else some now
    unanswered := satAdd a.unanswered 1 Config.top16
    replyTimer := if a.unanswered = 0 then some now else a.replyTimer
    lastSent := some now, commandsSent := satAdd a.commandsSent 1 Config.top16 }

theorem inactive_twice (s : State) (k : Kind) (loc : Nat) : (s.inactive k loc).inactive k loc = s.inactive k loc := by
  simp [State.inactive, State.setFault]

theorem handOpen_eq (k : Stand) (s : State) : handOpen k s =
    ({ s with
      actuators := s.actuators.set k (s.actuators[k].handed s.time)
      stands := s.stands.set k { s.stands[k] with holds := s.stands[k].holds.put .positioningTimeout false }
      sent := s.sent ++ [⟨k, .openGap, commandFrameBytes .openGap⟩] } : State).inactive Kind.positioningTimeout (standLoc k) := by
  cases hm : s.actuators[k.val].mode <;>
    simp [handOpen, setActMode, sendCommand, causeClears, Actuator.handed, State.setActuator, State.setStand, State.inactive,
      State.setFault, Holds.put, hm]

theorem heldFrom_set_at (s : State) (k j : Stand) (x : Option StandMode) :
    (s.setHeldFrom k x).heldFrom[j] = if j = k then x else s.heldFrom[j] := by
  by_cases h : j = k
  · subst h; simp
  · have hval : k.val ≠ j.val := fun he => h (Fin.ext he.symm)
    simp [hval, h]

/-- A pass that takes every stand to a mode without hold causes. -/
theorem enterIdleModes (m : StandMode) (s : State) :
    { forStands (enterIdleMode m) s with stands := s.stands, faults := s.faults } = s ∧
    Ends [Kind.standUnloaded] s (forStands (enterIdleMode m) s) ∧
    ∀ k : Stand, (forStands (enterIdleMode m) s).stands[k] = { s.stands[k] with mode := m, holds := .empty, unload := .stopped } := by
  have hP : ∀ (k : Stand) (u : State), { u with stands := s.stands, faults := s.faults } = s ∧ Ends [Kind.standUnloaded] s u →
      { enterIdleMode m k u with stands := s.stands, faults := s.faults } = s ∧
        Ends [Kind.standUnloaded] s (enterIdleMode m k u) := fun k u hu => by
    rw [enterIdleMode_eq]
    exact ⟨hu.1, hu.2.trans (Ends.inactive_of rfl)⟩
  have hstart : { s with stands := s.stands, faults := s.faults } = s ∧ Ends [Kind.standUnloaded] s s := ⟨rfl, Ends.refl _ s⟩
  obtain ⟨hframe, hends⟩ := forStands_keeps hP hstart
  refine ⟨hframe, hends, fun k => ?_⟩
  obtain ⟨u, -, hsame, hval⟩ := forStands_at (f := enterIdleMode m) (fun k u => u.stands[k]) hP (fun j k u _ hjk => by
    rw [enterIdleMode_eq, State.inactive_stands, stands_set_at, if_neg hjk]) hstart k
  rw [hval, enterIdleMode_eq, State.inactive_stands, stands_set_at, if_pos rfl, hsame]

theorem handOpens_sent : ∀ (l : List Stand) (s : State), (l.foldl (fun s k => handOpen k s) s).sent =
    s.sent ++ l.map fun k => ⟨k, .openGap, commandFrameBytes .openGap⟩
  | [], s => by simp
  | k :: l, s => by
    rw [List.foldl_cons, handOpens_sent l, handOpen_eq]
    simp

/-- A pass that hands OPEN to every actuator. -/
theorem handOpens (s : State) :
    { forStands handOpen s with actuators := s.actuators, stands := s.stands, faults := s.faults, sent := s.sent } = s ∧
    Ends [Kind.positioningTimeout] s (forStands handOpen s) ∧
    (∀ k : Stand, (forStands handOpen s).actuators[k] = s.actuators[k].handed s.time) ∧
    (∀ k : Stand, (forStands handOpen s).stands[k] =
      { s.stands[k] with holds := s.stands[k].holds.put .positioningTimeout false }) ∧
    (forStands handOpen s).sent = s.sent ++ (List.finRange 6).map fun k => ⟨k, .openGap, commandFrameBytes .openGap⟩ := by
  have hP : ∀ (k : Stand) (u : State),
      { u with actuators := s.actuators, stands := s.stands, faults := s.faults, sent := s.sent } = s ∧
        Ends [Kind.positioningTimeout] s u →
      { handOpen k u with actuators := s.actuators, stands := s.stands, faults := s.faults, sent := s.sent } = s ∧
        Ends [Kind.positioningTimeout] s (handOpen k u) := fun k u hu => by
    rw [handOpen_eq]
    exact ⟨hu.1, hu.2.trans (Ends.inactive_of rfl)⟩
  have hstart : { s with actuators := s.actuators, stands := s.stands, faults := s.faults, sent := s.sent } = s ∧
      Ends [Kind.positioningTimeout] s s := ⟨rfl, Ends.refl _ s⟩
  obtain ⟨hframe, hends⟩ := forStands_keeps hP hstart
  refine ⟨hframe, hends, fun k => ?_, fun k => ?_, handOpens_sent _ s⟩
  · obtain ⟨u, hu, hsame, hval⟩ := forStands_at (f := handOpen) (fun k u => u.actuators[k]) hP (fun j k u _ hjk => by
      rw [handOpen_eq, State.inactive_actuators]
      exact (actuators_set_at u k j _).trans (if_neg hjk)) hstart k
    have htime : u.time = s.time := (congrArg State.time hu.1 :)
    rw [hval, handOpen_eq, State.inactive_actuators, hsame, htime]
    exact (actuators_set_at u k k _).trans (if_pos rfl)
  · obtain ⟨u, -, hsame, hval⟩ := forStands_at (f := handOpen) (fun k u => u.stands[k]) hP (fun j k u _ hjk => by
      rw [handOpen_eq, State.inactive_stands]
      exact (stands_set_at u k j _).trans (if_neg hjk)) hstart k
    rw [hval, handOpen_eq, State.inactive_stands, hsame]
    exact (stands_set_at u k k _).trans (if_pos rfl)

/-! ### The run and the conditions of RUN (R16, R160) -/

theorem endRun_none {s : State} (h : s.runState = none) : endRun s = s := by simp only [endRun, h]

/-- The defect entry of a run that ends, and the end of its condition, written with their conditions inside. -/
theorem endRun_some {s : State} {r : RunState} (h : s.runState = some r) : endRun s = { s with
    logs := s.logs.set LogNo.defect (s.logs[LogNo.defect].afterRun s.runState s.logTime)
    faults := if r.raised then (s.inactive Kind.offGaugeRun r.coil.toNat).faults else s.faults
    runState := none } := by
  cases hm : r.mark <;> cases hraised : r.raised <;>
    simp [endRun, Log.afterRun, h, hm, hraised, State.append, State.inactive, State.setFault, Config.logCapacity]

theorem endRun_spec (s : State) : { endRun s with faults := s.faults, logs := s.logs, runState := s.runState } = s ∧
    (endRun s).runState = none ∧ Ends [Kind.offGaugeRun] s (endRun s) ∧
    (endRun s).logs[LogNo.defect] = s.logs[LogNo.defect].afterRun s.runState s.logTime ∧
    ∀ g : LogNo, g ≠ LogNo.defect → (endRun s).logs[g] = s.logs[g] := by
  cases hr : s.runState with
  | none =>
    rw [endRun_none hr]
    exact ⟨by rw [← hr], hr, Ends.refl _ s, rfl, fun _ _ => rfl⟩
  | some r =>
    rw [endRun_some hr]
    refine ⟨by rw [← hr], rfl, ?_, (logs_set_same s _ _).trans (by rw [hr]), fun g hg => logs_set_other s _ hg⟩
    cases r.raised
    · exact Ends.of_faults (by rfl) _
    · exact (inactive_ends s _ r.coil.toNat).trans (Ends.of_faults (by rfl) _)

theorem leaveRun_spec (s : State) : { leaveRun s with faults := s.faults, breakTimers := s.breakTimers } = s ∧
    (leaveRun s).breakTimers = Vector.replicate 5 .stopped ∧ Ends [Kind.stripBreak, Kind.standUnloaded] s (leaveRun s) ∧
    (leaveRun s).faults[Kind.stripBreak].active = [] ∧ (leaveRun s).faults[Kind.standUnloaded].active = [] := by
  have hends : Ends [Kind.stripBreak, Kind.standUnloaded] s (leaveRun s) :=
    Ends.trans (t := State.allInactive { s with breakTimers := Vector.replicate 5 .stopped } Kind.stripBreak)
      ((Ends.of_faults (by rfl) _).trans ((allInactive_ends _ Kind.stripBreak).mono (by simp)))
      ((allInactive_ends _ Kind.standUnloaded).mono (by simp))
  refine ⟨rfl, rfl, hends, ?_, ?_⟩
  · unfold leaveRun
    rw [allInactive_at, allInactive_at]; rfl
  · unfold leaveRun
    rw [allInactive_at]; rfl

/-! ### The trip start, whole (R149) -/

/-- A state with what a trip start writes put back to what it was. -/
def State.untrip (s t : State) : State :=
  { t with
    mode := s.mode, millStop := s.millStop, standTrip := s.standTrip, firstOut := s.firstOut, trip := s.trip, opened := s.opened
    logs := s.logs, port := s.port, stands := s.stands, actuators := s.actuators, faults := s.faults, sent := s.sent
    ring := s.ring, runState := s.runState, breakTimers := s.breakTimers }

/-- R149: t is s after the trip start for a fault of kind k at a location. -/
structure TripStarted (k : Kind) (loc : Nat) (s t : State) : Prop where
  frame : s.untrip t = s
  outputs : t.mode = .tripped ∧ t.millStop = true ∧ t.standTrip = Vector.replicate 6 true
  trip : t.trip = .opening ∧ t.opened = Vector.replicate 6 false ∧ t.firstOut = some ⟨k, loc, s.logTime, s.mode, 0⟩
  stands : ∀ j : Stand, t.stands[j] =
    { s.stands[j] with mode := .opened, holds := ⟨false, false, false, false⟩, unload := .stopped }
  actuators : ∀ j : Stand, t.actuators[j] = s.actuators[j].handed s.time
  sent : t.sent = s.sent ++ (List.finRange 6).map fun j => ⟨j, .openGap, commandFrameBytes .openGap⟩
  ring : t.ring = s.ring.map fun g => { g with tripMark := true }
  run : t.runState = none
  breaks : t.breakTimers = Vector.replicate 5 .stopped
  faults : Ends [Kind.stripBreak, Kind.standUnloaded, Kind.positioningTimeout, Kind.offGaugeRun] s t
  runEnds : t.faults[Kind.stripBreak].active = [] ∧ t.faults[Kind.standUnloaded].active = []
  port : t.port = (s.port.queueNotice (.trip .opening k loc s.mode)).queueNotice (.modeChanged (some s.mode) .tripped .trip)
  faultLog : t.logs[LogNo.fault] = s.logs[LogNo.fault].append 128 s.logTime (.tripState .opening k loc none)
  logs : ∀ g : LogNo, g ≠ LogNo.fault → g ≠ LogNo.defect → t.logs[g] = s.logs[g]

/-- The first six parts of the trip start: the first-out record, OPENING, its log entry and notices, and the mode. -/
def tripOpens (k : Kind) (loc : Nat) (s : State) : State :=
  { s with
    firstOut := some ⟨k, loc, s.logTime, s.mode, 0⟩, trip := .opening, opened := Vector.replicate 6 false
    logs := s.logs.set LogNo.fault (s.logs[LogNo.fault].append 128 s.logTime (.tripState .opening k loc none))
    mode := .tripped, millStop := true, standTrip := Vector.replicate 6 true
    port := (s.port.queueNotice (.trip .opening k loc s.mode)).queueNotice (.modeChanged (some s.mode) .tripped .trip) }

/-- The segments of the ring take their trip marks. -/
def markTrips (s : State) : State := { s with ring := s.ring.map fun g => { g with tripMark := true } }

/-- A state with what the later parts of a trip start write put back to what it was. -/
def State.unclear (s t : State) : State :=
  { t with
    logs := s.logs, stands := s.stands, actuators := s.actuators, faults := s.faults, sent := s.sent, ring := s.ring
    runState := s.runState, breakTimers := s.breakTimers }

theorem tripStart_eq (k : Kind) (loc : Nat) (s : State) : tripStart k loc s =
    leaveRun (endRun (markTrips (forStands handOpen (forStands (enterIdleMode .opened) (tripOpens k loc s))))) := rfl

theorem tripStart_spec (k : Kind) (loc : Nat) (s : State) : TripStarted k loc s (tripStart k loc s) := by
  rw [tripStart_eq]
  obtain ⟨hf1, he1, hst1⟩ := enterIdleModes .opened (tripOpens k loc s)
  generalize forStands (enterIdleMode .opened) (tripOpens k loc s) = s1 at hf1 he1 hst1
  obtain ⟨hf2, he2, hact2, hst2, hsent2⟩ := handOpens s1
  generalize forStands handOpen s1 = s2 at hf2 he2 hact2 hst2 hsent2
  obtain ⟨hf4, hrun4, he4, -, hlog4⟩ := endRun_spec (markTrips s2)
  generalize endRun (markTrips s2) = s4 at hf4 hrun4 he4 hlog4
  obtain ⟨hf5, hbr5, he5, hb5, hu5⟩ := leaveRun_spec s4
  generalize leaveRun s4 = t at hf5 hbr5 he5 hb5 hu5
  have hlogs2 : s2.logs = (tripOpens k loc s).logs := (congrArg State.logs hf2 :).trans (congrArg State.logs hf1 :)
  have hlogs : ∀ g : LogNo, g ≠ LogNo.defect → t.logs[g] = (tripOpens k loc s).logs[g] := fun g hg => by
    rw [(congrArg State.logs hf5 :), hlog4 g hg]
    exact congrArg (fun l : Vector Log 5 => l[g]) hlogs2
  have hends : Ends [Kind.stripBreak, Kind.standUnloaded, Kind.positioningTimeout, Kind.offGaugeRun] (tripOpens k loc s) t :=
    Ends.trans (t := s4)
      (((he1.mono (by simp)).trans (he2.mono (by simp))).trans (Ends.trans (t := markTrips s2) (Ends.of_faults (by rfl) _) (he4.mono (by simp))))
      (he5.mono (by simp))
  have hrest : (tripOpens k loc s).unclear t = tripOpens k loc s :=
    calc (tripOpens k loc s).unclear t = (tripOpens k loc s).unclear s4 := (congrArg (tripOpens k loc s).unclear hf5 :)
      _ = (tripOpens k loc s).unclear s2 := (congrArg (tripOpens k loc s).unclear hf4 :)
      _ = (tripOpens k loc s).unclear s1 := (congrArg (tripOpens k loc s).unclear hf2 :)
      _ = tripOpens k loc s := (congrArg (tripOpens k loc s).unclear hf1 :)
  have hstands : t.stands = s2.stands := (congrArg State.stands hf5 :).trans (congrArg State.stands hf4 :)
  have hacts : t.actuators = s2.actuators := (congrArg State.actuators hf5 :).trans (congrArg State.actuators hf4 :)
  have hsent : t.sent = s2.sent := (congrArg State.sent hf5 :).trans (congrArg State.sent hf4 :)
  have hring : t.ring = (markTrips s2).ring := (congrArg State.ring hf5 :).trans (congrArg State.ring hf4 :)
  have hacts1 : s1.actuators = s.actuators := (congrArg State.actuators hf1 :)
  have htime1 : s1.time = s.time := (congrArg State.time hf1 :)
  have hsent1 : s1.sent = s.sent := (congrArg State.sent hf1 :)
  have hring2 : s2.ring = s.ring := (congrArg State.ring hf2 :).trans (congrArg State.ring hf1 :)
  exact {
    frame := (congrArg s.untrip hrest :)
    outputs := ⟨(congrArg State.mode hrest :), (congrArg State.millStop hrest :), (congrArg State.standTrip hrest :)⟩
    trip := ⟨(congrArg State.trip hrest :), (congrArg State.opened hrest :), (congrArg State.firstOut hrest :)⟩
    stands := fun j => by rw [hstands, hst2 j, hst1 j]; rfl
    actuators := fun j => by rw [hacts, hact2 j, hacts1, htime1]
    sent := by rw [hsent, hsent2, hsent1]
    ring := by rw [hring, markTrips, hring2]
    run := (congrArg State.runState hf5 :).trans hrun4
    breaks := hbr5
    faults := Ends.trans (t := tripOpens k loc s) (Ends.of_faults (by rfl) _) hends
    runEnds := ⟨hb5, hu5⟩
    port := (congrArg State.port hrest :)
    faultLog := (hlogs _ (by decide)).trans (logs_set_same s _ _)
    logs := fun g hg hd => (hlogs g hd).trans (logs_set_other s _ hg) }

end Sys2Proof.Machine

/-! SUPPORT. The condition timers (R103, R142) and EXTERNAL_STOP (R139): what their takes leave, with and without a trip. -/

namespace Sys2Proof.Machine

/-! ### A condition that starts the trip -/

theorem raise_trips {k : Kind} {loc : Nat} {s : State} (hfresh : loc ∉ s.faults[k].active) (hs : startsTrip s k = true) :
    TripStarted k loc (recordTake k loc (s.markActive k loc)) (raise k loc s) := by
  have hs' : startsTrip (s.markActive k loc) k = true := (startsTrip_congr rfl rfl rfl k).trans hs
  rw [raise_fresh hfresh, take_starts loc hs']
  exact tripStart_spec k loc _

/-- The fault entry of a condition that becomes active and is taken. -/
def FaultEntry.risen (e : FaultEntry) (loc : Nat) (t : Millis) : FaultEntry :=
  { e.taken loc t with active := insertLoc loc e.active }

theorem risen_at (s : State) (k d : Kind) (loc : Nat) : (recordTake k loc (s.markActive k loc)).faults[d] =
    if d = k then s.faults[k].risen loc s.logTime else s.faults[d] := by
  rw [recordTake_at, markActive_at, markActive_at, if_pos rfl]
  by_cases h : d = k
  · rw [if_pos h, if_pos h]; rfl
  · rw [if_neg h, if_neg h, if_neg h]

/-- A trip start leaves every row of the fault table but those of four kinds. -/
theorem TripStarted.row {k : Kind} {loc : Nat} {s t : State} (h : TripStarted k loc s t) {d : Kind}
    (hd : d ∉ [Kind.stripBreak, Kind.standUnloaded, Kind.positioningTimeout, Kind.offGaugeRun]) : t.faults[d] = s.faults[d] :=
  h.faults.others d hd

theorem raise_trips_latched {k : Kind} {loc : Nat} {s t : State}
    (h : TripStarted k loc (recordTake k loc (s.markActive k loc)) t) : t.faults[k].latched = true := by
  rw [h.faults.latched, risen_at, if_pos rfl]
  rfl

/-- R149: a condition that starts the trip starts it whole. -/
theorem raise_tripsBy {k : Kind} {loc : Nat} {s u : State} (hlog : u.logTime = s.logTime) (hmode : u.mode = s.mode)
    (hfresh : loc ∉ u.faults[k].active) (hs : startsTrip u k = true) : TripsBy s (raise k loc u) k loc := by
  have h := raise_trips hfresh hs
  exact {
    mode := h.outputs.1
    trip := h.trip.1
    millStop := h.outputs.2.1
    standTrip := h.outputs.2.2
    firstOut := by
      rw [h.trip.2.2, ← hlog, ← hmode]
      rfl
    latched := raise_trips_latched h
    stands := fun j => by rw [h.stands j]; exact ⟨rfl, rfl⟩
    actuators := fun j => by
      refine ⟨by rw [h.actuators j]; rfl, by rw [h.actuators j]; rfl, ?_⟩
      rw [h.sent, List.map_append, List.map_map]
      exact List.mem_append_right _ (List.mem_map.2 ⟨j, List.mem_finRange j, rfl⟩)
    marked := fun g hg => by
      rw [h.ring] at hg
      obtain ⟨x, -, rfl⟩ := List.mem_map.1 hg
      rfl
    run := h.run
    breaks := h.breaks }

/-! ### A condition that starts no trip -/

theorem raise_quiet_at {k : Kind} {loc : Nat} {s : State} (hfresh : loc ∉ s.faults[k].active) (hk : k ≠ Kind.openTimeout)
    (hs : startsTrip s k = false) (d : Kind) :
    (raise k loc s).faults[d] = if d = k then s.faults[k].risen loc s.logTime else s.faults[d] := by
  have hs' : startsTrip (s.markActive k loc) k = false := (startsTrip_congr rfl rfl rfl k).trans hs
  rw [raise_fresh hfresh, take_quiet loc hk hs', risen_at]

/-! ### The timers of chapters 5 and 7 -/

theorem unloadDue_running {s : State} {k : Stand} {t0 : Micros} {p : StandParams} (hu : s.stands[k].unload = .running t0)
    (hp : s.stands[k].params = some p) : unloadDue s k = decide (p.unload * 1000 ≤ s.age t0) := by
  simp only [unloadDue, hu, hp]

theorem breakDue_running {s : State} {j : Interstand} {t0 : Micros} (hb : s.breakTimers[j] = .running t0) :
    breakDue s j = decide (s.line.breakConfirm * 1000 ≤ s.age t0) := by
  simp only [breakDue, hb]

theorem unloadTimerExpiry_due {s : State} {k : Stand} (h : unloadDue s k = true) :
    exec (.unloadTimerExpiry k) s = .next (if s.mode = .run then
      raise Kind.standUnloaded (standLoc k) (s.stepStart.setStand k { s.stands[k] with unload := .expired })
      else s.stepStart.setStand k { s.stands[k] with unload := .expired }) :=
  congrArg Host.Outcome.next (if_pos (show unloadDue s.stepStart k = true from h))

theorem breakTimerExpiry_due {s : State} {j : Interstand} (h : breakDue s j = true) :
    exec (.breakTimerExpiry j) s = .next (raise Kind.stripBreak (interstandLoc j) (s.stepStart.setBreak j .expired)) :=
  congrArg Host.Outcome.next (if_pos (show breakDue s.stepStart j = true from h))

theorem inRun_starts {s u : State} {k : Kind} (hp : u.policy = s.policy) (ht : u.trip = s.trip) (hm : u.mode = s.mode)
    (hrun : s.mode = .run) (htrips : s.trips k = true) (hnormal : s.trip = .normal) : startsTrip u k = true :=
  (startsTrip_congr hp ht hm k).trans ((startsTrip_iff s k).2 ⟨htrips, hnormal, .inr (.inr hrun)⟩)

/-- What a condition that starts the trip from RUN leaves. -/
theorem raise_inRun_trips {k : Kind} {loc : Nat} {s u : State} (hlog : u.logTime = s.logTime) (hm : u.mode = .run)
    (hfresh : loc ∉ u.faults[k].active) (hs : startsTrip u k = true) :
    (raise k loc u).mode = .tripped ∧ (raise k loc u).trip = .opening ∧
    (raise k loc u).firstOut = some ⟨k, loc, s.logTime, .run, 0⟩ ∧ (raise k loc u).faults[k].latched = true := by
  have h := raise_trips hfresh hs
  refine ⟨h.outputs.1, h.trip.1, ?_, raise_trips_latched h⟩
  rw [h.trip.2.2, ← hlog, ← hm]
  rfl

/-- What a condition that starts no trip leaves. -/
theorem raise_quiet_row {k : Kind} {loc : Nat} {u : State} (hfresh : loc ∉ u.faults[k].active) (hk : k ≠ Kind.openTimeout)
    (hs : startsTrip u k = false) : Recorded u (raise k loc u) ∧ loc ∈ (raise k loc u).faults[k].active ∧
      (raise k loc u).faults[k].latched = true ∧ (raise k loc u).faults[k].count = min (u.faults[k].count + 1) 255 := by
  have hr := raise_quiet loc hk hs
  have hrow := raise_quiet_at hfresh hk hs k
  rw [if_pos rfl] at hrow
  exact ⟨hr.recorded, hr.on, by rw [hrow]; rfl, by rw [hrow]; rfl⟩

/-- Settles O58: the two timers of RUN, due and not due. -/
theorem conditionTimersExpire : Obligations.ConditionTimersExpire := by
  refine ⟨fun k s t0 p hu hp => ?_, fun j s t0 hb => ?_⟩
  · have hdue := unloadDue_running hu hp
    refine ⟨fun h => congrArg Host.Outcome.next (if_neg (show ¬ unloadDue s k = true by simpa [hdue] using h)),
      fun h hm => (unloadTimerExpiry_due (by simpa [hdue] using h)).trans (congrArg Host.Outcome.next (if_neg hm)),
      fun h hm hfresh => ?_⟩
    have hexec := (unloadTimerExpiry_due (s := s) (k := k) (by simpa [hdue] using h)).trans (congrArg Host.Outcome.next (if_pos hm))
    generalize hu' : s.stepStart.setStand k { s.stands[k] with unload := .expired } = u at hexec
    have hfresh' : standLoc k ∉ u.faults[Kind.standUnloaded].active := by rw [← hu']; exact hfresh
    refine ⟨fun htrips hnormal => ?_, fun htrips => ?_⟩
    · have hs : startsTrip u Kind.standUnloaded = true := by
        rw [← hu']; exact inRun_starts (s := s) rfl rfl rfl hm htrips hnormal
      obtain ⟨hmode, htrip, hfirst, hlatched⟩ := raise_inRun_trips (s := s) (by rw [← hu']; rfl) (by rw [← hu']; exact hm) hfresh' hs
      exact ⟨_, hexec, hmode, htrip, hfirst, hlatched, (raise_trips hfresh' hs).runEnds.2⟩
    · have hs : startsTrip u Kind.standUnloaded = false := by rw [← hu']; exact startsTrip_of_trips htrips
      obtain ⟨hrec, hon, hlatched, hcount⟩ := raise_quiet_row hfresh' (by decide) hs
      refine ⟨_, hexec, ?_, ?_, ?_, hon, hlatched, ?_⟩
      · rw [(congrArg State.mode hrec :), ← hu']; exact hm
      · rw [(congrArg State.trip hrec :), ← hu']; rfl
      · rw [(congrArg State.stands hrec :), ← hu']; exact (stands_set_at _ _ _ _).trans (if_pos rfl)
      · rw [hcount, ← hu']; rfl
  · have hdue := breakDue_running hb
    refine ⟨fun h => congrArg Host.Outcome.next (if_neg (show ¬ breakDue s j = true by simpa [hdue] using h)),
      fun h hm hfresh => ?_⟩
    have hexec := breakTimerExpiry_due (s := s) (j := j) (by simpa [hdue] using h)
    generalize hu' : s.stepStart.setBreak j .expired = u at hexec
    have hfresh' : interstandLoc j ∉ u.faults[Kind.stripBreak].active := by rw [← hu']; exact hfresh
    refine ⟨fun htrips hnormal => ?_, fun htrips => ?_⟩
    · have hs : startsTrip u Kind.stripBreak = true := by
        rw [← hu']; exact inRun_starts (s := s) rfl rfl rfl hm htrips hnormal
      obtain ⟨hmode, htrip, hfirst, hlatched⟩ := raise_inRun_trips (s := s) (by rw [← hu']; rfl) (by rw [← hu']; exact hm) hfresh' hs
      exact ⟨_, hexec, hmode, htrip, hfirst, hlatched, (raise_trips hfresh' hs).runEnds.1, (raise_trips hfresh' hs).breaks⟩
    · have hs : startsTrip u Kind.stripBreak = false := by rw [← hu']; exact startsTrip_of_trips htrips
      obtain ⟨hrec, hon, hlatched, hcount⟩ := raise_quiet_row hfresh' (by decide) hs
      refine ⟨_, hexec, ?_, ?_, ?_, hon, hlatched, ?_⟩
      · rw [(congrArg State.mode hrec :), ← hu']; exact hm
      · rw [(congrArg State.trip hrec :), ← hu']; rfl
      · rw [(congrArg State.breakTimers hrec :), ← hu']; rfl
      · rw [hcount, ← hu']; rfl

end Sys2Proof.Machine

/-! SUPPORT. The EXTERNAL_STOP input (R139) in each mode. -/

namespace Sys2Proof.Machine

theorem queueNotice_room {p : Port} (n : Notice) (h : p.notices.length < 32) : (p.queueNotice n).notices = p.notices ++ [n] :=
  congrArg Port.notices (if_pos h)

/-- Three notices in a row, the queue having room for them. -/
theorem queueNotice_three {p : Port} (a b c : Notice) (h : p.notices.length + 3 ≤ 32) :
    (((p.queueNotice a).queueNotice b).queueNotice c).notices = p.notices ++ [a, b, c] := by
  have ha := queueNotice_room (p := p) a (by omega)
  have hb := queueNotice_room (p := p.queueNotice a) b (by rw [ha]; simp; omega)
  rw [queueNotice_room c (by rw [hb, ha]; simp; omega), hb, ha]
  simp

theorem trips_policy {s : State} {k : Kind} (h : s.trips k = true) : s.policy[k].enabled = true ∧ s.policy[k].tripping = true := by
  simpa [State.trips] using h

/-- R139: the state in which an asserted EXTERNAL_STOP is judged. -/
def State.asserting (s : State) : State := { s.stepStart with externalStop := true }

theorem externalStopAsserted_exec (s : State) : exec .externalStopAsserted s = .next (raise Kind.externalStop 0 s.asserting) := rfl

/-- R138, R149: the notices and the fault log of a tripping take. -/
theorem raise_trips_records {k : Kind} {loc : Nat} {s : State} (hfresh : loc ∉ s.faults[k].active) (hs : startsTrip s k = true)
    (hroom : s.port.notices.length + 3 ≤ 32) :
    (raise k loc s).port.notices = s.port.notices ++ [.fault k loc (min (s.faults[k].count + 1) 255) true s.mode s.trip .firstOut,
      .trip .opening k loc s.mode, .modeChanged (some s.mode) .tripped .trip] := by
  have h := raise_trips hfresh hs
  obtain ⟨hen, htr⟩ := trips_policy ((startsTrip_iff s k).1 hs).1
  have hclass : takeClass (s.markActive k loc) k = .firstOut :=
    if_pos ((startsTrip_congr (s := s) (t := s.markActive k loc) rfl rfl rfl k).trans hs)
  have hport : (recordTake k loc (s.markActive k loc)).port = s.port.queueNotice
      (.fault k loc (min (s.faults[k].count + 1) 255) true s.mode s.trip .firstOut) := by
    have hrow : (s.markActive k loc).faults[k].count = s.faults[k].count := by rw [markActive_at]
    have hpol : (s.markActive k loc).policy = s.policy := rfl
    have hcount : ((s.markActive k loc).faults[k].taken loc s.logTime).count = min (s.faults[k].count + 1) 255 := by
      rw [← hrow]; rfl
    show (if (s.markActive k loc).policy[k].enabled then _ else _) = _
    rw [hpol, if_pos hen, htr, hclass, ← hcount]
    rfl
  rw [h.port, hport]
  exact queueNotice_three _ _ _ hroom

theorem raise_trips_faultLog {k : Kind} {loc : Nat} {s : State} (hfresh : loc ∉ s.faults[k].active) (hs : startsTrip s k = true) :
    (raise k loc s).logs[LogNo.fault].next = s.logs[LogNo.fault].next + 2 := by
  rw [(raise_trips hfresh hs).faultLog]
  show (((s.logs.set LogNo.fault _)[LogNo.fault] : Log).next + 1) = _
  rw [logs_set_same]
  show (s.logs[LogNo.fault].next + 1) + 1 = _
  rw [BitVec.add_assoc]
  rfl

theorem risen_empty {e : FaultEntry} (t : Millis) (h : e.active = []) :
    e.risen 0 t = ⟨true, [0], min (e.count + 1) 255, if e.latched then e.first else some (0, t), some 0⟩ := by
  simp [FaultEntry.risen, FaultEntry.taken, insertLoc, h, satAdd]

theorem handed_mode (a : Actuator) (now : Micros) : (a.handed now).mode =
    if a.mode = .idle ∨ a.mode = .following ∨ a.mode = .moving then .opening else a.mode := rfl

theorem handed_openTimer {a : Actuator} (now : Micros) (h1 : a.mode ≠ .opening) (h2 : a.mode ≠ .opened) :
    (a.handed now).openTimer = some now := if_neg (by simp [h1, h2])

/-- R149: the trip that EXTERNAL_STOP starts. -/
theorem externalStop_trips {s : State} {old : FaultEntry} (hm : s.mode = .ready ∨ s.mode = .thread ∨ s.mode = .run)
    (hnormal : s.trip = .normal) (htrips : s.trips 0 = true) (hold : old = s.faults[(0 : Kind)]) (hact : old.active = []) :
    TripStarted Kind.externalStop 0 (recordTake Kind.externalStop 0 (s.asserting.markActive Kind.externalStop 0))
      (raise Kind.externalStop 0 s.asserting) ∧ 0 ∉ s.asserting.faults[Kind.externalStop].active ∧
    startsTrip s.asserting Kind.externalStop = true ∧
    (raise Kind.externalStop 0 s.asserting).faults[(0 : Kind)] =
      ⟨true, [0], min (old.count + 1) 255, if old.latched then old.first else some (0, s.logTime), some 0⟩ := by
  subst hold
  have hfresh : 0 ∉ s.asserting.faults[Kind.externalStop].active := by
    show 0 ∉ s.faults[(0 : Kind)].active
    rw [hact]; exact List.not_mem_nil
  have hs : startsTrip s.asserting Kind.externalStop = true :=
    (startsTrip_congr (s := s) (t := s.asserting) rfl rfl rfl _).trans ((startsTrip_iff s _).2 ⟨htrips, hnormal, hm⟩)
  refine ⟨raise_trips hfresh hs, hfresh, hs, ?_⟩
  rw [← risen_empty s.logTime hact]
  refine ((raise_trips hfresh hs).row (d := 0) (by decide)).trans ?_
  rw [risen_at]
  rfl

/-- Settles O59: EXTERNAL_STOP asserted by mode, and released. -/
theorem externalStopTrips : Obligations.ExternalStopTrips := by
  refine ⟨fun s old hm hnormal htrips hold hact => ?_, fun s hm hact => ?_, fun s f hm htrip htrips hact hf => ?_, fun s => rfl⟩
  · obtain ⟨h, hfresh, hs, hrow⟩ := externalStop_trips hm hnormal htrips hold hact
    have hnotes := raise_trips_records hfresh hs
    have hlog := raise_trips_faultLog hfresh hs
    refine ⟨_, externalStopAsserted_exec s, ?_⟩
    generalize raise Kind.externalStop 0 s.asserting = t at h hrow hnotes hlog
    have hkeep : ∀ {α : Type} (f : State → α), f (State.untrip (recordTake Kind.externalStop 0
      (s.asserting.markActive Kind.externalStop 0)) t) = f (recordTake Kind.externalStop 0
      (s.asserting.markActive Kind.externalStop 0)) := fun f => congrArg f h.frame
    refine ⟨(hkeep State.externalStop :), h.outputs.1, h.outputs.2.1, h.outputs.2.2, (hkeep State.hardStop :), h.trip.1, h.trip.2.1,
      h.trip.2.2, hrow, h.stands, fun k => ?_, ?_, h.ring, h.run, h.breaks, fun hroom => ?_, hlog, (hkeep State.queue :),
      (hkeep State.table :), (hkeep State.transitions :), (hkeep State.reports :), (hkeep State.channels :), (hkeep State.links :),
      (hkeep State.line :), (hkeep State.policy :), (hkeep State.points :), (hkeep State.committed :)⟩
    · rw [h.actuators k]
      exact ⟨rfl, rfl, rfl, rfl, fun h1 h2 => handed_openTimer _ h1 h2⟩
    · rw [h.sent]; rfl
    · rw [hold, hnotes hroom]
      show _ ++ [Notice.fault 0 0 _ true s.mode s.trip .firstOut, _, _] = _
      rw [hnormal]
      rfl
  · have hfresh : 0 ∉ s.asserting.faults[Kind.externalStop].active := by
      show 0 ∉ s.faults[(0 : Kind)].active
      rw [hact]; exact List.not_mem_nil
    have hs : startsTrip s.asserting Kind.externalStop = false := startsTrip_config hm _
    obtain ⟨hrec, -, hlatched, -⟩ := raise_quiet_row hfresh (by decide) hs
    have hrow := raise_quiet_at hfresh (by decide) hs 0
    refine ⟨_, externalStopAsserted_exec s, (congrArg State.externalStop hrec :), (congrArg State.mode hrec :).trans hm,
      (congrArg State.trip hrec :), hlatched, ?_, (congrArg State.stands hrec :), (congrArg State.actuators hrec :),
      (congrArg State.ring hrec :)⟩
    rw [hrow, if_pos rfl]
    exact congrArg FaultEntry.active (risen_empty s.logTime hact)
  · have hfresh : 0 ∉ s.asserting.faults[Kind.externalStop].active := by
      show 0 ∉ s.faults[(0 : Kind)].active
      rw [hact]; exact List.not_mem_nil
    have hs : startsTrip s.asserting Kind.externalStop = false := startsTrip_of_trip htrip _
    obtain ⟨hrec, -, hlatched, -⟩ := raise_quiet_row hfresh (by decide) hs
    have htake : raise Kind.externalStop 0 s.asserting =
        recordTake Kind.externalStop 0 (s.asserting.markActive Kind.externalStop 0) :=
      (raise_fresh hfresh).trans (take_quiet 0 (by decide) (startsTrip_of_trip htrip _))
    have hsub : isSubsequent (s.asserting.markActive Kind.externalStop 0) Kind.externalStop = true := by
      show (s.trips 0 && s.trip != .normal) = true
      simp [htrips, htrip]
    refine ⟨_, externalStopAsserted_exec s, (congrArg State.mode hrec :).trans hm, (congrArg State.trip hrec :), ?_, hlatched,
      (congrArg State.stands hrec :), (congrArg State.actuators hrec :), (congrArg State.hardStop hrec :), (congrArg State.ring hrec :)⟩
    rw [htake]
    show (if isSubsequent (s.asserting.markActive Kind.externalStop 0) Kind.externalStop then
      s.firstOut.map fun f => { f with subsequent := satAdd f.subsequent 1 255 } else s.firstOut) = _
    rw [if_pos hsub, hf]
    rfl

end Sys2Proof.Machine

/-! SUPPORT. What a change of an actuator's state does (R120), and the statuses that make it (R118, R121, R123, R128). -/

namespace Sys2Proof.Machine

/-! ### Leaving and entering a state -/

/-- A condition of actuator k ends together with the hold cause that goes with it. -/
def endsWithCause (c : HoldCause) (d : Kind) (k : Stand) (s : State) : State := causeClears c k (s.inactive d (standLoc k))

/-- R121, R123, R126: what leaving an actuator state ends. -/
def leaveActMode (k : Stand) (s : State) : ActMode → State
  | .unlinked => endsWithCause .actuatorUnlinked Kind.actuatorSilent k s
  | .faulted => endsWithCause .actuatorFaulted Kind.actuatorFault k s
  | .following => endsWithCause .positioningTimeout Kind.positioningTimeout k s
  | .idle => s
  | .moving => s
  | .opening => s
  | .opened => s

/-- R100, R128: what entering an actuator state does. -/
def enterActMode (k : Stand) (s : State) : ActMode → State
  | .unlinked => causeArises .actuatorUnlinked k s
  | .faulted => causeArises .actuatorFaulted k s
  | .opened => reachedOpen k (s.inactive Kind.openTimeout (standLoc k))
  | .idle => s
  | .following => s
  | .moving => s
  | .opening => s

/-- R120: an actuator in another state, with its two timers. -/
def Actuator.into (a : Actuator) (m : ActMode) : Actuator :=
  { a with
    mode := m
    posTimer := if a.mode = .moving then none else a.posTimer
    openTimer := if m = .opened then none else a.openTimer }

theorem leaveActMode_eq (k : Stand) (s : State) (old : ActMode) : leaveActMode k s old =
    (fun u => if old = .following then endsWithCause .positioningTimeout Kind.positioningTimeout k u else u)
      ((fun u => if old = .faulted then endsWithCause .actuatorFaulted Kind.actuatorFault k u else u)
        (if old = .unlinked then endsWithCause .actuatorUnlinked Kind.actuatorSilent k s else s)) := by
  cases old <;> rfl

theorem enterActMode_eq (k : Stand) (s : State) (m : ActMode) : enterActMode k s m =
    (fun u => if m = .opened then reachedOpen k (u.inactive Kind.openTimeout (standLoc k)) else u)
      ((fun u => if m = .faulted then causeArises .actuatorFaulted k u else u)
        (if m = .unlinked then causeArises .actuatorUnlinked k s else s)) := by
  cases m <;> rfl

theorem setActMode_same {k : Stand} {m : ActMode} {s : State} (h : s.actuators[k].mode = m) : setActMode k m s = s := if_pos h

theorem setActMode_change {k : Stand} {m : ActMode} {s : State} (h : s.actuators[k].mode ≠ m) : setActMode k m s =
    enterActMode k (leaveActMode k (s.setActuator k (s.actuators[k].into m)) s.actuators[k].mode) m := by
  rw [enterActMode_eq, leaveActMode_eq]
  exact if_neg h

theorem into_kept {a : Actuator} {m : ActMode} (hm : m ≠ .opened) :
    a.into m = { a with mode := m, posTimer := if a.mode = .moving then none else a.posTimer } := by
  rw [Actuator.into, if_neg hm]

theorem endsWithCause_frame (c : HoldCause) (d : Kind) (k : Stand) (s : State) :
    { endsWithCause c d k s with stands := s.stands, faults := s.faults } = s := rfl

theorem endsWithCause_ends (c : HoldCause) (d : Kind) (k : Stand) (s : State) : Ends [d] s (endsWithCause c d k s) :=
  (inactive_ends s d (standLoc k)).trans (Ends.of_faults (by rfl) _)

theorem endsWithCause_stand (c : HoldCause) (d : Kind) (k j : Stand) (s : State) : (endsWithCause c d k s).stands[j] =
    if j = k then { s.stands[k] with holds := s.stands[k].holds.put c false } else s.stands[j] :=
  stands_set_at _ _ _ _

theorem endsWithCause_gone (c : HoldCause) (d : Kind) (k : Stand) (s : State) :
    standLoc k ∉ (endsWithCause c d k s).faults[d].active := inactive_gone s d (standLoc k)

/-- Leaving a state ends conditions and clears hold causes of its own stand; it changes no stand mode. -/
theorem leaveActMode_spec (k : Stand) (s : State) (old : ActMode) :
    { leaveActMode k s old with stands := s.stands, faults := s.faults } = s ∧
    Ends [Kind.positioningTimeout, Kind.actuatorFault, Kind.actuatorSilent] s (leaveActMode k s old) ∧
    (∀ j : Stand, j ≠ k → (leaveActMode k s old).stands[j] = s.stands[j]) ∧
    ∃ h : Holds, (leaveActMode k s old).stands[k] = { s.stands[k] with holds := h } := by
  have hkeep : { s with stands := s.stands, faults := s.faults } = s ∧
      Ends [Kind.positioningTimeout, Kind.actuatorFault, Kind.actuatorSilent] s s ∧
      (∀ j : Stand, j ≠ k → s.stands[j] = s.stands[j]) ∧ ∃ h : Holds, s.stands[k] = { s.stands[k] with holds := h } :=
    ⟨rfl, Ends.refl _ s, fun _ _ => rfl, _, rfl⟩
  have hends : ∀ (c : HoldCause) (d : Kind), d ∈ [Kind.positioningTimeout, Kind.actuatorFault, Kind.actuatorSilent] →
      { endsWithCause c d k s with stands := s.stands, faults := s.faults } = s ∧
      Ends [Kind.positioningTimeout, Kind.actuatorFault, Kind.actuatorSilent] s (endsWithCause c d k s) ∧
      (∀ j : Stand, j ≠ k → (endsWithCause c d k s).stands[j] = s.stands[j]) ∧
      ∃ h : Holds, (endsWithCause c d k s).stands[k] = { s.stands[k] with holds := h } := fun c d hd =>
    ⟨rfl, (endsWithCause_ends c d k s).mono (by simpa using hd), fun j hj => (endsWithCause_stand c d k j s).trans (if_neg hj),
      _, (endsWithCause_stand c d k k s).trans (if_pos rfl)⟩
  cases old with
  | unlinked => exact hends _ _ (by decide)
  | faulted => exact hends _ _ (by decide)
  | following => exact hends _ _ (by decide)
  | idle => exact hkeep
  | moving => exact hkeep
  | opening => exact hkeep
  | opened => exact hkeep

/-! ### Hold causes (R100) -/

/-- R100: a stand that a cause has reached. -/
def StandCtl.told (st : StandCtl) (c : HoldCause) : StandCtl :=
  if st.mode = .off ∨ st.mode = .opened then st else { st with mode := .hold, holds := st.holds.put c true }

/-- R124, notes/assumptions/33: the mode kept for a sample of the same microsecond after a cause has reached the stand. -/
def StandCtl.heldAfter (st : StandCtl) (c : HoldCause) (held : Option StandMode) : Option StandMode :=
  if st.mode = .off ∨ st.mode = .opened then held
  else if c = .gapLost then none
  else if st.mode = .hold then held else some st.mode

theorem setHeldFrom_self (s : State) (k : Stand) : s.setHeldFrom k s.heldFrom[k] = s := by simp [State.setHeldFrom]

theorem causeArises_eq (c : HoldCause) (k : Stand) (s : State) : causeArises c k s =
    (s.setStand k (s.stands[k].told c)).setHeldFrom k (s.stands[k].heldAfter c s.heldFrom[k]) := by
  have hidle : s.stands[k].mode = .off ∨ s.stands[k].mode = .opened → s =
      (s.setStand k (s.stands[k].told c)).setHeldFrom k (s.stands[k].heldAfter c s.heldFrom[k]) := fun h => by
    rw [StandCtl.told, if_pos h, StandCtl.heldAfter, if_pos h, setStand_self, setHeldFrom_self]
  have hgoes : s.stands[k].mode = .position ∨ s.stands[k].mode = .gauge → goesToHold c k s =
      (s.setStand k (s.stands[k].told c)).setHeldFrom k (s.stands[k].heldAfter c s.heldFrom[k]) := fun h => by
    have hn : ¬ (s.stands[k].mode = .off ∨ s.stands[k].mode = .opened) := by rcases h with h | h <;> rw [h] <;> decide
    have hh : s.stands[k].mode ≠ .hold := by rcases h with h | h <;> rw [h] <;> decide
    rw [StandCtl.told, if_neg hn, StandCtl.heldAfter, if_neg hn, if_neg hh]
    cases c <;> rfl
  unfold causeArises
  dsimp only
  split
  next h => exact hidle (.inl h)
  next h => exact hidle (.inr h)
  next h => exact hgoes (.inl h)
  next h => exact hgoes (.inr h)
  next h =>
    have hn : ¬ (s.stands[k].mode = .off ∨ s.stands[k].mode = .opened) := by rw [h]; decide
    rw [StandCtl.told, if_neg hn, StandCtl.heldAfter, if_neg hn, if_pos h]
    congr 2
    rw [← h]

theorem causeArises_stand (c : HoldCause) (k j : Stand) (s : State) :
    (causeArises c k s).stands[j] = if j = k then s.stands[k].told c else s.stands[j] := by
  rw [causeArises_eq]
  exact stands_set_at _ _ _ _

theorem causeArises_heldFrom (c : HoldCause) (k j : Stand) (s : State) :
    (causeArises c k s).heldFrom[j] = if j = k then s.stands[k].heldAfter c s.heldFrom[k] else s.heldFrom[j] := by
  rw [causeArises_eq]
  exact heldFrom_set_at _ _ _ _

theorem causeArises_frame (c : HoldCause) (k : Stand) (s : State) :
    { causeArises c k s with stands := s.stands, heldFrom := s.heldFrom } = s := by
  rw [causeArises_eq]
  rfl

/-- Whether a hold cause is held. -/
def Holds.has (h : Holds) : HoldCause → Bool
  | .gapLost => h.gapLost
  | .actuatorFaulted => h.faulted
  | .actuatorUnlinked => h.unlinked
  | .positioningTimeout => h.posTimeout

theorem Holds.has_put (h : Holds) (c : HoldCause) (b : Bool) : (h.put c b).has c = b := by cases c <;> rfl

/-- R100, R120: a stand told a change of its actuator, at a state that has its mode and the mode kept for samples. -/
theorem causeArises_told {c : HoldCause} {k : Stand} {s u : State} (hc : c ≠ .gapLost) (hm : u.stands[k].mode = s.stands[k].mode)
    (hheld : u.heldFrom[k] = s.heldFrom[k]) : ToldHold s (causeArises c k u) k fun h => h.has c := by
  refine ⟨fun h => ?_, fun h => ?_, fun h => ?_⟩
  · have hn : ¬ (u.stands[k].mode = .off ∨ u.stands[k].mode = .opened) := by rw [hm]; rcases h with h | h <;> rw [h] <;> decide
    have hh : u.stands[k].mode ≠ .hold := by rw [hm]; rcases h with h | h <;> rw [h] <;> decide
    rw [causeArises_stand, causeArises_heldFrom, if_pos rfl, if_pos rfl, StandCtl.told, if_neg hn, StandCtl.heldAfter, if_neg hn,
      if_neg hc, if_neg hh, hm]
    exact ⟨rfl, Holds.has_put _ _ _, rfl⟩
  · have hn : ¬ (u.stands[k].mode = .off ∨ u.stands[k].mode = .opened) := by rw [hm, h]; decide
    rw [causeArises_stand, causeArises_heldFrom, if_pos rfl, if_pos rfl, StandCtl.told, if_neg hn, StandCtl.heldAfter, if_neg hn,
      if_neg hc, if_pos (hm.trans h), hheld]
    exact ⟨rfl, Holds.has_put _ _ _, rfl⟩
  · have hn : u.stands[k].mode = .off ∨ u.stands[k].mode = .opened := by rw [hm]; exact h
    rw [causeArises_stand, if_pos rfl, StandCtl.told, if_pos hn, hm]

theorem ToldHold.congr {s t u : State} {k : Stand} {cause : Holds → Bool} (h : ToldHold s t k cause) (hs : u.stands = t.stands)
    (hh : u.heldFrom = t.heldFrom) : ToldHold s u k cause :=
  ⟨by rw [hs, hh]; exact h.leaves, by rw [hs, hh]; exact h.joins, by rw [hs]; exact h.idle⟩

/-! ### The states that tell the stand -/

/-- R121, R123: an actuator that becomes UNLINKED or FAULTED: its state, its stand told, the rest untouched. -/
theorem setActMode_tells {k : Stand} {m : ActMode} {c : HoldCause} {s : State}
    (hc : (m = .unlinked ∧ c = .actuatorUnlinked) ∨ (m = .faulted ∧ c = .actuatorFaulted)) (h : s.actuators[k].mode ≠ m) :
    { setActMode k m s with actuators := s.actuators, stands := s.stands, heldFrom := s.heldFrom, faults := s.faults } = s ∧
    (setActMode k m s).actuators = s.actuators.set k { s.actuators[k] with
      mode := m, posTimer := if s.actuators[k].mode = .moving then none else s.actuators[k].posTimer } ∧
    Ends [Kind.positioningTimeout, Kind.actuatorFault, Kind.actuatorSilent] s (setActMode k m s) ∧
    ToldHold s (setActMode k m s) k fun h => h.has c := by
  have hopen : m ≠ .opened := by rcases hc with ⟨rfl, -⟩ | ⟨rfl, -⟩ <;> decide
  have henter : ∀ u, enterActMode k u m = causeArises c k u := fun u => by
    rcases hc with ⟨rfl, rfl⟩ | ⟨rfl, rfl⟩ <;> rfl
  rw [setActMode_change h, henter]
  obtain ⟨hframe, hends, -, holds, hstand⟩ := leaveActMode_spec k (s.setActuator k (s.actuators[k].into m)) s.actuators[k].mode
  generalize leaveActMode k (s.setActuator k (s.actuators[k].into m)) s.actuators[k].mode = u at hframe hends hstand
  have hcframe := causeArises_frame c k u
  refine ⟨?_, ?_, ?_, causeArises_told (by rcases hc with ⟨-, rfl⟩ | ⟨-, rfl⟩ <;> decide) (by rw [hstand]; rfl)
    (congrArg (fun s : State => s.heldFrom[k]) hframe :)⟩
  · exact ((congrArg (fun t : State => { t with
      actuators := s.actuators, stands := s.stands, heldFrom := s.heldFrom, faults := s.faults }) hcframe :).trans
      (congrArg (fun t : State => { t with
      actuators := s.actuators, stands := s.stands, heldFrom := s.heldFrom, faults := s.faults }) hframe :))
  · rw [(congrArg State.actuators hcframe :), (congrArg State.actuators hframe :), into_kept hopen]
    rfl
  · have hfaults : (causeArises c k u).faults = u.faults := (congrArg State.faults hcframe :)
    exact Ends.trans (t := u) (Ends.trans (t := s.setActuator k (s.actuators[k].into m)) (Ends.of_faults (by rfl) _) hends)
      (Ends.of_faults hfaults _)

end Sys2Proof.Machine

/-! SUPPORT. The status frames of the actuators (R118, R193) in each actuator state. -/

namespace Sys2Proof.Machine

/-! ### One frame at an empty receiver -/

theorem setActuator_twice (s : State) (k : Stand) (a b : Actuator) : (s.setActuator k a).setActuator k b = s.setActuator k b := by
  simp [State.setActuator]

theorem setActuator_same (s : State) (k : Stand) (a : Actuator) : (s.setActuator k a).actuators[k] = a := by simp

theorem setActuator_rx {s : State} {k : Stand} (h : s.actuators[k].rx = []) :
    s.setActuator k { s.actuators[k] with rx := [] } = s := by
  conv_rhs => rw [← setActuator_self s k]
  rw [← h]

theorem actuatorBytes_frame {k : Stand} {s : State} {bytes : List Byte} {fs : List (Option (List Byte))}
    (hrx : s.actuators[k].rx = []) (hlen : bytes.length = 4) (hunt : huntFixed 0x3C 4 4 bytes = (fs, [])) :
    actuatorBytes k bytes s = fs.foldl (fun s f => takeStatusFrame k f s) s := by
  unfold actuatorBytes
  dsimp only
  rw [hrx, List.nil_append, hlen, hunt, setActuator_rx hrx]

theorem actuatorBytes_status {k : Stand} {s : State} {code arg : Byte} {st : Status} (hrx : s.actuators[k].rx = [])
    (hst : statusOf [code, arg] = some st) : actuatorBytes k (statusFrameBytes code arg) s = takeStatus k st s := by
  rw [actuatorBytes_frame hrx rfl (huntFixed_statusFrame code arg)]
  show takeStatusFrame k (some [code, arg]) s = _
  simp only [takeStatusFrame, Option.bind_some, hst]

/-- R193: a frame that fails its check, with no further sync byte in it. -/
theorem huntFixed_badStatus {code arg crc : Byte} (hcode : code ≠ 0x3C) (harg : arg ≠ 0x3C) (hcrc : crc ≠ 0x3C) :
    huntFixed 0x3C 4 4 [0x3C, code, arg, crc] =
      (if crc8 [code, arg] = crc then ([some [code, arg]], []) else ([none], [])) := by
  have hcode' : code ≠ 60#8 := hcode
  have harg' : arg ≠ 60#8 := harg
  have hcrc' : crc ≠ 60#8 := hcrc
  simp [huntFixed, byteAt, hcode', harg', hcrc']

theorem actuatorBadFrame_exec {k : Stand} {s : State} {code arg crc : Byte} (hrx : s.actuators[k].rx = []) (hcode : code ≠ 0x3C)
    (harg : arg ≠ 0x3C) (hcrc : crc ≠ 0x3C) (hbad : crc ≠ crc8 [code, arg] ∨ statusOf [code, arg] = none) :
    actuatorBytes k [0x3C, code, arg, crc] s = badStatus k s := by
  have hunt := huntFixed_badStatus hcode harg hcrc
  by_cases hc : crc8 [code, arg] = crc
  · rw [if_pos hc] at hunt
    have hst : statusOf [code, arg] = none := hbad.resolve_left fun h => h hc.symm
    rw [actuatorBytes_frame hrx rfl hunt]
    show takeStatusFrame k (some [code, arg]) s = _
    simp only [takeStatusFrame, Option.bind_some, hst]
  · rw [if_neg hc] at hunt
    rw [actuatorBytes_frame hrx rfl hunt]
    rfl

/-! ### The statuses by actuator state -/

/-- R118: a status answers the oldest command, and is counted. -/
def Actuator.answered (a : Actuator) (now : Micros) : Actuator :=
  { a with
    unanswered := a.unanswered - 1, statuses := min (a.statuses + 1) 65535
    replyTimer := if 1 < a.unanswered then some now else none }

theorem takeStatus_ack (k : Stand) (ready : Bool) (s : State) :
    takeStatus k (.ack ready) s = takeAck k ready (s.setActuator k (s.actuators[k].answered s.time)) := rfl

theorem takeStatus_fault (k : Stand) (code : Byte) (s : State) :
    takeStatus k (.fault code) s = takeFault k code (s.setActuator k (s.actuators[k].answered s.time)) := rfl

theorem takeStatus_open (k : Stand) (s : State) :
    takeStatus k .openConfirmed s = takeOpenConfirmed k (s.setActuator k (s.actuators[k].answered s.time)) := rfl

/-- R120: the state in which an ACK is judged. -/
def State.acked (s : State) (k : Stand) (ready : Bool) : State := s.setActuator k { s.actuators[k] with readyFlag := some ready }

theorem takeAck_still {k : Stand} {ready : Bool} {s : State}
    (h : s.actuators[k].mode = .opening ∨ s.actuators[k].mode = .opened ∨ (s.actuators[k].mode = .faulted ∧ ready = false) ∨
      (ready = true ∧ (s.actuators[k].mode = .idle ∨ s.actuators[k].mode = .following ∨ s.actuators[k].mode = .moving))) :
    takeAck k ready s = s.acked k ready := by
  rcases h with h | h | ⟨h, rfl⟩ | ⟨rfl, h | h | h⟩ <;>
    simp only [takeAck, setActuator_same, h, if_true, Bool.false_eq_true, if_false, State.acked]

theorem takeAck_unlinked {k : Stand} {ready : Bool} {s : State} (h : s.actuators[k].mode = .unlinked)
    (hd : ready = true ∨ s.actuators[k].demand = true) :
    takeAck k ready s = setActMode k (if s.actuators[k].demand then .opening else .idle) (s.acked k ready) := by
  cases hdem : s.actuators[k].demand
  · have hr : ready = true := hd.resolve_right (by rw [hdem]; decide)
    simp only [takeAck, setActuator_same, h, hr, hdem, if_true, Bool.false_eq_true, if_false, State.acked]
  · simp only [takeAck, setActuator_same, h, hdem, if_true, State.acked]

theorem takeAck_recovers {k : Stand} {s : State} (h : s.actuators[k].mode = .faulted) :
    takeAck k true s = setActMode k (if s.actuators[k].demand then .opening else .idle) (s.acked k true) := by
  simp only [takeAck, setActuator_same, h, if_true, State.acked]

/-- R123: the states in which an ACK with the ready flag clear, or an OPEN_CONFIRMED that nothing commanded, faults an actuator. -/
def Actuator.idling (a : Actuator) : Prop :=
  a.mode = .idle ∨ a.mode = .following ∨ a.mode = .moving ∨ (a.mode = .unlinked ∧ a.demand = false)

theorem takeAck_faults {k : Stand} {s : State} (h : s.actuators[k].idling) :
    takeAck k false s = faultActuator k 0xFE (s.acked k false) := by
  rcases h with h | h | h | ⟨h, hd⟩
  · simp only [takeAck, setActuator_same, h, Bool.false_eq_true, if_false, State.acked, codeNotReady]
  · simp only [takeAck, setActuator_same, h, Bool.false_eq_true, if_false, State.acked, codeNotReady]
  · simp only [takeAck, setActuator_same, h, Bool.false_eq_true, if_false, State.acked, codeNotReady]
  · simp only [takeAck, setActuator_same, h, hd, Bool.false_eq_true, if_false, State.acked, codeNotReady]

theorem takeOpenConfirmed_faults {k : Stand} {s : State} (h : s.actuators[k].idling) :
    takeOpenConfirmed k s = faultActuator k 0xFF s := by
  rcases h with h | h | h | ⟨h, hd⟩
  · simp only [takeOpenConfirmed, h, codeUncommandedOpen]
  · simp only [takeOpenConfirmed, h, codeUncommandedOpen]
  · simp only [takeOpenConfirmed, h, codeUncommandedOpen]
  · simp only [takeOpenConfirmed, h, hd, Bool.false_eq_true, if_false, codeUncommandedOpen]

theorem takeOpenConfirmed_still {k : Stand} {s : State}
    (h : s.actuators[k].mode = .opened ∨ (s.actuators[k].mode = .faulted ∧ s.actuators[k].demand = false)) :
    takeOpenConfirmed k s = s := by
  rcases h with h | ⟨h, hd⟩
  · simp only [takeOpenConfirmed, h]
  · simp only [takeOpenConfirmed, h, hd, Bool.false_eq_true, if_false]

theorem takeOpenConfirmed_opens {k : Stand} {s : State} (h : s.actuators[k].mode = .opening ∨
      ((s.actuators[k].mode = .faulted ∨ s.actuators[k].mode = .unlinked) ∧ s.actuators[k].demand = true)) :
    takeOpenConfirmed k s = setActMode k .opened s := by
  rcases h with h | ⟨h | h, hd⟩
  · simp only [takeOpenConfirmed, h]
  · simp only [takeOpenConfirmed, h, hd, if_true]
  · simp only [takeOpenConfirmed, h, hd, if_true]

/-! ### Faulting (R123) -/

/-- What becomes of an actuator that is faulted from another state. -/
structure Faulted (s t : State) (k : Stand) (code : Byte) : Prop where
  frame : { t with actuators := s.actuators, stands := s.stands, heldFrom := s.heldFrom, faults := s.faults } = s
  actuators : t.actuators = s.actuators.set k { s.actuators[k] with
    mode := .faulted, faultCode := some code
    posTimer := if s.actuators[k].mode = .moving then none else s.actuators[k].posTimer }
  faults : Ends [Kind.positioningTimeout, Kind.actuatorFault, Kind.actuatorSilent] s t
  told : ToldHold s t k Holds.faulted

theorem faultActuator_eq (k : Stand) (code : Byte) (s : State) : faultActuator k code s =
    raise Kind.actuatorFault (standLoc k) (setActMode k .faulted (s.setActuator k { s.actuators[k] with faultCode := some code })) := rfl

theorem faulted_spec {k : Stand} {code : Byte} {s : State} (h : s.actuators[k].mode ≠ .faulted) :
    Faulted s (setActMode k .faulted (s.setActuator k { s.actuators[k] with faultCode := some code })) k code := by
  have hsame : (s.setActuator k { s.actuators[k] with faultCode := some code }).actuators[k] =
    { s.actuators[k] with faultCode := some code } := setActuator_same _ _ _
  obtain ⟨hframe, hacts, hends, htold⟩ := setActMode_tells (k := k) (m := .faulted) (c := .actuatorFaulted)
    (s := s.setActuator k { s.actuators[k] with faultCode := some code }) (.inr ⟨rfl, rfl⟩) (by rw [hsame]; exact h)
  refine ⟨?_, ?_, ?_, ⟨htold.leaves, htold.joins, htold.idle⟩⟩
  · exact (congrArg (fun t : State => { t with actuators := s.actuators }) hframe :)
  · rw [hacts, hsame]
    simp [State.setActuator]
  · exact Ends.trans (t := s.setActuator k { s.actuators[k] with faultCode := some code }) (Ends.of_faults (by rfl) _) hends

/-- A faulting that starts no trip. -/
theorem faultActuator_quiet {k : Stand} {code : Byte} {s : State} (h : s.actuators[k].mode ≠ .faulted)
    (htrips : s.trips Kind.actuatorFault = false) :
    (faultActuator k code s).actuators[k] = { s.actuators[k] with
      mode := .faulted, faultCode := some code
      posTimer := if s.actuators[k].mode = .moving then none else s.actuators[k].posTimer } ∧
    (k.val + 1) ∈ (faultActuator k code s).faults[Kind.actuatorFault].active ∧
    ToldHold s (faultActuator k code s) k Holds.faulted := by
  rw [faultActuator_eq]
  have hf := faulted_spec (code := code) h
  generalize setActMode k .faulted (s.setActuator k { s.actuators[k] with faultCode := some code }) = w at hf
  have hs : startsTrip w Kind.actuatorFault = false :=
    startsTrip_of_trips ((trips_congr (congrArg State.policy hf.frame :) _).trans htrips)
  have hr := raise_quiet (k := Kind.actuatorFault) (standLoc k) (by decide) hs
  refine ⟨?_, hr.on, hf.told.congr (congrArg State.stands hr.recorded :) (congrArg State.heldFrom hr.recorded :)⟩
  rw [(congrArg State.actuators hr.recorded :), hf.actuators]
  exact setActuator_same s k _

/-- A faulting that starts the trip. -/
theorem faultActuator_trips {k : Stand} {code : Byte} {s : State} (h : s.actuators[k].mode ≠ .faulted)
    (hs : startsTrip s Kind.actuatorFault = true) (hfresh : (k.val + 1) ∉ s.faults[Kind.actuatorFault].active) :
    TripsBy s (faultActuator k code s) Kind.actuatorFault (k.val + 1) ∧
    (faultActuator k code s).actuators[k].mode = .faulted ∧ (faultActuator k code s).actuators[k].faultCode = some code := by
  rw [faultActuator_eq]
  have hf := faulted_spec (code := code) h
  generalize setActMode k .faulted (s.setActuator k { s.actuators[k] with faultCode := some code }) = w at hf
  have hs' : startsTrip w Kind.actuatorFault = true :=
    (startsTrip_congr (congrArg State.policy hf.frame :) (congrArg State.trip hf.frame :) (congrArg State.mode hf.frame :) _).trans hs
  have hfresh' : standLoc k ∉ w.faults[Kind.actuatorFault].active := fun hin => hfresh (hf.faults.fewer _ _ hin)
  have hact : w.actuators[k] = { s.actuators[k] with
      mode := .faulted, faultCode := some code
      posTimer := if s.actuators[k].mode = .moving then none else s.actuators[k].posTimer } := by
    rw [hf.actuators]; exact setActuator_same s k _
  have ht := raise_trips hfresh' hs'
  refine ⟨raise_tripsBy (congrArg State.logTime hf.frame :) (congrArg State.mode hf.frame :) hfresh' hs', ?_, ?_⟩
  · rw [ht.actuators k]
    show (w.actuators[k].handed w.time).mode = _
    rw [hact]; rfl
  · rw [ht.actuators k]
    show (w.actuators[k].handed w.time).faultCode = _
    rw [hact]; rfl

/-! ### Recovering and opening (R121, R123, R128, R151) -/

/-- An actuator that leaves UNLINKED or FAULTED for IDLE or OPENING: its state, and what ends with the old one. -/
theorem setActMode_recovers {k : Stand} {m : ActMode} {s : State} {c : HoldCause} {d : Kind} (hm : m = .idle ∨ m = .opening)
    (hold : (s.actuators[k].mode = .unlinked ∧ c = .actuatorUnlinked ∧ d = Kind.actuatorSilent) ∨
      (s.actuators[k].mode = .faulted ∧ c = .actuatorFaulted ∧ d = Kind.actuatorFault)) :
    (setActMode k m s).actuators[k] = { s.actuators[k] with mode := m } ∧ (setActMode k m s).stands[k].holds.has c = false ∧
      (k.val + 1) ∉ (setActMode k m s).faults[d].active := by
  have hne : s.actuators[k].mode ≠ m := by
    rcases hold with ⟨h, -⟩ | ⟨h, -⟩ <;> rw [h] <;> rcases hm with rfl | rfl <;> decide
  have hnm : s.actuators[k].mode ≠ .moving := by rcases hold with ⟨h, -⟩ | ⟨h, -⟩ <;> rw [h] <;> decide
  have heq : setActMode k m s = endsWithCause c d k (s.setActuator k { s.actuators[k] with mode := m }) := by
    rw [setActMode_change hne, into_kept (by rcases hm with rfl | rfl <;> decide), if_neg hnm]
    rcases hold with ⟨h, rfl, rfl⟩ | ⟨h, rfl, rfl⟩ <;> rcases hm with rfl | rfl <;> rw [h] <;> rfl
  rw [heq]
  refine ⟨setActuator_same s k _, ?_, endsWithCause_gone _ _ _ _⟩
  rw [endsWithCause_stand, if_pos rfl]
  exact Holds.has_put _ _ _

theorem reachedOpen_actuators (k : Stand) (s : State) : (reachedOpen k s).actuators = s.actuators := by
  unfold reachedOpen
  cases s.firstOut <;> by_cases hn : s.trip = .normal <;>
    by_cases hall : s.trip = .opening ∧ s.opened.set k true = Vector.replicate 6 true <;> simp [hn, hall]

theorem reachedOpen_opening {k : Stand} {s : State} (h : s.trip = .opening) : (reachedOpen k s).opened = s.opened.set k true ∧
    (reachedOpen k s).trip = if s.opened.set k true = Vector.replicate 6 true then .safe else .opening := by
  have hn : s.trip ≠ .normal := by rw [h]; decide
  unfold reachedOpen
  dsimp only
  rw [if_neg hn]
  by_cases hall : s.opened.set k true = Vector.replicate 6 true
  · rw [if_pos ⟨h, hall⟩, if_pos hall]
    dsimp only
    split <;> exact ⟨rfl, rfl⟩
  · rw [if_neg fun hc => hall hc.2, if_neg hall]
    exact ⟨rfl, h⟩

/-- R128: an actuator that reaches OPEN. -/
theorem setActMode_opened {k : Stand} {s : State} (h : s.actuators[k].mode ≠ .opened) (hm : s.actuators[k].mode ≠ .moving) :
    (setActMode k .opened s).actuators[k] = { s.actuators[k] with mode := .opened, openTimer := none } ∧
    (s.trip = .opening → (setActMode k .opened s).opened = s.opened.set k true ∧
      (setActMode k .opened s).trip = if s.opened.set k true = Vector.replicate 6 true then .safe else .opening) := by
  rw [setActMode_change h]
  obtain ⟨hframe, -⟩ := leaveActMode_spec k (s.setActuator k (s.actuators[k].into .opened)) s.actuators[k].mode
  generalize leaveActMode k (s.setActuator k (s.actuators[k].into .opened)) s.actuators[k].mode = u at hframe
  have hopened : u.opened = s.opened := (congrArg State.opened hframe :)
  constructor
  · show (reachedOpen k (u.inactive Kind.openTimeout (standLoc k))).actuators[k] = _
    rw [reachedOpen_actuators, State.inactive_actuators, (congrArg State.actuators hframe :)]
    refine (setActuator_same s k _).trans ?_
    simp only [Actuator.into, if_neg hm, if_true]
  · intro htrip
    have := reachedOpen_opening (k := k) (s := u.inactive Kind.openTimeout (standLoc k)) ((congrArg State.trip hframe :).trans htrip)
    rw [State.inactive_opened, hopened] at this
    exact this

/-! ### The obligation -/

theorem ack_exec {k : Stand} {s : State} (ready : Bool) (hrx : s.actuators[k].rx = []) :
    exec (.ack k ready) s = .next (takeAck k ready (s.stepStart.setActuator k (s.actuators[k].answered s.time))) :=
  congrArg Host.Outcome.next ((actuatorBytes_status (s := s.stepStart) hrx (statusOf_ack ready)).trans (takeStatus_ack k ready _))

theorem openConfirmed_exec {k : Stand} {s : State} (hrx : s.actuators[k].rx = []) :
    exec (.openConfirmed k) s = .next (takeOpenConfirmed k (s.stepStart.setActuator k (s.actuators[k].answered s.time))) :=
  congrArg Host.Outcome.next ((actuatorBytes_status (s := s.stepStart) (code := 0x83) (arg := 0) hrx rfl).trans (takeStatus_open k _))

theorem faultStatus_exec {k : Stand} {s : State} {code : Byte} (hrx : s.actuators[k].rx = []) (h0 : code ≠ 0) (h1 : code ≠ 0xFE)
    (h2 : code ≠ 0xFF) :
    exec (.faultStatus k code) s = .next (takeFault k code (s.stepStart.setActuator k (s.actuators[k].answered s.time))) :=
  congrArg Host.Outcome.next (actuatorBytes_status (s := s.stepStart) hrx (statusOf_fault h0 h1 h2))

theorem setActuator_again {s u : State} {k : Stand} {a b : Actuator} (hu : u = s.setActuator k a) :
    u.setActuator k b = s.setActuator k b := by
  rw [hu, setActuator_twice]

/-- Settles O55: the statuses by actuator state. -/
theorem actuatorStatuses : Obligations.ActuatorStatuses := by
  intro k s u a hrx ha hu
  have hau : u.actuators[k] = a := by rw [hu]; exact setActuator_same _ _ _
  have hexu : s.stepStart.setActuator k (s.actuators[k].answered s.time) = u := by rw [hu, ha]; rfl
  have hack : ∀ ready, exec (.ack k ready) s = .next (takeAck k ready u) := fun ready => by rw [ack_exec ready hrx, hexu]
  have hmode : u.actuators[k].mode = s.actuators[k].mode := by rw [hau, ha]
  have hdemand : u.actuators[k].demand = s.actuators[k].demand := by rw [hau, ha]
  have ham : a.mode = s.actuators[k].mode := by rw [ha]
  have hacked : ∀ ready, (u.acked k ready).actuators[k] = { a with readyFlag := some ready } := fun ready => by
    rw [State.acked, hau]; exact setActuator_same _ _ _
  have hopen : exec (.openConfirmed k) s = .next (takeOpenConfirmed k u) := by rw [openConfirmed_exec hrx, hexu]
  have hidle : s.actuators[k].idling → s.actuators[k].mode ≠ .faulted := fun h => by
    rcases h with h | h | h | ⟨h, -⟩ <;> rw [h] <;> decide
  have htold : ∀ {v t : State}, v.stands = s.stands → v.heldFrom = s.heldFrom → ToldHold v t k Holds.faulted →
      ToldHold s t k Holds.faulted := fun hst hh h => ⟨hst ▸ h.leaves, hst ▸ hh ▸ h.joins, hst ▸ h.idle⟩
  refine ⟨fun ready h => ?_, fun ready h hd => ?_, fun h => ?_, fun htrips h => ⟨?_, ?_⟩, fun code h0 h1 h2 => ⟨fun h => ?_, fun h htrips => ?_⟩,
    fun h => ?_, fun h => ?_, fun code arg crc hcode harg hcrc hbad => ?_⟩
  · rw [hack, takeAck_still (by rw [hmode]; exact h), State.acked, hau]
  · have hr := setActMode_recovers (s := u.acked k ready) (m := if s.actuators[k].demand then .opening else .idle)
      (by cases s.actuators[k].demand <;> simp) (.inl ⟨by rw [hacked]; exact ham.trans h, rfl, rfl⟩)
    rw [hacked] at hr
    exact ⟨_, by rw [hack, takeAck_unlinked (hmode.trans h) (by rw [hdemand]; exact hd), hdemand], hr⟩
  · have hr := setActMode_recovers (s := u.acked k true) (m := if s.actuators[k].demand then .opening else .idle)
      (by cases s.actuators[k].demand <;> simp) (.inr ⟨by rw [hacked]; exact ham.trans h, rfl, rfl⟩)
    rw [hacked] at hr
    exact ⟨_, by rw [hack, takeAck_recovers (hmode.trans h), hdemand], hr⟩
  · obtain ⟨hact, hon, hheld⟩ := faultActuator_quiet (s := u.acked k false) (code := 0xFE)
      (by rw [hacked]; exact fun hf => hidle h (ham.symm.trans hf)) (by rw [trips_congr (s := s) (by rw [State.acked, hu]; rfl)]; exact htrips)
    rw [hacked] at hact
    refine ⟨_, by rw [hack, takeAck_faults (by rw [Actuator.idling, hmode, hdemand]; exact h)], ?_, hon,
      htold (by rw [State.acked, hu]; rfl) (by rw [State.acked, hu]; rfl) hheld⟩
    rw [hact, ← ham]
  · obtain ⟨hact, hon, hheld⟩ := faultActuator_quiet (s := u) (code := 0xFF)
      (by rw [hmode]; exact hidle h) (by rw [trips_congr (s := s) (by rw [hu]; rfl)]; exact htrips)
    rw [hau] at hact
    refine ⟨_, by rw [hopen, takeOpenConfirmed_faults (by rw [Actuator.idling, hmode, hdemand]; exact h)], ?_, hon,
      htold (by rw [hu]; rfl) (by rw [hu]; rfl) hheld⟩
    rw [hact, ← ham]
  · rw [faultStatus_exec hrx h0 h1 h2, hexu, takeFault, if_pos (hmode.trans h), hau]
  · obtain ⟨hact, hon, hheld⟩ := faultActuator_quiet (s := u) (code := code)
      (by rw [hmode]; exact h) (by rw [trips_congr (s := s) (by rw [hu]; rfl)]; exact htrips)
    rw [hau] at hact
    refine ⟨_, by rw [faultStatus_exec hrx h0 h1 h2, hexu, takeFault, if_neg (by rw [hmode]; exact h)], ?_, hon,
      htold (by rw [hu]; rfl) (by rw [hu]; rfl) hheld⟩
    rw [hact, ← ham]
  · rw [hopen, takeOpenConfirmed_still (by rw [hmode, hdemand]; exact h)]
  · have hm : u.actuators[k].mode ≠ .opened ∧ u.actuators[k].mode ≠ .moving := by
      rw [hmode]
      rcases h with h | ⟨h | h, -⟩ <;> rw [h] <;> decide
    obtain ⟨hact, htrip⟩ := setActMode_opened hm.1 hm.2
    refine ⟨_, by rw [hopen, takeOpenConfirmed_opens (by rw [hmode, hdemand]; exact h)], by rw [hact, hau], fun ht => ?_⟩
    have hopened : u.opened = s.opened := by rw [hu]; rfl
    rw [← hopened]
    exact htrip (by rw [hu]; exact ht)
  · exact congrArg Host.Outcome.next (actuatorBadFrame_exec (s := s.stepStart) hrx hcode harg hcrc hbad)

end Sys2Proof.Machine

/-! SUPPORT. Silence and keep-alive commands (R119, R122), the positioning timer (R126) and the open timers (R129, R152). -/

namespace Sys2Proof.Machine

/-! ### Silence (R122) -/

/-- R122: an actuator whose command has been met with silence. -/
def Actuator.silenced (a : Actuator) : Actuator :=
  { a with unanswered := 0, replyTimer := none, silences := min (a.silences + 1) 65535 }

theorem replyTimerExpiry_unlinked {k : Stand} {s : State} (hdue : replyDue s k = true) (h : s.actuators[k].mode = .unlinked) :
    exec (.replyTimerExpiry k) s = .next (s.stepStart.setActuator k { s.actuators[k] with unanswered := 0, replyTimer := none }) :=
  congrArg Host.Outcome.next ((if_pos (show replyDue s.stepStart k = true from hdue)).trans (if_pos h))

theorem replyTimerExpiry_silent {k : Stand} {s : State} (hdue : replyDue s k = true) (h : s.actuators[k].mode ≠ .unlinked) :
    exec (.replyTimerExpiry k) s = .next (raise Kind.actuatorSilent (standLoc k)
      (setActMode k .unlinked (s.stepStart.setActuator k s.actuators[k].silenced))) :=
  congrArg Host.Outcome.next ((if_pos (show replyDue s.stepStart k = true from hdue)).trans (if_neg h))

theorem replyDue_running {k : Stand} {s : State} {t0 : Micros} (h : s.actuators[k].replyTimer = some t0) :
    replyDue s k = decide (10000 ≤ s.age t0) := by
  rw [replyDue, h]
  rfl

/-- R121: what becomes of an actuator that falls silent, before its condition is judged. -/
structure Silenced (s t : State) (k : Stand) : Prop where
  frame : { t with actuators := s.actuators, stands := s.stands, heldFrom := s.heldFrom, faults := s.faults } = s
  actuator : t.actuators[k] = { s.actuators[k] with
    mode := .unlinked, unanswered := 0, replyTimer := none, silences := min (s.actuators[k].silences + 1) 65535
    posTimer := if s.actuators[k].mode = .moving then none else s.actuators[k].posTimer }
  faults : Ends [Kind.positioningTimeout, Kind.actuatorFault, Kind.actuatorSilent] s t
  told : ToldHold s t k Holds.unlinked

theorem silenced_spec {k : Stand} {s : State} (h : s.actuators[k].mode ≠ .unlinked) :
    Silenced s (setActMode k .unlinked (s.setActuator k s.actuators[k].silenced)) k := by
  have hsame : (s.setActuator k s.actuators[k].silenced).actuators[k] = s.actuators[k].silenced := setActuator_same _ _ _
  obtain ⟨hframe, hacts, hends, htold⟩ := setActMode_tells (k := k) (m := .unlinked) (c := .actuatorUnlinked)
    (s := s.setActuator k s.actuators[k].silenced) (.inl ⟨rfl, rfl⟩) (by rw [hsame]; exact h)
  refine ⟨(congrArg (fun t : State => { t with actuators := s.actuators }) hframe :), ?_, ?_,
    ⟨htold.leaves, htold.joins, htold.idle⟩⟩
  · rw [hacts, hsame]
    exact setActuator_same (s.setActuator k s.actuators[k].silenced) k _
  · exact Ends.trans (t := s.setActuator k s.actuators[k].silenced) (Ends.of_faults (by rfl) _) hends

/-! ### Keep-alive commands (R119) -/

theorem keepAlive_exec {k : Stand} {s : State} (hdue : keepAliveDue s k = true) :
    exec (.keepAlive k) s = .next (sendCommand k (keepAliveCommand s.actuators[k]) s.stepStart) :=
  congrArg Host.Outcome.next (if_pos (show keepAliveDue s.stepStart k = true from hdue))

theorem keepAliveDue_sent {k : Stand} {s : State} {t0 : Micros} (h : s.actuators[k].lastSent = some t0) :
    keepAliveDue s k = decide (100000 ≤ s.age t0) := by
  rw [keepAliveDue, h]
  rfl

theorem keepAliveDue_unsent {k : Stand} {s : State} (h : s.actuators[k].lastSent = none) : keepAliveDue s k = true := by
  rw [keepAliveDue, h]

/-- Settles O56: silence and keep-alive commands. -/
theorem actuatorSupervision : Obligations.ActuatorSupervision := by
  refine fun k s => ⟨fun t0 ht hage => ?_, fun h => ?_, fun h c frame hc hframe => ?_, fun t0 ht hage => ?_⟩
  · have hdue : replyDue s k = true := (replyDue_running ht).trans (decide_eq_true hage)
    refine ⟨fun hm => replyTimerExpiry_unlinked hdue hm, fun hm htrips => ⟨_, replyTimerExpiry_silent hdue hm, ?_⟩⟩
    have hsil : Silenced s.stepStart (setActMode k .unlinked (s.stepStart.setActuator k s.actuators[k].silenced)) k :=
      silenced_spec hm
    generalize setActMode k .unlinked (s.stepStart.setActuator k s.actuators[k].silenced) = w at hsil
    have hs : startsTrip w Kind.actuatorSilent = false :=
      startsTrip_of_trips ((trips_congr (s := s.stepStart) (congrArg State.policy hsil.frame :) _).trans htrips)
    have hr := raise_quiet (k := Kind.actuatorSilent) (standLoc k) (by decide) hs
    refine ⟨?_, hr.on, ?_⟩
    · rw [(congrArg State.actuators hr.recorded :)]
      exact hsil.actuator
    · have htold := hsil.told.congr (congrArg State.stands hr.recorded :) (congrArg State.heldFrom hr.recorded :)
      exact ⟨htold.leaves, htold.joins, htold.idle⟩
  · refine congrArg Host.Outcome.next (if_neg ?_)
    show ¬ replyDue s k = true
    cases ht : s.actuators[k].replyTimer with
    | none =>
      rw [replyDue, ht]
      exact Bool.false_ne_true
    | some t0 =>
      rw [replyDue_running ht, decide_eq_true_iff, not_le]
      exact h t0 ht
  · have hdue : keepAliveDue s k = true := by
      cases ht : s.actuators[k].lastSent with
      | none => exact keepAliveDue_unsent ht
      | some t0 => exact (keepAliveDue_sent ht).trans (decide_eq_true (h t0 ht))
    have hcmd : keepAliveCommand s.actuators[k] = c := hc.symm
    have hbytes : commandFrameBytes c = frame := by
      rw [hc, hframe]
      split <;> rfl
    rw [keepAlive_exec hdue, hcmd, ← hbytes]
    rfl
  · refine congrArg Host.Outcome.next (if_neg ?_)
    show ¬ keepAliveDue s k = true
    rw [keepAliveDue_sent ht, decide_eq_true_iff, not_le]
    exact hage

/-! ### The positioning timer (R126) -/

/-- R126: the state in which a move that has not arrived in time is judged. -/
def State.overran (s : State) (k : Stand) : State :=
  causeArises .positioningTimeout k (s.setActuator k { s.actuators[k] with mode := .following, posTimer := none })

theorem positioningDue_running {k : Stand} {s : State} {t0 : Micros} {p : StandParams} (hm : s.actuators[k].mode = .moving)
    (ht : s.actuators[k].posTimer = some t0) (hp : s.stands[k].params = some p) :
    positioningDue s k = decide (p.posTimeout * 1000 ≤ s.age t0) := by
  rw [positioningDue, hp, hm, ht]
  rfl

theorem setActMode_following {k : Stand} {s : State} (hm : s.actuators[k].mode = .moving) :
    setActMode k .following s = s.setActuator k { s.actuators[k] with mode := .following, posTimer := none } := by
  have hne : s.actuators[k].mode ≠ .following := by rw [hm]; decide
  rw [setActMode_change hne, into_kept (by decide), if_pos hm, hm]
  rfl

theorem positioningTimerExpiry_due {k : Stand} {s : State} (hm : s.actuators[k].mode = .moving) (hdue : positioningDue s k = true) :
    exec (.positioningTimerExpiry k) s = .next (raise Kind.positioningTimeout (standLoc k) (s.stepStart.overran k)) := by
  refine congrArg Host.Outcome.next ((if_pos (show positioningDue s.stepStart k = true from hdue)).trans ?_)
  rw [setActMode_following (s := s.stepStart) hm]
  rfl

theorem overran_frame (s : State) (k : Stand) :
    { s.overran k with actuators := s.actuators, stands := s.stands, heldFrom := s.heldFrom } = s :=
  (congrArg (fun t : State => { t with actuators := s.actuators, stands := s.stands, heldFrom := s.heldFrom })
    (causeArises_frame .positioningTimeout k
      (s.setActuator k { s.actuators[k] with mode := .following, posTimer := none })) :)

theorem overran_actuators (s : State) (k : Stand) :
    (s.overran k).actuators = s.actuators.set k { s.actuators[k] with mode := .following, posTimer := none } :=
  (congrArg State.actuators (causeArises_frame .positioningTimeout k
    (s.setActuator k { s.actuators[k] with mode := .following, posTimer := none })) :)

theorem overran_told (s : State) (k : Stand) : ToldHold s (s.overran k) k Holds.posTimeout :=
  causeArises_told (c := .positioningTimeout) (by decide) rfl rfl

/-! ### The open timers (R129, R152) -/

theorem stopOpenTimers : ∀ (ks : List Stand) (s : State),
    { ks.foldl (fun s k => stopOpenTimer k s) s with actuators := s.actuators } = s ∧
    ∀ j : Stand, (ks.foldl (fun s k => stopOpenTimer k s) s).actuators[j] =
      if j ∈ ks then { s.actuators[j] with openTimer := none } else s.actuators[j]
  | [], s => ⟨rfl, fun j => by simp⟩
  | k :: ks, s => by
    obtain ⟨hframe, hat⟩ := stopOpenTimers ks (stopOpenTimer k s)
    refine ⟨(congrArg (fun t : State => { t with actuators := s.actuators }) hframe :), fun j => ?_⟩
    rw [List.foldl_cons, hat j, stopOpenTimer, actuators_set_at]
    by_cases hjk : j = k
    · subst hjk
      simp
    · simp [hjk]

/-- R152: a take of OPEN_TIMEOUT in a trip. -/
theorem take_openTimeout {loc : Nat} {s : State} (h : s.trip ≠ .normal) : take Kind.openTimeout loc s =
    if s.trip = .opening then enterHardStop (recordTake Kind.openTimeout loc s) else recordTake Kind.openTimeout loc s := by
  rw [take_eq, startsTrip_of_trip h]
  by_cases ho : s.trip = .opening
  · rw [if_pos ho]; exact if_pos ⟨rfl, ho⟩
  · rw [if_neg ho]; exact if_neg fun hc => ho hc.2

/-- What changes when HARD_STOP is asserted beside the logs and notices: the trip state and the output. -/
theorem enterHardStop_frame (s : State) :
    { enterHardStop s with logs := s.logs, port := s.port } = { s with trip := .hardStop, hardStop := true } := by
  unfold enterHardStop
  dsimp only
  split <;> rfl

/-- A pass of takes of OPEN_TIMEOUT in a trip: the first in OPENING asserts HARD_STOP. -/
theorem takes_openTimeout : ∀ (L : List Nat) (s : State), s.trip ≠ .normal →
    ∃ t, (L.map fun loc => (Kind.openTimeout, loc)).foldl (fun s c => take c.1 c.2 s) s = t ∧
      { t with faults := s.faults, logs := s.logs, port := s.port, firstOut := s.firstOut, trip := s.trip, hardStop := s.hardStop } = s ∧
      (∀ d : Kind, t.faults[d].active = s.faults[d].active) ∧
      (s.trip = .opening → L ≠ [] → t.trip = .hardStop ∧ t.hardStop = true) ∧
      (s.trip ≠ .opening ∨ L = [] → t.trip = s.trip ∧ t.hardStop = s.hardStop)
  | [], s, _ => ⟨_, rfl, rfl, fun _ => rfl, fun _ h => absurd rfl h, fun _ => ⟨rfl, rfl⟩⟩
  | loc :: L, s, h => by
    have hrow : ∀ d : Kind, (recordTake Kind.openTimeout loc s).faults[d].active = s.faults[d].active := fun d => by
      rw [recordTake_at]
      split
      next hd => rw [hd]; rfl
      next => rfl
    by_cases ho : s.trip = .opening
    · have hstep := take_openTimeout (loc := loc) h
      rw [if_pos ho] at hstep
      have hhard := enterHardStop_frame (recordTake Kind.openTimeout loc s)
      have htrip : (enterHardStop (recordTake Kind.openTimeout loc s)).trip = .hardStop := (congrArg State.trip hhard :)
      obtain ⟨t, ht, hframe, hact, -, hstay⟩ := takes_openTimeout L (enterHardStop (recordTake Kind.openTimeout loc s))
        (by rw [htrip]; decide)
      obtain ⟨htt, hth⟩ := hstay (.inl (by rw [htrip]; decide))
      refine ⟨t, by rw [List.map_cons, List.foldl_cons, hstep]; exact ht, ?_, fun d => ?_, fun _ _ => ?_, fun hn => ?_⟩
      · exact ((congrArg (fun u : State => { u with
          faults := s.faults, logs := s.logs, port := s.port, firstOut := s.firstOut, trip := s.trip, hardStop := s.hardStop })
          hframe :).trans (congrArg (fun u : State => { u with
          faults := s.faults, firstOut := s.firstOut, logs := s.logs, port := s.port, trip := s.trip, hardStop := s.hardStop })
          hhard :))
      · rw [hact d, (congrArg (fun u : State => u.faults[d].active) hhard :)]
        exact hrow d
      · exact ⟨htt.trans htrip, hth.trans (congrArg State.hardStop hhard :)⟩
      · exact absurd hn (by simp [ho])
    · have hstep := take_openTimeout (loc := loc) h
      rw [if_neg ho] at hstep
      obtain ⟨t, ht, hframe, hact, -, hstay⟩ := takes_openTimeout L (recordTake Kind.openTimeout loc s) h
      refine ⟨t, by rw [List.map_cons, List.foldl_cons, hstep]; exact ht, ?_, fun d => (hact d).trans (hrow d),
        fun hc => absurd hc ho, fun _ => hstay (.inl ho)⟩
      exact (congrArg (fun u : State => { u with
          faults := s.faults, logs := s.logs, port := s.port, firstOut := s.firstOut, trip := s.trip, hardStop := s.hardStop })
          hframe :)

/-- Conditions of one kind, by their locations. -/
theorem map_of_kind {L : List (Kind × Nat)} {d : Kind} (h : ∀ c ∈ L, c.1 = d) : (L.map (·.2)).map (fun loc => (d, loc)) = L := by
  rw [List.map_map]
  conv_rhs => rw [← List.map_id L]
  exact List.map_congr_left fun c hc => Prod.ext (h c hc).symm rfl

/-- R129, R152: an event of OPEN_TIMEOUT conditions in a trip. -/
theorem raiseAll_openTimeout {L : List Nat} {s : State} (h : s.trip ≠ .normal) :
    ∃ t, raiseAll (L.map fun loc => (Kind.openTimeout, loc)) s = t ∧
      { t with faults := s.faults, logs := s.logs, port := s.port, firstOut := s.firstOut, trip := s.trip, hardStop := s.hardStop } = s ∧
      (∀ loc ∈ L, loc ∈ t.faults[Kind.openTimeout].active) ∧
      (s.trip = .opening → (∃ loc ∈ L, loc ∉ s.faults[Kind.openTimeout].active) → t.trip = .hardStop ∧ t.hardStop = true) ∧
      (s.trip ≠ .opening ∨ L = [] → t.trip = s.trip ∧ t.hardStop = s.hardStop) := by
  obtain ⟨hframe, -, hmem, -, hfresh⟩ := markFresh_spec (L.map fun loc => (Kind.openTimeout, loc)) s
  generalize hm : markFresh (L.map fun loc => (Kind.openTimeout, loc)) s = r at hframe hmem hfresh
  have hkind : ∀ c ∈ r.1, c.1 = Kind.openTimeout := fun c hc => by
    obtain ⟨loc, -, rfl⟩ := List.mem_map.1 ((hfresh c).1 hc).1
    rfl
  have htrip : r.2.trip = s.trip := (congrArg State.trip hframe :)
  have hhard : r.2.hardStop = s.hardStop := (congrArg State.hardStop hframe :)
  obtain ⟨t, ht, htf, hact, hgo, hstay⟩ := takes_openTimeout (r.1.map (·.2)) r.2 (by rw [htrip]; exact h)
  rw [map_of_kind hkind] at ht
  refine ⟨t, by rw [raiseAll, hm]; exact ht, ?_, fun loc hl => ?_, fun ho hx => ?_, fun hx => ?_⟩
  · exact (congrArg (fun u : State => { u with
      faults := s.faults, logs := s.logs, port := s.port, firstOut := s.firstOut, trip := s.trip, hardStop := s.hardStop }) htf :).trans
      (congrArg (fun u : State => { u with
      faults := s.faults, logs := s.logs, port := s.port, firstOut := s.firstOut, trip := s.trip, hardStop := s.hardStop }) hframe :)
  · rw [hact]
    exact (hmem _ _).2 (.inr (List.mem_map.2 ⟨loc, hl, rfl⟩))
  · obtain ⟨loc, hl, hn⟩ := hx
    refine hgo (htrip.trans ho) fun hnil => ?_
    have hin : (Kind.openTimeout, loc) ∈ r.1 := (hfresh (Kind.openTimeout, loc)).2 ⟨List.mem_map.2 ⟨loc, hl, rfl⟩, hn⟩
    rw [List.map_eq_nil_iff.1 hnil] at hin
    exact absurd hin (List.not_mem_nil)
  · rw [htrip, hhard] at hstay
    refine hstay (hx.imp_right fun hl => ?_)
    subst hl
    rw [List.map_eq_nil_iff, List.eq_nil_iff_forall_not_mem]
    exact fun c hc => absurd ((hfresh c).1 hc).1 (by simp)

theorem openTimers_exec (s : State) {ks : List Stand} (hks : ks = (List.finRange 6).filter (openDue s)) :
    exec .openTimerExpiry s = .next (raiseAll (((ks.filter fun k => s.actuators[k].mode != .opened).map standLoc).map
      fun loc => (Kind.openTimeout, loc)) (ks.foldl (fun s k => stopOpenTimer k s) s.stepStart)) := by
  subst hks
  refine congrArg Host.Outcome.next ?_
  rw [List.map_map]
  rfl

/-- Settles O57: the positioning timer, and the open timers. -/
theorem moveAndOpenTimers : Obligations.MoveAndOpenTimers := by
  refine ⟨fun k s t0 p hm ht hp => ⟨fun hage htrips => ?_, fun hage => ?_⟩, fun s ks hm htrip hks => ?_, fun s h => ?_⟩
  · have hdue : positioningDue s k = true := (positioningDue_running hm ht hp).trans (decide_eq_true hage)
    refine ⟨_, positioningTimerExpiry_due hm hdue, ?_⟩
    have hacts := overran_actuators s.stepStart k
    have htold := overran_told s.stepStart k
    have hs : startsTrip (s.stepStart.overran k) Kind.positioningTimeout = false :=
      startsTrip_of_trips ((trips_congr (s := s.stepStart) (congrArg State.policy (overran_frame s.stepStart k) :) _).trans htrips)
    generalize s.stepStart.overran k = w at hacts htold hs
    have hr := raise_quiet (k := Kind.positioningTimeout) (standLoc k) (by decide) hs
    have htold' := htold.congr (congrArg State.stands hr.recorded :) (congrArg State.heldFrom hr.recorded :)
    refine ⟨?_, hr.on, htold'.leaves, htold'.joins, htold'.idle⟩
    rw [(congrArg State.actuators hr.recorded :), hacts]
    exact setActuator_same s k _
  · refine congrArg Host.Outcome.next (if_neg ?_)
    show ¬ positioningDue s k = true
    rw [positioningDue_running hm ht hp, decide_eq_true_iff, not_le]
    exact hage
  · have hks' : ks = (List.finRange 6).filter (openDue s) := hks
    rw [openTimers_exec s hks']
    obtain ⟨hframe, hat⟩ := stopOpenTimers ks s.stepStart
    generalize ks.foldl (fun s k => stopOpenTimer k s) s.stepStart = w at hframe hat
    have htw : w.trip = s.trip := (congrArg State.trip hframe :)
    have hfw : w.faults = s.faults := (congrArg State.faults hframe :)
    have hhw : w.hardStop = s.hardStop := (congrArg State.hardStop hframe :)
    obtain ⟨t, ht, htf, hon, hgo, hstay⟩ := raiseAll_openTimeout (s := w)
      (L := (ks.filter fun k => s.actuators[k].mode != .opened).map standLoc) (by rw [htw]; exact htrip)
    have hacts : t.actuators = w.actuators := (congrArg State.actuators htf :)
    have hlate : ∀ k ∈ ks, s.actuators[k].mode ≠ .opened →
        standLoc k ∈ (ks.filter fun k => s.actuators[k].mode != .opened).map standLoc := fun k hk hmk =>
      List.mem_map.2 ⟨k, List.mem_filter.2 ⟨hk, by simpa using hmk⟩, rfl⟩
    refine ⟨t, congrArg Host.Outcome.next ht, ?_, fun k hk => ?_, fun k hk => ?_, fun k hk hmk => hon _ (hlate k hk hmk),
      fun ho hx => ?_, fun hx => ?_⟩
    · rw [(congrArg State.mode htf :), (congrArg State.mode hframe :)]
      exact hm
    · rw [hacts, hat k, if_pos hk]; rfl
    · rw [hacts, hat k, if_neg hk]; rfl
    · obtain ⟨k, hk, hmk, hn⟩ := hx
      exact hgo (htw.trans ho) ⟨standLoc k, hlate k hk hmk, by rw [hfw]; exact hn⟩
    · rw [htw, hhw] at hstay
      refine hstay (hx.imp_right fun hall => ?_)
      rw [List.map_eq_nil_iff, List.filter_eq_nil_iff]
      exact fun k hk => by rw [hall k hk]; decide
  · have hks : (List.finRange 6).filter (openDue s) = [] := List.filter_eq_nil_iff.2 fun k _ => by
      cases ht : s.actuators[k].openTimer with
      | none =>
        rw [openDue, ht]
        exact Bool.false_ne_true
      | some t0 =>
        rw [openDue, ht]
        exact fun hd => absurd (of_decide_eq_true hd) (not_le.2 (h k t0 ht))
    rw [openTimers_exec s rfl, hks]
    rfl

end Sys2Proof.Machine

/-! SUPPORT. The sensor links (R19 to R30): one frame at an empty receiver, the training of a link, and the actions of
LINK_CONTROL. -/

namespace Sys2Proof.Machine

/-! ### One frame at an empty receiver (R19) -/

theorem setLink_self (s : State) (l : LinkNo) : s.setLink l s.links[l] = s := by simp [State.setLink]

theorem setLink_same (s : State) (l : LinkNo) (k : Link) : (s.setLink l k).links[l] = k := by simp

theorem setLink_twice (s : State) (l : LinkNo) (k k' : Link) : (s.setLink l k).setLink l k' = s.setLink l k' := by
  simp [State.setLink]

theorem setLink_rx {s : State} {l : LinkNo} (h : s.links[l].rx = []) : s.setLink l { s.links[l] with rx := [] } = s := by
  conv_rhs => rw [← setLink_self s l]
  rw [← h]

theorem sensorBytes_disabled {l : LinkNo} {bytes : List Byte} {o : ReaderOrder} {s : State} (h : s.links[l].mode = .disabled) :
    sensorBytes l bytes o s = s := if_pos h

/-- Bytes that hold one frame to the end. -/
theorem sensorBytes_one {l : LinkNo} {bytes : List Byte} {o : ReaderOrder} {s : State} {f : Option (List Byte)}
    (hm : s.links[l].mode ≠ .disabled) (hrx : s.links[l].rx = []) (hlen : bytes.length = 7)
    (hunt : huntFixed 0xC3 7 7 bytes = ([f], [])) : sensorBytes l bytes o s = takeSensorFrame l o f s := by
  unfold sensorBytes
  dsimp only
  rw [if_neg hm, hrx, List.nil_append, hlen, hunt, setLink_rx hrx]
  rfl

theorem huntFixed_goodFrame (f : SensorFields) : huntFixed 0xC3 7 7 (sensorFrameBytes f) = ([some (sensorBody f)], []) := by
  have h := huntFixed_sensorFrame f [] 6
  rwa [List.append_nil] at h

/-- R19: a good frame on a link that is not DISABLED. -/
theorem sensorFrame_good {l : LinkNo} {f : SensorFields} {o : ReaderOrder} {s : State} (hm : s.links[l].mode ≠ .disabled)
    (hrx : s.links[l].rx = []) :
    exec (.sensorFrame l (sensorFrameBytes f) o) s = .next (takeGoodFrame l f o s.stepStart) := by
  refine congrArg Host.Outcome.next ((sensorBytes_one (s := s.stepStart) hm hrx rfl (huntFixed_goodFrame f)).trans ?_)
  show takeGoodFrame l (sensorFields (sensorBody f)) o s.stepStart = _
  rw [sensorFields_sensorBody]

/-- Bytes without a sync byte hold no frame. -/
theorem huntFixed_unsynced {sync : Byte} {n : Nat} : ∀ {fuel : Nat} {bytes : List Byte}, sync ∉ bytes → bytes.length ≤ fuel →
    huntFixed sync n fuel bytes = ([], [])
  | 0, [], _, _ => rfl
  | _ + 1, [], _, _ => rfl
  | fuel + 1, b :: rest, h, hlen => by
    have hb : b ≠ sync := fun he => h (he ▸ List.mem_cons_self)
    rw [huntFixed, if_pos hb]
    exact huntFixed_unsynced (fun hr => h (List.mem_cons_of_mem _ hr)) (by simpa using hlen)

theorem huntFixed_badFrame {body : List Byte} {crc : Byte} (hlen : body.length = 5) (hcrc : crc ≠ crc8 body)
    (hsync : 0xC3 ∉ body ++ [crc]) : huntFixed 0xC3 7 7 (0xC3 :: (body ++ [crc])) = ([none], []) := by
  have hlong : ¬ (body ++ [crc]).length < 7 - 1 := by simp [hlen]
  have htake : (body ++ [crc]).take (7 - 2) = body := by simp [← hlen]
  have hat : byteAt (body ++ [crc]) (7 - 2) = crc := by simp [byteAt, ← hlen]
  rw [huntFixed, if_neg (not_not.2 rfl), if_neg hlong]
  simp only [htake, hat]
  rw [if_neg (Ne.symm hcrc), huntFixed_unsynced hsync (by simp [hlen])]

/-- R19: a frame whose CRC-8 does not match. -/
theorem sensorFrame_bad {l : LinkNo} {body : List Byte} {crc : Byte} {o : ReaderOrder} {s : State}
    (hm : s.links[l].mode ≠ .disabled) (hrx : s.links[l].rx = []) (hlen : body.length = 5) (hcrc : crc ≠ crc8 body)
    (hsync : 0xC3 ∉ body ++ [crc]) :
    exec (.sensorFrame l (0xC3 :: (body ++ [crc])) o) s = .next (takeCrcError l s.stepStart) :=
  congrArg Host.Outcome.next (sensorBytes_one (s := s.stepStart) hm hrx (by simp [hlen]) (huntFixed_badFrame hlen hcrc hsync))

/-! ### Training (R21 to R25) -/

theorem missedFrames_mod (r seq : BitVec 4) : (seq - r - 1).toNat = (seq.toNat + 16 - r.toNat + 15) % 16 := by
  bv_omega

theorem notifyLink_eq (l : LinkNo) (prev : LinkMode) (c : LinkCause) (s : State) (k : Link) :
    notifyLink l prev c (s.setLink l k) = (s.setLink l k).notify (.linkState l prev k.mode c k.good k.crcErrors k.gaps) := by
  simp only [notifyLink, setLink_same]

theorem notifyLink_at {l : LinkNo} {prev : LinkMode} {c : LinkCause} {s : State} {k : Link} (h : s.links[l] = k) :
    notifyLink l prev c s = s.notify (.linkState l prev k.mode c k.good k.crcErrors k.gaps) := by
  rw [← h]
  rfl

/-- R23, R24: a good frame on a link in DOWN or TRAINING, k being the link with the frame counted. -/
theorem takeGoodFrame_down {l : LinkNo} {f : SensorFields} {o : ReaderOrder} {s : State} {k : Link}
    (hk : countGood f.seq { s.links[l] with timer := some s.time } = k) (hm : k.mode = .down) :
    takeGoodFrame l f o s = ((s.setLink l { k with mode := .training, training := 1 }).inactive Kind.sensorLinkDown l.val).notify
      (.linkState l .down .training .frameDetected k.good k.crcErrors k.gaps) := by
  simp only [takeGoodFrame, hk, hm]
  exact notifyLink_at ((State.inactive_links ..).symm ▸ setLink_same s l _)

theorem takeGoodFrame_training {l : LinkNo} {f : SensorFields} {o : ReaderOrder} {s : State} {k : Link}
    (hk : countGood f.seq { s.links[l] with timer := some s.time } = k) (hm : k.mode = .training) :
    takeGoodFrame l f o s = if 8 ≤ k.training + 1 then
        (s.setLink l { k with mode := .up, training := 8, crcRun := 0 }).notify
          (.linkState l .training .up .trained k.good k.crcErrors k.gaps)
      else s.setLink l { k with training := k.training + 1 } := by
  simp only [takeGoodFrame, hk, hm]
  rw [notifyLink_eq]

/-- R25, R34: a good frame on a link in UP is routed to its entry. -/
theorem takeGoodFrame_up {l : LinkNo} {f : SensorFields} {o : ReaderOrder} {s : State} (hm : s.links[l].mode = .up) :
    takeGoodFrame l f o s =
      routeFrame l f o (s.setLink l (countGood f.seq { s.links[l] with timer := some s.time, crcRun := 0 })) := by
  have hk : (countGood f.seq { s.links[l] with timer := some s.time }).mode = .up := hm
  simp only [takeGoodFrame, hk]
  rw [← hk]
  rfl

theorem takeCrcError_down {l : LinkNo} {s : State} (hm : s.links[l].mode = .down) : takeCrcError l s = s.setLink l { s.links[l] with
    timer := some s.time, crcErrors := min (s.links[l].crcErrors + 1) 65535 } := by
  simp only [takeCrcError, hm]
  rfl

theorem takeCrcError_training {l : LinkNo} {s : State} (hm : s.links[l].mode = .training) : takeCrcError l s =
    s.setLink l { s.links[l] with timer := some s.time, crcErrors := min (s.links[l].crcErrors + 1) 65535, training := 0 } := by
  simp only [takeCrcError, hm]
  rfl

theorem takeCrcError_up {l : LinkNo} {s : State} {k : Link} (hm : s.links[l].mode = .up)
    (hk : k = { s.links[l] with timer := some s.time, crcErrors := min (s.links[l].crcErrors + 1) 65535 }) :
    takeCrcError l s = if 3 ≤ k.crcRun + 1 then
        retrainLink l .autonomousRetrain (s.setLink l { k with crcRun := min (k.crcRun + 1) 3 })
      else s.setLink l { k with crcRun := min (k.crcRun + 1) 3 } := by
  subst hk
  simp only [takeCrcError, hm]
  rfl

/-- R25: a link in UP goes back to TRAINING. -/
theorem retrainLink_eq (l : LinkNo) (c : LinkCause) (s : State) : retrainLink l c s =
    (s.setLink l { s.links[l] with mode := .training, training := 0 }).notify
      (.linkState l .up .training c s.links[l].good s.links[l].crcErrors s.links[l].gaps) :=
  notifyLink_eq l .up c s _

/-- Settles O38: the training of a link by good frames, and its CRC errors. -/
theorem sensorFramesTrainLinks : Obligations.SensorFramesTrainLinks := by
  refine ⟨fun l f o s k hrx hk => ?_, fun l body crc o s k hrx hlen hcrc hsync hk => ?_⟩
  · have hcount : countGood f.seq { s.stepStart.links[l] with timer := some s.stepStart.time } = k := by
      show countGood f.seq { s.links[l] with timer := some s.time } = k
      rw [hk]
      cases hr : s.links[l].seqRef with
      | none => simp only [countGood, missedFrames, hr]; rfl
      | some r => simp only [countGood, missedFrames, hr, missedFrames_mod]; rfl
    have hmode : k.mode = s.links[l].mode := by rw [hk]
    have htrain : k.training = s.links[l].training := by rw [hk]
    refine ⟨fun hm => congrArg Host.Outcome.next (sensorBytes_disabled (s := s.stepStart) hm), fun hm => ?_, fun hm ht => ?_,
      fun hm ht => ?_⟩
    · rw [sensorFrame_good (by rw [hm]; decide) hrx, takeGoodFrame_down hcount (hmode.trans hm)]
    · rw [sensorFrame_good (by rw [hm]; decide) hrx, takeGoodFrame_training hcount (hmode.trans hm), if_neg (by omega), htrain]
    · rw [sensorFrame_good (by rw [hm]; decide) hrx, takeGoodFrame_training hcount (hmode.trans hm), if_pos (by omega)]
  · refine ⟨fun hm => ?_, fun hm => ?_, fun hm hrun => ?_, fun hm hrun => ?_⟩
    · rw [sensorFrame_bad (by rw [hm]; decide) hrx hlen hcrc hsync, takeCrcError_down (s := s.stepStart) hm, hk]
      rfl
    · rw [sensorFrame_bad (by rw [hm]; decide) hrx hlen hcrc hsync, takeCrcError_training (s := s.stepStart) hm, hk]
      rfl
    · have hkr : k.crcRun = s.links[l].crcRun := by rw [hk]
      rw [sensorFrame_bad (by rw [hm]; decide) hrx hlen hcrc hsync, takeCrcError_up (s := s.stepStart) hm hk, if_neg (by omega),
        min_eq_left (by omega), hkr]
    · have hkr : k.crcRun = 2 := by rw [hk]; exact hrun
      rw [sensorFrame_bad (by rw [hm]; decide) hrx hlen hcrc hsync, takeCrcError_up (s := s.stepStart) hm hk, if_pos (by omega),
        retrainLink_eq, setLink_same, setLink_twice, hkr]
      rfl

end Sys2Proof.Machine

/-! SUPPORT. The actions of LINK_CONTROL (R28). -/

namespace Sys2Proof.Machine

theorem linkNoOf_val {x : Byte} {l : LinkNo} (h : x.toNat = l.val) : linkNoOf x = some l := by
  have hlt : x.toNat < 8 := h ▸ l.isLt
  rw [linkNoOf, dif_pos hlt]
  exact congrArg some (Fin.ext h)

theorem linkNoOf_above {x : Byte} (h : 7 < x.toNat) : linkNoOf x = none := dif_neg (by omega)

theorem linkAction_at {f : LinkNo → State → State} {x : Byte} {l : LinkNo} {s t : State} (h : x.toNat = l.val) (ht : f l s = t) :
    linkAction f x s = (okWith [x, BitVec.ofNat 8 t.links[l].mode.num], t) := by
  have hx : BitVec.ofNat 8 l.val = x := by rw [← h, BitVec.ofNat_toNat, BitVec.setWidth_eq]
  simp only [linkAction, linkNoOf_val h, ht]
  exact congrArg (fun b => (okWith [b, BitVec.ofNat 8 t.links[l].mode.num], t)) hx

theorem linkAction_above (f : LinkNo → State → State) {x : Byte} (s : State) (h : 7 < x.toNat) :
    linkAction f x s = (refuse .badValue, s) := by
  simp only [linkAction, linkNoOf_above h]

theorem handle_retrain (x : Byte) (s : State) : handle (.linkControl x 0) s = linkAction retrainAction x s := by
  show doLinkControl x 0 s = _
  rw [doLinkControl, if_pos rfl]
  rfl

theorem handle_disable (x : Byte) (s : State) : handle (.linkControl x 1) s = linkAction disableAction x s := by
  show doLinkControl x 1 s = _
  rw [doLinkControl, if_neg (by decide), if_pos rfl]
  rfl

theorem handle_enable (x : Byte) (s : State) : handle (.linkControl x 2) s = linkAction enableAction x s := by
  show doLinkControl x 2 s = _
  rw [doLinkControl, if_neg (by decide), if_neg (by decide), if_pos rfl]
  rfl

theorem handle_clearCounters (x : Byte) (s : State) : handle (.linkControl x 3) s = linkAction clearAction x s := by
  show doLinkControl x 3 s = _
  rw [doLinkControl, if_neg (by decide), if_neg (by decide), if_neg (by decide), if_pos rfl]
  rfl

/-- An action of LINK_CONTROL at a free port, on a link that exists. -/
theorem linkControl_exec {c : Instr} {n x a : Byte} {f : LinkNo → State → State} {l : LinkNo} {s t : State}
    (hc : requestOf c = some (n, .linkControl x a)) (hh : ∀ u, handle (.linkControl x a) u = linkAction f x u) (hfree : PortFree s)
    (hx : x.toNat = l.val) (ht : f l s.received = t) :
    exec c s = .next (t.replying 0x56 n .ok [x, BitVec.ofNat 8 t.links[l].mode.num]) :=
  exec_request hc hfree ((hh _).trans (linkAction_at hx ht))

theorem retrainAction_idle {l : LinkNo} {s : State} (h : s.links[l].mode = .disabled ∨ s.links[l].mode = .down) :
    retrainAction l s = s := by
  rcases h with h | h <;> simp only [retrainAction, h]

theorem retrainAction_training {l : LinkNo} {s : State} (h : s.links[l].mode = .training) :
    retrainAction l s = s.setLink l { s.links[l] with training := 0 } := by
  simp only [retrainAction, h]

theorem retrainAction_up {l : LinkNo} {s : State} (h : s.links[l].mode = .up) : retrainAction l s =
    (s.setLink l { s.links[l] with mode := .training, training := 0 }).notify
      (.linkState l .up .training .requestedRetrain s.links[l].good s.links[l].crcErrors s.links[l].gaps) := by
  simp only [retrainAction, h, retrainLink_eq]

theorem boundTo_nil_iff (s : State) (l : LinkNo) :
    s.boundTo l = [] ↔ ∀ (e : EntryNo) (c : ChannelConfig), s.channels[e].config = some c → c.link ≠ l := by
  rw [List.eq_nil_iff_forall_not_mem]
  refine forall_congr' fun e => ?_
  rw [mem_boundTo]
  cases s.channels[e].config <;> simp

theorem enableAction_unbound {l : LinkNo} {s : State} (hm : s.links[l].mode = .disabled) (hb : s.boundTo l = []) :
    enableAction l s = (s.setLink l { s.links[l] with mode := .down }).notify
      (.linkState l .disabled .down .enabled s.links[l].good s.links[l].crcErrors s.links[l].gaps) := by
  have hb' : (s.setLink l { s.links[l] with mode := .down }).boundTo l = [] := hb
  simp only [enableAction, hm, if_true, hb', ne_eq, not_true_eq_false, if_false, notifyLink_eq]

theorem enableAction_bound {l : LinkNo} {s : State} (hm : s.links[l].mode = .disabled) (hb : s.boundTo l ≠ []) :
    enableAction l s = notifyLink l .disabled .enabled
      (raise Kind.sensorLinkDown l.val (s.setLink l { s.links[l] with mode := .down })) := by
  have hb' : (s.setLink l { s.links[l] with mode := .down }).boundTo l ≠ [] := hb
  simp only [enableAction, hm, if_true, if_pos hb']

/-- The notice of an enabled condition that is not tripping. -/
theorem raise_quiet_port {k : Kind} {loc : Nat} {s : State} (hfresh : loc ∉ s.faults[k].active) (hk : k ≠ Kind.openTimeout)
    (htrips : s.trips k = false) (hen : s.policy[k].enabled = true) : (raise k loc s).port = s.port.queueNotice
      (.fault k loc (raise k loc s).faults[k].count s.policy[k].tripping s.mode s.trip .none) := by
  have hs : startsTrip (s.markActive k loc) k = false := startsTrip_of_trips htrips
  have hsub : isSubsequent (s.markActive k loc) k = false := by
    show (s.trips k && s.trip != .normal) = false
    rw [htrips]; rfl
  have hclass : takeClass (s.markActive k loc) k = .none := by rw [takeClass, hs, hsub]; rfl
  rw [raise_fresh hfresh, take_quiet loc hk hs]
  show (if (s.markActive k loc).policy[k].enabled then _ else _) = _
  rw [if_pos (show (s.markActive k loc).policy[k].enabled = true from hen), hclass, recordTake_at, if_pos rfl]
  rfl

/-- Settles O34: the actions of LINK_CONTROL by link state. -/
theorem linkActions : Obligations.LinkActions := by
  refine fun n x s hfree => ⟨fun hx c hc => ?_, fun l hx => ⟨?_, fun hm => ?_, fun hm => ?_, fun hm => ?_, fun hm => ?_, fun hm => ?_,
    fun hm hb => ?_, fun hm hb htrips hfresh hen => ?_⟩⟩
  · simp only [List.mem_cons, List.not_mem_nil, or_false] at hc
    rcases hc with rfl | rfl | rfl | rfl
    · exact exec_request rfl hfree ((handle_retrain _ _).trans (linkAction_above _ _ hx))
    · exact exec_request rfl hfree ((handle_disable _ _).trans (linkAction_above _ _ hx))
    · exact exec_request rfl hfree ((handle_enable _ _).trans (linkAction_above _ _ hx))
    · exact exec_request rfl hfree ((handle_clearCounters _ _).trans (linkAction_above _ _ hx))
  · have h := linkControl_exec (c := .clearCounters n x) rfl (handle_clearCounters x) hfree hx rfl
    rw [clearAction, setLink_same] at h
    exact h
  · exact linkControl_exec (c := .retrain n x) rfl (handle_retrain x) hfree hx (retrainAction_idle (s := s.received) hm)
  · have h := linkControl_exec (c := .retrain n x) rfl (handle_retrain x) hfree hx (retrainAction_training (s := s.received) hm)
    rw [setLink_same] at h
    have hm' : s.received.links[l].mode = .training := hm
    rw [hm'] at h
    exact h
  · have h := linkControl_exec (c := .retrain n x) rfl (handle_retrain x) hfree hx (retrainAction_up (s := s.received) hm)
    rw [State.notify_links, setLink_same] at h
    exact h
  · have h := linkControl_exec (c := .disable n x) (l := l) rfl (handle_disable x) hfree hx
      (if_pos (show s.received.links[l].mode = .disabled from hm))
    have hm' : s.received.links[l].mode = .disabled := hm
    rw [hm'] at h
    exact h
  · exact linkControl_exec (c := .enable n x) (l := l) rfl (handle_enable x) hfree hx
      (if_neg (show ¬ s.received.links[l].mode = .disabled from hm))
  · have h := linkControl_exec (c := .enable n x) rfl (handle_enable x) hfree hx
      (enableAction_unbound (s := s.received) hm ((boundTo_nil_iff s l).2 hb))
    rw [State.notify_links, setLink_same] at h
    exact h
  · have hbound : s.received.boundTo l ≠ [] := fun hnil => by
      obtain ⟨e, c, hc, hl⟩ := hb
      exact (boundTo_nil_iff s l).1 hnil e c hc hl
    have h := linkControl_exec (c := .enable n x) rfl (handle_enable x) hfree hx (enableAction_bound (s := s.received) hm hbound)
    generalize hu : s.received.setLink l { s.received.links[l] with mode := .down } = u at h
    have hfresh' : l.val ∉ u.faults[Kind.sensorLinkDown].active := by rw [← hu]; exact hfresh
    have htrips' : u.trips Kind.sensorLinkDown = false := by rw [← hu]; exact htrips
    have hen' : u.policy[Kind.sensorLinkDown].enabled = true := by rw [← hu]; exact hen
    obtain ⟨hrec, hon, hlat, hcount⟩ := raise_quiet_row hfresh' (by decide) (startsTrip_of_trips htrips')
    have hport := raise_quiet_port hfresh' (by decide) htrips' hen'
    generalize raise Kind.sensorLinkDown l.val u = v at h hrec hon hlat hcount hport
    have hlink : v.links[l] = { s.links[l] with mode := .down } := by
      rw [(congrArg State.links hrec :), ← hu]; exact setLink_same _ _ _
    rw [notifyLink_at hlink, State.notify_links, hlink] at h
    refine ⟨_, h, ?_, ?_, ?_, ?_, ?_, ?_, hon, hlat, ?_, ?_⟩
    · exact (congrArg State.links hrec :).trans (by rw [← hu]; rfl)
    · exact (congrArg State.channels hrec :).trans (by rw [← hu]; rfl)
    · exact (congrArg State.mode hrec :).trans (by rw [← hu]; rfl)
    · exact (congrArg State.trip hrec :).trans (by rw [← hu]; rfl)
    · exact (congrArg State.stands hrec :).trans (by rw [← hu]; rfl)
    · exact (congrArg State.actuators hrec :).trans (by rw [← hu]; rfl)
    · exact hcount.trans (by rw [← hu]; rfl)
    · show v.port.queueNotice _ = _
      rw [hport, ← hu]
      rfl

end Sys2Proof.Machine

/-! SUPPORT. The loss of channels (R26, R41, R43): what their readers do, in any order, and the conditions of the loss. -/

namespace Sys2Proof.Machine

/-! ### What the readers do -/

/-- R51, R100, R101, R140, R143: in going from m to t the readers of the items `lost` have taken their loss, and nothing else has
changed. -/
structure ReadersLost (m t : State) (lost : Item → Bool) : Prop where
  frame : { t with
    speeds := m.speeds, breakTimers := m.breakTimers, stands := m.stands, heldFrom := m.heldFrom, faults := m.faults } = m
  faults : Ends [Kind.standUnloaded, Kind.stripBreak, Kind.forceLimit, Kind.forceNearLimit] m t
  speeds : ∀ k : Stand, t.speeds[k] = if lost (.rollSpeed k) = true then none else m.speeds[k]
  breaks : ∀ j : Interstand, t.breakTimers[j] = if lost (.tension j) = true then .stopped
    else if lost (.rollSpeed 5) = true then breakStopped m.breakTimers[j] else m.breakTimers[j]
  breakEnds : ∀ j : Interstand, (j.val + 1) ∈ t.faults[Kind.stripBreak].active ↔
    (j.val + 1) ∈ m.faults[Kind.stripBreak].active ∧ lost (.tension j) = false
  forceEnds : ∀ (k : Stand) (d : Kind), d ∈ [Kind.standUnloaded, Kind.forceLimit, Kind.forceNearLimit] →
    ((k.val + 1) ∈ t.faults[d].active ↔ (k.val + 1) ∈ m.faults[d].active ∧ lost (.force k) = false)
  stands : ∀ k : Stand, t.stands[k] = { m.stands[k] with
    mode := modeAfterLoss m k (lost (.gapPos k)) (lost (.force k))
    unload := if lost (.force k) = true then .stopped else m.stands[k].unload
    holds := { m.stands[k].holds with gapLost := m.stands[k].holds.gapLost ||
      (lost (.gapPos k) && (m.stands[k].mode == .position || m.stands[k].mode == .gauge || m.stands[k].mode == .hold)) } }
  heldFrom : ∀ k : Stand, m.stands[k].mode = .off → t.heldFrom[k] = m.heldFrom[k]

theorem modeAfterLoss_none (m : State) (k : Stand) : modeAfterLoss m k false false = m.stands[k].mode := by
  unfold modeAfterLoss
  cases h : m.stands[k].mode <;> simp

theorem ReadersLost.refl (m : State) : ReadersLost m m fun _ => false where
  frame := rfl
  faults := Ends.refl _ m
  speeds := fun _ => rfl
  breaks := fun _ => rfl
  breakEnds := fun _ => ⟨fun h => ⟨h, rfl⟩, fun h => h.1⟩
  forceEnds := fun _ _ _ => ⟨fun h => ⟨h, rfl⟩, fun h => h.1⟩
  stands := fun k => by
    rw [modeAfterLoss_none, Bool.false_and, Bool.or_false]
    rfl
  heldFrom := fun _ _ => rfl

theorem ReadersLost.congr {m t : State} {lost lost' : Item → Bool} (h : ReadersLost m t lost) (he : ∀ i, lost i = lost' i) :
    ReadersLost m t lost' := by
  rwa [← funext he]

theorem modeAfterLoss_twice {m t : State} {k : Stand} {g1 f1 : Bool} (g2 f2 : Bool)
    (hm : t.stands[k].mode = modeAfterLoss m k g1 f1) (hu : t.usable (.gapPos k) = m.usable (.gapPos k)) :
    modeAfterLoss t k g2 f2 = modeAfterLoss m k (g1 || g2) (f1 || f2) := by
  unfold modeAfterLoss at hm ⊢
  rw [hm, hu]
  cases m.stands[k].mode <;> cases g1 <;> cases f1 <;> cases m.usable (.gapPos k) <;> simp

theorem modeAfterLoss_judges (m : State) (k : Stand) (g f : Bool) :
    (modeAfterLoss m k g f == .position || modeAfterLoss m k g f == .gauge || modeAfterLoss m k g f == .hold) =
      (m.stands[k].mode == .position || m.stands[k].mode == .gauge || m.stands[k].mode == .hold) := by
  unfold modeAfterLoss
  cases m.stands[k].mode <;> cases g <;> cases f <;> cases m.usable (.gapPos k) <;> rfl

theorem breakStopped_stopped : breakStopped .stopped = .stopped := rfl

theorem breakStopped_twice (t : Timer) : breakStopped (breakStopped t) = breakStopped t := by cases t <;> rfl

/-- R26: losses taken one after another are one loss, in whatever order. -/
theorem ReadersLost.trans {m t u : State} {lost lost' : Item → Bool} (h : ReadersLost m t lost) (h' : ReadersLost t u lost') :
    ReadersLost m u fun i => lost i || lost' i where
  frame := (congrArg (fun s : State => { s with
    speeds := m.speeds, breakTimers := m.breakTimers, stands := m.stands, heldFrom := m.heldFrom, faults := m.faults })
      h'.frame :).trans h.frame
  faults := h.faults.trans h'.faults
  speeds := fun k => by
    rw [h'.speeds, h.speeds]
    cases lost (.rollSpeed k) <;> cases lost' (.rollSpeed k) <;> rfl
  breaks := fun j => by
    rw [h'.breaks, h.breaks]
    cases lost (.tension j) <;> cases lost' (.tension j) <;> cases lost (.rollSpeed 5) <;> cases lost' (.rollSpeed 5) <;>
      simp [breakStopped_twice, breakStopped_stopped]
  breakEnds := fun j => by
    rw [h'.breakEnds, h.breakEnds]
    simp [and_assoc]
  forceEnds := fun k d hd => by
    rw [h'.forceEnds k d hd, h.forceEnds k d hd]
    simp [and_assoc]
  stands := fun k => by
    have hu : t.usable (.gapPos k) = m.usable (.gapPos k) := (congrArg (fun s : State => s.usable (.gapPos k)) h.frame :)
    have hs := h.stands k
    have hmode : t.stands[k].mode = modeAfterLoss m k (lost (.gapPos k)) (lost (.force k)) := by rw [hs]
    rw [h'.stands k, modeAfterLoss_twice _ _ hmode hu, hmode, modeAfterLoss_judges, hs]
    cases lost (.gapPos k) <;> cases lost' (.gapPos k) <;> cases lost (.force k) <;> cases lost' (.force k) <;> simp [Bool.or_assoc]
  heldFrom := fun k hoff => by
    have hmode : t.stands[k].mode = .off := by
      rw [h.stands k]
      show modeAfterLoss m k _ _ = _
      unfold modeAfterLoss
      rw [hoff]
    rw [h'.heldFrom k hmode, h.heldFrom k hoff]

/-- Items without readers' state are lost without a trace. -/
theorem ReadersLost.agree {m t : State} {lost lost' : Item → Bool} (h : ReadersLost m t lost)
    (hr : ∀ k, lost (.rollSpeed k) = lost' (.rollSpeed k)) (ht : ∀ j, lost (.tension j) = lost' (.tension j))
    (hf : ∀ k, lost (.force k) = lost' (.force k)) (hg : ∀ k, lost (.gapPos k) = lost' (.gapPos k)) : ReadersLost m t lost' where
  frame := h.frame
  faults := h.faults
  speeds := fun k => by rw [h.speeds, hr]
  breaks := fun j => by rw [h.breaks, hr, ht]
  breakEnds := fun j => by rw [h.breakEnds, ht]
  forceEnds := fun k d hd => by rw [h.forceEnds k d hd, hf]
  stands := fun k => by rw [h.stands, hf, hg]
  heldFrom := h.heldFrom

theorem breaks_set_at (s : State) (j i : Interstand) (x : Timer) :
    (s.setBreak j x).breakTimers[i] = if i = j then x else s.breakTimers[i] := by
  by_cases h : i = j
  · subst h; simp
  · have hval : j.val ≠ i.val := fun he => h (Fin.ext he.symm)
    simp [hval, h]

theorem speeds_set_at (s : State) (k i : Stand) (x : Option Int) :
    (s.setSpeed k x).speeds[i] = if i = k then x else s.speeds[i] := by
  by_cases h : i = k
  · subst h; simp
  · have hval : k.val ≠ i.val := fun he => h (Fin.ext he.symm)
    simp [hval, h]

theorem stopBreaks_at : ∀ (l : List Interstand) (s : State), l.Nodup →
    { l.foldl (fun s j => s.setBreak j (breakStopped s.breakTimers[j])) s with breakTimers := s.breakTimers } = s ∧
    ∀ i : Interstand, (l.foldl (fun s j => s.setBreak j (breakStopped s.breakTimers[j])) s).breakTimers[i] =
      if i ∈ l then breakStopped s.breakTimers[i] else s.breakTimers[i]
  | [], s, _ => ⟨rfl, fun i => by simp⟩
  | j :: l, s, hnd => by
    obtain ⟨hj, hl⟩ := List.nodup_cons.1 hnd
    obtain ⟨hframe, hat⟩ := stopBreaks_at l (s.setBreak j (breakStopped s.breakTimers[j])) hl
    refine ⟨(congrArg (fun t : State => { t with breakTimers := s.breakTimers }) hframe :), fun i => ?_⟩
    rw [List.foldl_cons, hat i, breaks_set_at]
    by_cases hij : i = j
    · subst hij
      simp [hj]
    · simp [hij]

theorem stopRunningBreaks_spec (s : State) : { stopRunningBreaks s with breakTimers := s.breakTimers } = s ∧
    ∀ i : Interstand, (stopRunningBreaks s).breakTimers[i] = breakStopped s.breakTimers[i] := by
  obtain ⟨hframe, hat⟩ := stopBreaks_at (List.finRange 5) s (List.nodup_finRange 5)
  exact ⟨hframe, fun i => (hat i).trans (if_pos (List.mem_finRange i))⟩

theorem interstandLoc_inj {i j : Interstand} : interstandLoc i = interstandLoc j ↔ i = j := by
  simp [interstandLoc, Fin.ext_iff]

theorem standLoc_inj {i j : Stand} : standLoc i = standLoc j ↔ i = j := by
  simp [standLoc, Fin.ext_iff]

theorem mem_inactive (s : State) (k d : Kind) (loc x : Nat) :
    x ∈ (s.inactive k loc).faults[d].active ↔ x ∈ s.faults[d].active ∧ ¬ (d = k ∧ x = loc) := by
  rw [inactive_at]
  dsimp only
  by_cases h : d = k
  · rw [if_pos h]; simp [h]
  · rw [if_neg h]; simp [h]

/-- The rows that stay when only conditions of other kinds end. -/
theorem Ends.active_of {ks : List Kind} {s t : State} (h : Ends ks s t) {d : Kind} (hd : d ∉ ks) (x : Nat) :
    x ∈ t.faults[d].active ↔ x ∈ s.faults[d].active := by rw [h.others d hd]

/-- R26: which readers' items are lost. -/
structure LostAre (lost : Item → Bool) (speed force gap : Stand → Bool) (tension : Interstand → Bool) : Prop where
  speeds : ∀ k, lost (.rollSpeed k) = speed k
  forces : ∀ k, lost (.force k) = force k
  gaps : ∀ k, lost (.gapPos k) = gap k
  tensions : ∀ j, lost (.tension j) = tension j

theorem readersLost_stands {s t : State} {lost : Item → Bool} (hf : ∀ k, lost (.force k) = false) (hg : ∀ k, lost (.gapPos k) = false)
    (ht : t.stands = s.stands) (k : Stand) : t.stands[k] = { s.stands[k] with
    mode := modeAfterLoss s k (lost (.gapPos k)) (lost (.force k))
    unload := if lost (.force k) = true then .stopped else s.stands[k].unload
    holds := { s.stands[k].holds with gapLost := s.stands[k].holds.gapLost ||
      (lost (.gapPos k) && (s.stands[k].mode == .position || s.stands[k].mode == .gauge || s.stands[k].mode == .hold)) } } := by
  rw [ht, hf, hg]
  exact (ReadersLost.refl s).stands k

/-- A loss that no reader takes. -/
theorem readersLost_none (s : State) {lost : Item → Bool}
    (h : LostAre lost (fun _ => false) (fun _ => false) (fun _ => false) fun _ => false) : ReadersLost s s lost :=
  (ReadersLost.refl s).agree (fun k => (h.speeds k).symm) (fun j => (h.tensions j).symm) (fun k => (h.forces k).symm)
    fun k => (h.gaps k).symm

/-- R51, R143: the loss of a roll speed. -/
theorem readersLose_rollSpeed (k : Stand) (s : State) {lost : Item → Bool}
    (h : LostAre lost (fun i => decide (i = k)) (fun _ => false) (fun _ => false) fun _ => false) :
    ReadersLost s (readersLose (.rollSpeed k) s) lost := by
  have hbase : ∀ {t : State}, { t with speeds := s.speeds, breakTimers := s.breakTimers } = s →
      (∀ i : Stand, t.speeds[i] = if i = k then none else s.speeds[i]) →
      (∀ j : Interstand, t.breakTimers[j] = if 5 = k then breakStopped s.breakTimers[j] else s.breakTimers[j]) →
      ReadersLost s t lost := fun {t} hframe hspeeds hbreaks => by
    have hfaults : t.faults = s.faults := (congrArg State.faults hframe :)
    exact {
      frame := (congrArg (fun t : State => { t with stands := s.stands, heldFrom := s.heldFrom, faults := s.faults }) hframe :)
      faults := Ends.of_faults hfaults _
      speeds := fun i => by rw [hspeeds i, h.speeds]; simp only [decide_eq_true_eq]
      breaks := fun j => by
        rw [hbreaks j, h.speeds, h.tensions]
        simp only [decide_eq_true_eq, Bool.false_eq_true, if_false]
      breakEnds := fun j => by rw [hfaults, h.tensions]; simp
      forceEnds := fun i d _ => by rw [hfaults, h.forces]; simp
      stands := readersLost_stands h.forces h.gaps (congrArg State.stands hframe :)
      heldFrom := fun i _ => by rw [(congrArg State.heldFrom hframe :)] }
  by_cases h5 : k = 5
  · obtain ⟨hframe, hat⟩ := stopRunningBreaks_spec (s.setSpeed k none)
    have hlose : readersLose (.rollSpeed k) s = stopRunningBreaks (s.setSpeed k none) := if_pos h5
    rw [hlose]
    refine hbase (congrArg (fun t : State => { t with speeds := s.speeds }) hframe :) (fun i => ?_) fun j => ?_
    · rw [(congrArg State.speeds hframe :)]
      exact speeds_set_at s k i none
    · rw [hat j, if_pos h5.symm]
      rfl
  · have hlose : readersLose (.rollSpeed k) s = s.setSpeed k none := if_neg h5
    rw [hlose]
    exact hbase rfl (fun i => speeds_set_at s k i none) fun j => (if_neg (Ne.symm h5)).symm

/-- R143: the loss of a tension. -/
theorem readersLose_tension (j : Interstand) (s : State) {lost : Item → Bool}
    (h : LostAre lost (fun _ => false) (fun _ => false) (fun _ => false) fun i => decide (i = j)) :
    ReadersLost s (readersLose (.tension j) s) lost where
  frame := rfl
  faults := Ends.mono (ks := [Kind.stripBreak]) (Ends.inactive_of (u := s.setBreak j .stopped) rfl) (by simp)
  speeds := fun k => by rw [h.speeds]; rfl
  breaks := fun i => by
    rw [h.tensions, h.speeds]
    simp only [decide_eq_true_eq, Bool.false_eq_true, if_false]
    exact breaks_set_at s j i .stopped
  breakEnds := fun i => by
    rw [h.tensions]
    refine (mem_inactive (s.setBreak j .stopped) Kind.stripBreak Kind.stripBreak (interstandLoc j) (interstandLoc i)).trans ?_
    rw [interstandLoc_inj]
    simp [interstandLoc]
  forceEnds := fun k d hd => by
    have hne : d ≠ Kind.stripBreak := by rintro rfl; exact absurd hd (by decide)
    rw [h.forces]
    refine (mem_inactive (s.setBreak j .stopped) Kind.stripBreak d (interstandLoc j) _).trans ?_
    simp [hne]
  stands := readersLost_stands h.forces h.gaps rfl
  heldFrom := fun _ _ => rfl

/-- R100, R101: a stand mode after the loss of the gap position or the force. -/
def StandMode.afterLoss (gap force usable : Bool) : StandMode → StandMode
  | .off => .off
  | .opened => .opened
  | .position => if gap = true then .hold else .position
  | .hold => .hold
  | .gauge => if gap = true then .hold else if force = true ∧ usable = true then .position else .gauge

theorem modeAfterLoss_eq (s : State) (k : Stand) (gap force : Bool) :
    modeAfterLoss s k gap force = s.stands[k].mode.afterLoss gap force (s.usable (.gapPos k)) := by
  unfold modeAfterLoss
  cases s.stands[k].mode <;> rfl

theorem told_gapLost (st : StandCtl) (usable : Bool) : st.told .gapLost = { st with
    mode := st.mode.afterLoss true false usable
    holds := { st.holds with gapLost := st.holds.gapLost || (st.mode == .position || st.mode == .gauge || st.mode == .hold) } } := by
  obtain ⟨params, mode, ⟨gapLost, faulted, unlinked, posTimeout⟩, lastSent, trim, bite, sum, count, unload, counters⟩ := st
  cases mode <;> cases gapLost <;> rfl

/-- R101: a stand whose force is lost. -/
def StandCtl.forceless (st : StandCtl) (usable : Bool) : StandCtl :=
  { st with mode := if st.mode = .gauge ∧ usable = true then .position else st.mode, unload := .stopped }

theorem forceless_eq (st : StandCtl) (usable : Bool) : st.forceless usable = { st with
    mode := st.mode.afterLoss false true usable, unload := .stopped } := by
  obtain ⟨params, mode, holds, lastSent, trim, bite, sum, count, unload, counters⟩ := st
  cases mode <;> simp [StandCtl.forceless, StandMode.afterLoss]

/-- R100: the loss of a gap position. -/
theorem readersLose_gapPos (k : Stand) (s : State) {lost : Item → Bool}
    (h : LostAre lost (fun _ => false) (fun _ => false) (fun i => decide (i = k)) fun _ => false) :
    ReadersLost s (readersLose (.gapPos k) s) lost := by
  have hlose : readersLose (.gapPos k) s = causeArises .gapLost k s := rfl
  have hframe := causeArises_frame .gapLost k s
  have hfaults : (causeArises .gapLost k s).faults = s.faults := (congrArg State.faults hframe :)
  rw [hlose]
  exact {
    frame := (congrArg (fun t : State => { t with
      speeds := s.speeds, breakTimers := s.breakTimers, faults := s.faults }) hframe :)
    faults := Ends.of_faults hfaults _
    speeds := fun i => by rw [h.speeds, (congrArg State.speeds hframe :)]; rfl
    breaks := fun j => by rw [h.speeds, h.tensions, (congrArg State.breakTimers hframe :)]; rfl
    breakEnds := fun j => by rw [hfaults, h.tensions]; simp
    forceEnds := fun i d _ => by rw [hfaults, h.forces]; simp
    stands := fun i => by
      rw [h.forces, h.gaps, causeArises_stand]
      by_cases hi : i = k
      · rw [if_pos hi, hi, decide_eq_true rfl, modeAfterLoss_eq, told_gapLost, Bool.true_and]
        rfl
      · rw [if_neg hi, decide_eq_false hi]
        exact (ReadersLost.refl s).stands i
    heldFrom := fun i hoff => by
      rw [causeArises_heldFrom]
      by_cases hi : i = k
      · subst hi
        rw [if_pos rfl, StandCtl.heldAfter, if_pos (.inl hoff)]
      · rw [if_neg hi] }

/-- R101: the state of a stand that leaves GAUGE, or takes no sample in its former mode any more. -/
def forceLeft (k : Stand) (s : State) : State :=
  if s.stands[k].mode = .gauge ∧ s.usable (.gapPos k) = true then s.setStand k { s.stands[k] with mode := .position }
  else if s.stands[k].mode = .hold then s.setHeldFrom k none else s

theorem forceLost_eq (k : Stand) (s : State) : forceLost k s = stopUnload k (forceLeft k s) := rfl

theorem forceLeft_spec (k : Stand) (s : State) : { forceLeft k s with stands := s.stands, heldFrom := s.heldFrom } = s ∧
    (∀ i : Stand, (forceLeft k s).stands[i] = if i = k then { s.stands[k] with
      mode := if s.stands[k].mode = .gauge ∧ s.usable (.gapPos k) = true then .position else s.stands[k].mode } else s.stands[i]) ∧
    ∀ i : Stand, s.stands[i].mode = .off → (forceLeft k s).heldFrom[i] = s.heldFrom[i] := by
  unfold forceLeft
  by_cases hg : s.stands[k].mode = .gauge ∧ s.usable (.gapPos k) = true
  · rw [if_pos hg, if_pos hg]
    exact ⟨rfl, fun i => stands_set_at s k i _, fun _ _ => rfl⟩
  · have hsame : ∀ i : Stand, s.stands[i] = if i = k then { s.stands[k] with mode := s.stands[k].mode } else s.stands[i] :=
      fun i => by
        by_cases hi : i = k
        · rw [if_pos hi, hi]
        · rw [if_neg hi]
    rw [if_neg hg, if_neg hg]
    by_cases hh : s.stands[k].mode = .hold
    · rw [if_pos hh]
      refine ⟨rfl, hsame, fun i hoff => (heldFrom_set_at s k i none).trans (if_neg ?_)⟩
      rintro rfl
      exact absurd (hoff.symm.trans hh) (by decide)
    · rw [if_neg hh]
      exact ⟨rfl, hsame, fun _ _ => rfl⟩

theorem forceLost_spec (k : Stand) (s : State) :
    { forceLost k s with stands := s.stands, heldFrom := s.heldFrom, faults := s.faults } = s ∧
    (forceLost k s).faults = (s.inactive Kind.standUnloaded (standLoc k)).faults ∧
    (∀ i : Stand, (forceLost k s).stands[i] = if i = k then s.stands[k].forceless (s.usable (.gapPos k)) else s.stands[i]) ∧
    ∀ i : Stand, s.stands[i].mode = .off → (forceLost k s).heldFrom[i] = s.heldFrom[i] := by
  obtain ⟨hframe, hstands, hheld⟩ := forceLeft_spec k s
  rw [forceLost_eq]
  generalize forceLeft k s = u at hframe hstands hheld
  have hfaults : u.faults = s.faults := (congrArg State.faults hframe :)
  refine ⟨(congrArg (fun t : State => { t with faults := s.faults }) hframe :), ?_, fun i => ?_, hheld⟩
  · show (u.inactive Kind.standUnloaded (standLoc k)).faults = _
    simp only [State.inactive, State.setFault, hfaults]
  · refine (stands_set_at u k i _).trans ?_
    by_cases hi : i = k
    · rw [if_pos hi, if_pos hi, hstands k, if_pos rfl]
      rfl
    · rw [if_neg hi, if_neg hi, hstands i, if_neg hi]

/-- R101, R140: the loss of a force. -/
theorem readersLose_force (k : Stand) (s : State) {lost : Item → Bool}
    (h : LostAre lost (fun _ => false) (fun i => decide (i = k)) (fun _ => false) fun _ => false) :
    ReadersLost s (readersLose (.force k) s) lost := by
  obtain ⟨hframe, hfaults, hstands, hheld⟩ := forceLost_spec k s
  have hlose : readersLose (.force k) s = ((forceLost k s).inactive Kind.forceLimit (standLoc k)).inactive Kind.forceNearLimit
    (standLoc k) := rfl
  rw [hlose]
  generalize forceLost k s = t at hframe hfaults hstands hheld
  have hmem : ∀ (d : Kind) (x : Nat), x ∈ t.faults[d].active ↔ x ∈ s.faults[d].active ∧ ¬ (d = Kind.standUnloaded ∧ x = standLoc k) :=
    fun d x => by rw [hfaults]; exact mem_inactive _ _ _ _ _
  have hlost : Ends [Kind.standUnloaded] s t := (inactive_ends s Kind.standUnloaded (standLoc k)).trans (Ends.of_faults hfaults _)
  exact {
    frame := (congrArg (fun t : State => { t with speeds := s.speeds, breakTimers := s.breakTimers }) hframe :)
    faults := ((hlost.mono (by simp)).trans ((inactive_ends t Kind.forceLimit (standLoc k)).mono (by simp))).trans
      ((inactive_ends _ Kind.forceNearLimit (standLoc k)).mono (by simp))
    speeds := fun i => by
      rw [h.speeds]
      exact (congrArg (fun t : State => t.speeds[i]) hframe :)
    breaks := fun j => by
      rw [h.speeds, h.tensions]
      exact (congrArg (fun t : State => t.breakTimers[j]) hframe :)
    breakEnds := fun j => by
      rw [h.tensions, mem_inactive, mem_inactive, hmem]
      simp [show Kind.stripBreak ≠ Kind.forceNearLimit by decide, show Kind.stripBreak ≠ Kind.forceLimit by decide,
        show Kind.stripBreak ≠ Kind.standUnloaded by decide]
    forceEnds := fun i d hd => by
      rw [h.forces, mem_inactive, mem_inactive, hmem]
      have hloc : i.val + 1 = standLoc k ↔ i = k := standLoc_inj (i := i)
      rw [hloc, decide_eq_false_iff_not]
      simp only [List.mem_cons, List.not_mem_nil, or_false] at hd
      tauto
    stands := fun i => by
      rw [h.forces, h.gaps, State.inactive_stands, State.inactive_stands, hstands i]
      by_cases hi : i = k
      · rw [if_pos hi, hi, decide_eq_true rfl, modeAfterLoss_eq, forceless_eq, if_pos rfl, Bool.false_and, Bool.or_false]
      · rw [if_neg hi, decide_eq_false hi]
        exact (ReadersLost.refl s).stands i
    heldFrom := hheld }

/-- R26: the readers of any item. -/
theorem readersLose_spec (i : Item) (s : State) : ReadersLost s (readersLose i s) (· == i) := by
  cases i with
  | rollSpeed k => exact readersLose_rollSpeed k s ⟨fun _ => Bool.eq_iff_iff.2 (by simp), fun _ => rfl, fun _ => rfl, fun _ => rfl⟩
  | tension j => exact readersLose_tension j s ⟨fun _ => rfl, fun _ => rfl, fun _ => rfl, fun _ => Bool.eq_iff_iff.2 (by simp)⟩
  | gapPos k => exact readersLose_gapPos k s ⟨fun _ => rfl, fun _ => rfl, fun _ => Bool.eq_iff_iff.2 (by simp), fun _ => rfl⟩
  | force k => exact readersLose_force k s ⟨fun _ => rfl, fun _ => Bool.eq_iff_iff.2 (by simp), fun _ => rfl, fun _ => rfl⟩
  | entryThick => exact readersLost_none s ⟨fun _ => rfl, fun _ => rfl, fun _ => rfl, fun _ => rfl⟩
  | stand1Thick => exact readersLost_none s ⟨fun _ => rfl, fun _ => rfl, fun _ => rfl, fun _ => rfl⟩
  | exitThick => exact readersLost_none s ⟨fun _ => rfl, fun _ => rfl, fun _ => rfl, fun _ => rfl⟩
  | entryLength => exact readersLost_none s ⟨fun _ => rfl, fun _ => rfl, fun _ => rfl, fun _ => rfl⟩

/-- R26: the readers of several items. -/
theorem readersLoseAll : ∀ (is : List Item) (s : State),
    ReadersLost s (is.foldl (fun s i => readersLose i s) s) fun i => decide (i ∈ is)
  | [], s => (ReadersLost.refl s).congr fun i => by simp
  | i :: is, s => ((readersLose_spec i s).trans (readersLoseAll is (readersLose i s))).congr fun j => by
      by_cases h : j = i <;> simp [h]

end Sys2Proof.Machine

/-! SUPPORT. The conditions of a loss (R43), with and without a trip, and the statements that speak of lost channels alone. -/

namespace Sys2Proof.Machine

/-! ### What no take changes -/

/-- A state with what takes and trips write put back to what it was. -/
def State.untake (s t : State) : State := { s.untrip t with hardStop := s.hardStop }

/-- The kinds of which a trip start ends conditions. -/
def tripEndedKinds : List Kind := [Kind.stripBreak, Kind.standUnloaded, Kind.positioningTimeout, Kind.offGaugeRun]

theorem enterHardStop_untake (s t : State) : s.untake (enterHardStop t) = s.untake t :=
  (congrArg s.untake (enterHardStop_frame t) :)

theorem enterHardStop_faults (s : State) : (enterHardStop s).faults = s.faults := (congrArg State.faults (enterHardStop_frame s) :)

theorem recordTake_active (k d : Kind) (loc : Nat) (s : State) : (recordTake k loc s).faults[d].active = s.faults[d].active := by
  rw [recordTake_at]
  split
  next h => rw [h]; rfl
  next => rfl

/-- The four forms of a take: recorded, with a trip or not, with HARD_STOP or not. -/
theorem take_forms (k : Kind) (loc : Nat) (s : State) :
    ∃ v, (v = recordTake k loc s ∨ v = tripStart k loc (recordTake k loc s)) ∧
      (take k loc s = v ∨ take k loc s = enterHardStop v) := by
  refine ⟨if startsTrip s k then tripStart k loc (recordTake k loc s) else recordTake k loc s, ?_, ?_⟩
  · cases startsTrip s k
    · exact .inl rfl
    · exact .inr rfl
  · rw [take_eq]
    by_cases ho : k = Kind.openTimeout ∧ s.trip = .opening
    · exact .inr (if_pos ho)
    · exact .inl (if_neg ho)

theorem take_untake (k : Kind) (loc : Nat) (s u : State) : u.untake (take k loc s) = u.untake s := by
  obtain ⟨v, hv, ht⟩ := take_forms k loc s
  have hbase : u.untake v = u.untake s := by
    rcases hv with rfl | rfl
    · rfl
    · have hframe := (tripStart_spec k loc (recordTake k loc s)).frame
      generalize tripStart k loc (recordTake k loc s) = t at hframe
      exact (congrArg u.untake hframe :)
  rcases ht with ht | ht <;> rw [ht]
  · exact hbase
  · exact (enterHardStop_untake u v).trans hbase

theorem take_active (k : Kind) (loc : Nat) (s : State) {d : Kind} (hd : d ∉ tripEndedKinds) :
    (take k loc s).faults[d].active = s.faults[d].active := by
  obtain ⟨v, hv, ht⟩ := take_forms k loc s
  have hbase : v.faults[d].active = s.faults[d].active := by
    rcases hv with rfl | rfl
    · exact recordTake_active k d loc s
    · rw [(tripStart_spec k loc (recordTake k loc s)).row hd, recordTake_active]
  rcases ht with ht | ht
  · rw [ht]; exact hbase
  · rw [ht, enterHardStop_faults]; exact hbase

theorem takes_untake (L : List (Kind × Nat)) (s u : State) : u.untake (L.foldl (fun s c => take c.1 c.2 s) s) = u.untake s := by
  induction L generalizing s with
  | nil => rfl
  | cons c L ih => rw [List.foldl_cons, ih, take_untake]

theorem takes_active (L : List (Kind × Nat)) (s : State) {d : Kind} (hd : d ∉ tripEndedKinds) :
    (L.foldl (fun s c => take c.1 c.2 s) s).faults[d].active = s.faults[d].active := by
  induction L generalizing s with
  | nil => rfl
  | cons c L ih => rw [List.foldl_cons, ih, take_active _ _ _ hd]

/-- An event, whatever it starts, changes only what takes and trips write. -/
theorem raiseAll_untake (cs : List (Kind × Nat)) (s u : State) : u.untake (raiseAll cs s) = u.untake s :=
  (takes_untake _ _ u).trans (congrArg u.untake (markFresh_spec cs s).1 :)

/-- The conditions of an event, whatever it starts. -/
theorem raiseAll_mem (cs : List (Kind × Nat)) (s : State) {d : Kind} (hd : d ∉ tripEndedKinds) (loc : Nat) :
    loc ∈ (raiseAll cs s).faults[d].active ↔ loc ∈ s.faults[d].active ∨ (d, loc) ∈ cs := by
  rw [raiseAll, takes_active _ _ hd]
  exact (markFresh_spec cs s).2.2.1 d loc

/-! ### The loss conditions (R43) -/

theorem lossOf_range {i : Item} {d : Kind} {loc : Nat} (h : lossOf i = some (d, loc)) : 5 ≤ d.val ∧ d.val ≤ 11 := by
  cases i <;> first
    | (obtain ⟨rfl, -⟩ := Prod.mk.inj (Option.some.inj h); decide)
    | exact absurd h (by simp [lossOf])

theorem lossOf_kind {i : Item} {d : Kind} {loc : Nat} (h : lossOf i = some (d, loc)) : d ∉ tripEndedKinds ∧ d ≠ Kind.sensorLinkDown ∧
    d ∉ [Kind.standUnloaded, Kind.stripBreak, Kind.forceLimit, Kind.forceNearLimit] ∧ d ≠ Kind.openTimeout := by
  obtain ⟨h1, h2⟩ := lossOf_range h
  have hall : ∀ d : Kind, 5 ≤ d.val → d.val ≤ 11 → d ∉ tripEndedKinds ∧ d ≠ Kind.sensorLinkDown ∧
    d ∉ [Kind.standUnloaded, Kind.stripBreak, Kind.forceLimit, Kind.forceNearLimit] ∧ d ≠ Kind.openTimeout := by decide
  exact hall d h1 h2

theorem mem_lossItems {i : Item} (h : lossOf i ≠ none) : i ∈ lossItems := by
  unfold lossItems
  cases i with
  | entryLength => exact absurd rfl h
  | _ => simp

theorem mem_lossesOf {items : List Item} {d : Kind} {loc : Nat} :
    (d, loc) ∈ (lossItems.filter (· ∈ items)).filterMap lossOf ↔ ∃ i, i ∈ items ∧ lossOf i = some (d, loc) := by
  simp only [List.mem_filterMap, List.mem_filter, decide_eq_true_eq]
  constructor
  · rintro ⟨i, ⟨-, hi⟩, h⟩
    exact ⟨i, hi, h⟩
  · rintro ⟨i, hi, h⟩
    exact ⟨i, ⟨mem_lossItems (by rw [h]; exact Option.some_ne_none _), hi⟩, h⟩

/-- The conditions of an event are those of the lost items, outside CONFIG. -/
def LossConditions (s : State) (cs : List (Kind × Nat)) (lost : Item → Bool) : Prop :=
  ∀ (d : Kind) (loc : Nat), d ≠ Kind.sensorLinkDown →
    ((d, loc) ∈ cs ↔ s.mode ≠ .config ∧ ∃ i, lost i = true ∧ lossOf i = some (d, loc))

/-- R43: what a loss raises, whether it starts a trip or not. -/
theorem lossesRise {s u : State} {cs : List (Kind × Nat)} {lost : Item → Bool} (hcs : LossConditions s cs lost)
    (hu : ∀ (d : Kind), 5 ≤ d.val → d.val ≤ 11 → u.faults[d] = s.faults[d]) : LossesRise s (raiseAll cs u) lost := by
  intro d h1 h2 loc
  have hall : ∀ d : Kind, 5 ≤ d.val → d.val ≤ 11 → d ∉ tripEndedKinds ∧ d ≠ Kind.sensorLinkDown := by decide
  obtain ⟨hd, hne⟩ := hall d h1 h2
  rw [raiseAll_mem _ _ hd, hu d h1 h2, hcs d loc hne]

/-! ### A loss that starts no trip -/

theorem channelsLost_of {s m u t : State} {cs : List (Kind × Nat)} {lost : Item → Bool}
    (hm : { m with
      links := s.links, channels := s.channels, faults := s.faults, port := s.port, sent := s.sent, logs := s.logs } = s)
    (hrows : ∀ d : Kind, d ≠ Kind.sensorLinkDown → m.faults[d] = s.faults[d])
    (husable : ∀ k, lost (.gapPos k) = false → m.usable (.gapPos k) = s.usable (.gapPos k))
    (hu : ReadersLost m u lost) (ht : Raised cs u t) (hcs : LossConditions s cs lost) : ChannelsLost s t lost := by
  have hmode : t.mode = s.mode := (congrArg State.mode ht.recorded :).trans ((congrArg State.mode hu.frame :).trans
    (congrArg State.mode hm :))
  have htrip : t.trip = s.trip := (congrArg State.trip ht.recorded :).trans ((congrArg State.trip hu.frame :).trans
    (congrArg State.trip hm :))
  have hspeeds : m.speeds = s.speeds := (congrArg State.speeds hm :)
  have hbreaks : m.breakTimers = s.breakTimers := (congrArg State.breakTimers hm :)
  have hstands : m.stands = s.stands := (congrArg State.stands hm :)
  have hkinds : ∀ d ∈ [Kind.standUnloaded, Kind.stripBreak, Kind.forceLimit, Kind.forceNearLimit], d ≠ Kind.sensorLinkDown := by
    decide
  have hnone : ∀ d ∈ [Kind.standUnloaded, Kind.stripBreak, Kind.forceLimit, Kind.forceNearLimit], ∀ loc, (d, loc) ∉ cs :=
    fun d hd loc hin => by
      obtain ⟨-, i, -, hi⟩ := (hcs d loc (hkinds d hd)).1 hin
      exact (lossOf_kind hi).2.2.1 hd
  have hrow : ∀ {i : Item} {d : Kind} {loc : Nat}, lossOf i = some (d, loc) → u.faults[d] = s.faults[d] := fun hi =>
    (hu.faults.others _ (lossOf_kind hi).2.2.1).trans (hrows _ (lossOf_kind hi).2.1)
  exact {
    mode := ⟨hmode, htrip⟩
    losses := fun d h1 h2 loc => by
      have hall : ∀ d : Kind, 5 ≤ d.val → d.val ≤ 11 → d ≠ Kind.sensorLinkDown ∧
        d ∉ [Kind.standUnloaded, Kind.stripBreak, Kind.forceLimit, Kind.forceNearLimit] := by decide
      obtain ⟨hne, hd⟩ := hall d h1 h2
      rw [ht.active, hu.faults.others d hd, hrows d hne, hcs d loc hne]
    latched := fun i d loc hl hi hc hn => by
      rw [ht.latched, hrow hi, Bool.or_eq_true, List.any_eq_true]
      refine .inr ⟨(d, loc), (hcs d loc (lossOf_kind hi).2.1).2 ⟨hc, i, hl, hi⟩, ?_⟩
      simpa using hn
    speeds := fun k => by
      rw [(congrArg State.speeds ht.recorded :), hu.speeds, hspeeds]
    breaks := fun j => by
      rw [(congrArg State.breakTimers ht.recorded :), hu.breaks, hbreaks]
      rfl
    breakEnds := fun j => by
      rw [ht.active, or_iff_left (hnone _ (by simp) _), hu.breakEnds, hrows _ (by decide)]
    forceEnds := fun k d hd => by
      have hin : d ∈ [Kind.standUnloaded, Kind.stripBreak, Kind.forceLimit, Kind.forceNearLimit] := by
        simp only [List.mem_cons, List.not_mem_nil, or_false] at hd ⊢
        tauto
      rw [ht.active, or_iff_left (hnone d hin _), hu.forceEnds k d hd, hrows d (hkinds d hin)]
    stands := fun k => by
      have hmodeK : modeAfterLoss m k (lost (.gapPos k)) (lost (.force k)) =
          modeAfterLoss s k (lost (.gapPos k)) (lost (.force k)) := by
        rw [modeAfterLoss_eq, modeAfterLoss_eq, hstands]
        cases hg : lost (.gapPos k) with
        | false => rw [husable k hg]
        | true => cases s.stands[k].mode <;> rfl
      rw [(congrArg State.stands ht.recorded :), hu.stands k, hmodeK, hstands] }

/-! ### One channel (R41) -/

theorem entryOf_congr {s t : State} (h : ∀ e : EntryNo, t.channels[e].config = s.channels[e].config) (i : Item) :
    t.entryOf i = s.entryOf i := by
  unfold State.entryOf
  simp only [h]

theorem channels_set_at (s : State) (e x : EntryNo) (c : Channel) :
    (s.setChannel e c).channels[x] = if x = e then c else s.channels[x] := by
  by_cases h : x = e
  · subst h; simp
  · have hval : e.val ≠ x.val := fun he => h (Fin.ext he.symm)
    simp [hval, h]

/-- A usable channel stays so where no channel of its item is touched. -/
theorem usable_congr {s t : State} {i : Item} (hc : ∀ e : EntryNo, t.channels[e].config = s.channels[e].config)
    (hst : ∀ e : EntryNo, s.channels[e].config.map (·.item) = some i → t.channels[e].state.isUsable = s.channels[e].state.isUsable) :
    t.usable i = s.usable i := by
  have hentry := entryOf_congr hc i
  unfold State.usable State.channelState
  rw [hentry]
  cases he : s.entryOf i with
  | none => rfl
  | some e =>
    refine hst e ?_
    have hfound := List.find?_some he
    cases hcfg : s.channels[e].config with
    | none => rw [hcfg] at hfound; exact absurd hfound Bool.false_ne_true
    | some c =>
      rw [hcfg] at hfound
      exact congrArg some (beq_iff_eq.1 hfound)

end Sys2Proof.Machine

/-! SUPPORT. The loss of one channel by age, head fault or rejects (R38, R40, R41). -/

namespace Sys2Proof.Machine

/-- A channel that becomes INVALID. -/
def Channel.lostBy (ch : Channel) (c : InvalidCause) : Channel := { ch with state := .invalid c, lengthRef := none }

theorem markInvalid_bound {e : EntryNo} {c : InvalidCause} {s : State} (h : s.channels[e].state ≠ .unbound) :
    markInvalid e c s = s.setChannel e (s.channels[e].lostBy c) := by
  unfold markInvalid
  dsimp only
  split
  next hu => exact absurd hu h
  next => rfl

theorem loseChannel_fresh {e : EntryNo} {c : InvalidCause} {cfg : ChannelConfig} {s : State} (hcfg : s.channels[e].config = some cfg)
    (hu : s.channels[e].state ≠ .unbound) (hi : s.channels[e].state.isInvalid = false) :
    loseChannel e c s = raiseAll (lossCondition s cfg.item) (readersLose cfg.item (s.setChannel e (s.channels[e].lostBy c))) := by
  simp only [loseChannel, hcfg, hi, Bool.false_eq_true, if_false, markInvalid_bound hu]
  rfl

theorem loseChannel_again {e : EntryNo} {c : InvalidCause} {cfg : ChannelConfig} {s : State} (hcfg : s.channels[e].config = some cfg)
    (hu : s.channels[e].state ≠ .unbound) (hi : s.channels[e].state.isInvalid = true) :
    loseChannel e c s = s.setChannel e (s.channels[e].lostBy c) := by
  simp only [loseChannel, hcfg, hi, if_true, markInvalid_bound hu]

theorem lossCondition_conditions (s : State) (i : Item) : LossConditions s (lossCondition s i) (· == i) := by
  intro d loc _
  unfold lossCondition
  by_cases hm : s.mode = .config
  · simp [hm]
  · rw [if_neg hm]
    simp [hm]

theorem takes_firstOut : ∀ (L : List (Kind × Nat)) (s : State), (∀ c ∈ L, s.trips c.1 = false ∧ c.1 ≠ Kind.openTimeout) →
    (L.foldl (fun s c => take c.1 c.2 s) s).firstOut = s.firstOut
  | [], _, _ => rfl
  | (k, loc) :: L, s, h => by
    obtain ⟨htrips, hk⟩ := h (k, loc) List.mem_cons_self
    have hstep : take k loc s = recordTake k loc s := take_quiet loc hk (startsTrip_of_trips htrips)
    have hsub : isSubsequent s k = false := by rw [isSubsequent, htrips]; rfl
    rw [List.foldl_cons, hstep, takes_firstOut L (recordTake k loc s) fun c hc => h c (List.mem_cons_of_mem _ hc)]
    show (if isSubsequent s k then _ else s.firstOut) = _
    rw [hsub]
    rfl

/-- R153: an event of kinds that do not trip leaves the first-out record. -/
theorem raiseAll_firstOut {cs : List (Kind × Nat)} {s : State} (h : ∀ c ∈ cs, s.trips c.1 = false ∧ c.1 ≠ Kind.openTimeout) :
    (raiseAll cs s).firstOut = s.firstOut := by
  obtain ⟨hframe, -, -, -, hfresh⟩ := markFresh_spec cs s
  have hpolicy : (markFresh cs s).2.policy = s.policy := (congrArg State.policy hframe :)
  refine (takes_firstOut _ _ fun c hc => ?_).trans (congrArg State.firstOut hframe :)
  rw [trips_congr hpolicy]
  exact h c ((hfresh c).1 hc).1

/-- A state with what a loss tells the readers and its takes write put back to what it was. -/
def State.unlose (s t : State) : State :=
  { t with
    links := s.links, channels := s.channels, speeds := s.speeds, breakTimers := s.breakTimers, stands := s.stands
    heldFrom := s.heldFrom, faults := s.faults, logs := s.logs, port := s.port, firstOut := s.firstOut }

theorem lossAlone_of {s t : State} (h : s.unlose t = s) (hf : t.firstOut = s.firstOut) : LossAlone s t := by
  have hself : LossAlone s t ↔ { s.unlose t with firstOut := t.firstOut } = s := Iff.rfl
  rw [hself, h, hf]

/-- R41: the loss of one channel, from a state m that differs from s in its links and channels alone. -/
theorem oneLost {s m : State} {i : Item} {cs : List (Kind × Nat)} (hm : { m with links := s.links, channels := s.channels } = s)
    (husable : ∀ k, i ≠ .gapPos k → m.usable (.gapPos k) = s.usable (.gapPos k)) (hcs : cs = lossCondition s i)
    (htrips : ∀ (d : Kind) (loc : Nat), lossOf i = some (d, loc) → s.trips d = false) :
    ChannelsLost s (raiseAll cs (readersLose i m)) (· == i) ∧ LossAlone s (raiseAll cs (readersLose i m)) := by
  have hu := readersLose_spec i m
  generalize readersLose i m = u at hu
  have hpolicy : u.policy = s.policy := (congrArg State.policy hu.frame :).trans (congrArg State.policy hm :)
  have hquiet : ∀ c ∈ cs, u.trips c.1 = false ∧ c.1 ≠ Kind.openTimeout := by
    subst hcs
    intro c hc
    unfold lossCondition at hc
    split at hc
    · exact absurd hc List.not_mem_nil
    · have hloss : lossOf i = some (c.1, c.2) := Option.mem_toList.1 hc
      rw [trips_congr hpolicy]
      exact ⟨htrips _ _ hloss, (lossOf_kind hloss).2.2.2⟩
  have hr := raiseAll_quiet (s := u) fun c hc => ⟨startsTrip_of_trips (hquiet c hc).1, (hquiet c hc).2⟩
  have hfirst := raiseAll_firstOut hquiet
  generalize raiseAll cs u = t at hr hfirst
  have hrows : m.faults = s.faults := (congrArg State.faults hm :)
  refine ⟨channelsLost_of (s := s) (m := m) (congrArg (fun x : State => { x with
    faults := s.faults, port := s.port, sent := s.sent, logs := s.logs }) hm :) (fun d _ => by rw [hrows]) (fun k hk => ?_) hu hr
    (hcs ▸ lossCondition_conditions s i), ?_⟩
  · exact husable k fun h => by simp [h] at hk
  · exact lossAlone_of ((congrArg s.unlose hr.recorded :).trans ((congrArg s.unlose hu.frame :).trans (congrArg s.unlose hm :)))
      (hfirst.trans ((congrArg State.firstOut hu.frame :).trans (congrArg State.firstOut hm :)))

/-- R41: the usable gap positions where the channel of another item is lost. -/
theorem setChannel_usable {s : State} {e : EntryNo} {ch : Channel} {cfg : ChannelConfig} {i : Item}
    (hcfg : s.channels[e].config = some cfg) (hch : ch.config = some cfg) (hi : cfg.item ≠ i) :
    (s.setChannel e ch).usable i = s.usable i := by
  refine usable_congr (fun x => ?_) fun x hx => ?_
  · rw [channels_set_at]
    split
    next h => rw [h, hch, hcfg]
    next => rfl
  · rw [channels_set_at]
    split
    next h =>
      rw [h, hcfg] at hx
      exact absurd (Option.some.inj hx) hi
    next => rfl

/-- R41, R43: the loss of one channel that was not INVALID, at a step's start or in a frame. -/
theorem loseChannel_lost {e : EntryNo} {c : InvalidCause} {cfg : ChannelConfig} {s : State} (hcfg : s.channels[e].config = some cfg)
    (hu : s.channels[e].state ≠ .unbound) (hi : s.channels[e].state.isInvalid = false)
    (htrips : ∀ (d : Kind) (loc : Nat), lossOf cfg.item = some (d, loc) → s.trips d = false) :
    ChannelsLost s (loseChannel e c s) (· == cfg.item) ∧ LossAlone s (loseChannel e c s) := by
  rw [loseChannel_fresh hcfg hu hi]
  exact oneLost (m := s.setChannel e (s.channels[e].lostBy c)) rfl
    (fun k hk => setChannel_usable hcfg (show (s.channels[e].lostBy c).config = _ from hcfg) hk) rfl htrips

/-- What a loss writes, whether it starts a trip or not: the channel, no link, and the loss conditions. -/
theorem loseChannel_rise {e : EntryNo} {c : InvalidCause} {cfg : ChannelConfig} {s : State} (hcfg : s.channels[e].config = some cfg)
    (hu : s.channels[e].state ≠ .unbound) :
    (loseChannel e c s).channels = s.channels.set e (s.channels[e].lostBy c) ∧ (loseChannel e c s).links = s.links ∧
      LossesRise s (loseChannel e c s) (fun i => !s.channels[e].state.isInvalid && i == cfg.item) := by
  cases hi : s.channels[e].state.isInvalid with
  | true =>
    rw [loseChannel_again hcfg hu hi]
    refine ⟨rfl, rfl, fun d _ _ loc => ?_⟩
    simp
  | false =>
    rw [loseChannel_fresh hcfg hu hi]
    have hr := readersLose_spec cfg.item (s.setChannel e (s.channels[e].lostBy c))
    generalize readersLose cfg.item (s.setChannel e (s.channels[e].lostBy c)) = u at hr
    have hun := raiseAll_untake (lossCondition s cfg.item) u u
    have hrise : LossesRise s (raiseAll (lossCondition s cfg.item) u) (· == cfg.item) :=
      lossesRise (lossCondition_conditions s cfg.item) fun d h1 h2 => by
        have hall : ∀ d : Kind, 5 ≤ d.val → d.val ≤ 11 →
          d ∉ [Kind.standUnloaded, Kind.stripBreak, Kind.forceLimit, Kind.forceNearLimit] := by decide
        exact hr.faults.others d (hall d h1 h2)
    generalize raiseAll (lossCondition s cfg.item) u = t at hun hrise
    refine ⟨?_, ?_, ?_⟩
    · exact (congrArg State.channels hun :).trans (congrArg State.channels hr.frame :)
    · exact (congrArg State.links hun :).trans (congrArg State.links hr.frame :)
    · simpa using hrise

/-! ### Ageing (R40) -/

theorem ageReached_held {s : State} {ch : Channel} {c : ChannelConfig} {v : Int} {t0 : Micros} (hc : ch.config = some c)
    (hh : ch.held = some (v, t0)) (n : Nat) : ageReached s ch n = decide (n * c.stale ≤ s.age t0) := by
  simp only [ageReached, hc, hh]

/-- R40: the expiry of a usable entry whose age has reached four times its limit. -/
theorem invalidExpiry_exec {e : EntryNo} {s : State} (hst : s.channels[e].state = .valid ∨ s.channels[e].state = .stale)
    (hage : ageReached s s.channels[e] 4 = true) : exec (.invalidExpiry e) s = .next (loseChannel e .age s.stepStart) :=
  congrArg Host.Outcome.next (if_pos (⟨(isUsable_iff _).2 hst, hage⟩ :
    s.stepStart.channels[e].state.isUsable = true ∧ ageReached s.stepStart s.stepStart.channels[e] 4 = true))

theorem usable_not_lost {c : ChannelState} (h : c = .valid ∨ c = .stale) : c ≠ .unbound ∧ c.isInvalid = false := by
  rcases h with rfl | rfl <;> exact ⟨by decide, rfl⟩

/-- Settles O41: the two expiries of a channel, and the table of loss conditions. -/
theorem channelAgeing : Obligations.ChannelAgeing := by
  refine ⟨fun e c v t0 s hc hh => ⟨fun hst hage => ?_, fun hage => ?_, fun hst hage => ?_, fun hage => ?_⟩,
    fun k => ⟨rfl, rfl, rfl⟩, fun j => rfl, rfl, rfl, rfl, rfl⟩
  · refine congrArg Host.Outcome.next (if_pos ⟨hst, ?_⟩)
    exact (ageReached_held (s := s.stepStart) hc hh 1).trans (decide_eq_true (by rw [one_mul]; exact hage))
  · refine congrArg Host.Outcome.next (if_neg fun h => ?_)
    have hd : ageReached s s.channels[e] 1 = true := h.2
    rw [ageReached_held hc hh, one_mul, decide_eq_true_iff] at hd
    omega
  · have hexec := invalidExpiry_exec hst ((ageReached_held hc hh 4).trans (decide_eq_true hage))
    obtain ⟨hu, hi⟩ := usable_not_lost hst
    obtain ⟨hch, hl, hrise⟩ := loseChannel_rise (c := .age) (s := s.stepStart) hc hu
    refine ⟨_, hexec, hch, hl, fun d h1 h2 loc => ?_⟩
    have hinv : s.stepStart.channels[e].state.isInvalid = false := hi
    rw [hinv] at hrise
    exact hrise d h1 h2 loc
  · refine congrArg Host.Outcome.next (if_neg fun h => ?_)
    have hd : ageReached s s.channels[e] 4 = true := h.2
    rw [ageReached_held hc hh, decide_eq_true_iff] at hd
    omega

end Sys2Proof.Machine

/-! SUPPORT. The loss of a whole link, by DISABLE and by the expiry of its frame timer (R20, R26, R27). -/

namespace Sys2Proof.Machine

/-! ### The link and its channels -/

/-- R26: a link on its way to DOWN or DISABLED. -/
def Link.lostTo (k : Link) (m : LinkMode) : Link :=
  { k with mode := m, timer := none, training := 0, crcRun := 0, seqRef := none, rx := if m = .disabled then [] else k.rx }

/-- R26, R30: the state in which a lost link has gone and its channels are still to be marked. -/
def State.delinked (s : State) (l : LinkNo) (m : LinkMode) : State :=
  if s.links[l].mode = .down then (s.setLink l (s.links[l].lostTo m)).inactive Kind.sensorLinkDown l.val
  else s.setLink l (s.links[l].lostTo m)

/-- R26: the state in which the readers of a lost link's channels take their loss. -/
def State.unlinked (s : State) (l : LinkNo) (m : LinkMode) : State := markLinkLost l (s.delinked l m)

/-- R26: the conditions of the loss of a link. -/
def linkConditions (s : State) (l : LinkNo) (m : LinkMode) (items : List Item) : List (Kind × Nat) :=
  (if s.mode = .config then [] else (lossItems.filter (· ∈ items)).filterMap lossOf) ++
    if m = .down ∧ s.boundTo l ≠ [] then [(Kind.sensorLinkDown, l.val)] else []

theorem linkLost_eq (l : LinkNo) (m : LinkMode) (c : LinkCause) (s : State) : linkLost l m c s =
    (fun u => notifyLink l s.links[l].mode c (raiseAll (linkConditions u l m (freshlyLost s (s.boundTo l))) u))
      ((freshlyLost s (s.boundTo l)).foldl (fun s i => readersLose i s) (s.unlinked l m)) := rfl

theorem setChannel_twice (s : State) (e : EntryNo) (a b : Channel) : (s.setChannel e a).setChannel e b = s.setChannel e b := by
  simp [State.setChannel]

theorem markInvalid_at (e x : EntryNo) (c : InvalidCause) (s : State) : (markInvalid e c s).channels[x] =
    if x = e ∧ s.channels[x].state ≠ .unbound then s.channels[x].lostBy c else s.channels[x] := by
  by_cases hu : s.channels[e].state = .unbound
  · have hsame : markInvalid e c s = s := by simp only [markInvalid, hu]
    rw [hsame, if_neg]
    rintro ⟨rfl, hn⟩
    exact hn hu
  · rw [markInvalid_bound hu, channels_set_at]
    by_cases hx : x = e
    · subst hx
      rw [if_pos rfl, if_pos ⟨rfl, hu⟩]
    · rw [if_neg hx, if_neg fun h => hx h.1]

theorem markInvalid_frame (e : EntryNo) (c : InvalidCause) (s : State) :
    { markInvalid e c s with channels := s.channels } = s := by
  unfold markInvalid
  dsimp only
  split <;> rfl

theorem markAll_spec (c : InvalidCause) : ∀ (es : List EntryNo) (s : State),
    { es.foldl (fun s e => markInvalid e c s) s with channels := s.channels } = s ∧
    ∀ x : EntryNo, (es.foldl (fun s e => markInvalid e c s) s).channels[x] =
      if x ∈ es ∧ s.channels[x].state ≠ .unbound then s.channels[x].lostBy c else s.channels[x]
  | [], s => ⟨rfl, fun x => by simp⟩
  | e :: es, s => by
    obtain ⟨hframe, hat⟩ := markAll_spec c es (markInvalid e c s)
    refine ⟨(congrArg (fun t : State => { t with channels := s.channels }) hframe :).trans (markInvalid_frame e c s), fun x => ?_⟩
    rw [List.foldl_cons, hat x, markInvalid_at]
    generalize s.channels[x] = ch
    by_cases hu : ch.state = .unbound
    · simp [hu]
    · by_cases hx : x = e
      · simp [hx, hu, Channel.lostBy]
      · simp [hx, hu]

theorem delinked_frame (s : State) (l : LinkNo) (m : LinkMode) :
    { s.delinked l m with links := s.links, faults := s.faults } = s := by
  unfold State.delinked
  split <;> rfl

theorem delinked_links (s : State) (l : LinkNo) (m : LinkMode) : (s.delinked l m).links = s.links.set l (s.links[l].lostTo m) := by
  unfold State.delinked
  split <;> rfl

theorem delinked_faults (s : State) (l : LinkNo) (m : LinkMode) : (s.delinked l m).faults =
    if s.links[l].mode = .down then (s.inactive Kind.sensorLinkDown l.val).faults else s.faults := by
  unfold State.delinked
  split <;> rfl

theorem unlinked_marked (s : State) (l : LinkNo) (m : LinkMode) :
    { s.unlinked l m with channels := (s.delinked l m).channels } = s.delinked l m :=
  (markAll_spec .linkLost ((s.delinked l m).boundTo l) (s.delinked l m)).1

theorem unlinked_frame (s : State) (l : LinkNo) (m : LinkMode) :
    { s.unlinked l m with links := s.links, channels := s.channels, faults := s.faults } = s :=
  (congrArg (fun t : State => { t with links := s.links, channels := s.channels, faults := s.faults }) (unlinked_marked s l m) :).trans
    (congrArg (fun t : State => { t with channels := s.channels }) (delinked_frame s l m) :)

theorem unlinked_links (s : State) (l : LinkNo) (m : LinkMode) : (s.unlinked l m).links = s.links.set l (s.links[l].lostTo m) :=
  (congrArg State.links (unlinked_marked s l m) :).trans (delinked_links s l m)

theorem unlinked_faults (s : State) (l : LinkNo) (m : LinkMode) : (s.unlinked l m).faults =
    if s.links[l].mode = .down then (s.inactive Kind.sensorLinkDown l.val).faults else s.faults :=
  (congrArg State.faults (unlinked_marked s l m) :).trans (delinked_faults s l m)

theorem unlinked_channels (s : State) (l : LinkNo) (m : LinkMode) (e : EntryNo) : (s.unlinked l m).channels[e] =
    if s.channels[e].config.map (·.link) = some l ∧ s.channels[e].state ≠ .unbound then s.channels[e].lostBy .linkLost
    else s.channels[e] := by
  have hch : (s.delinked l m).channels = s.channels := (congrArg State.channels (delinked_frame s l m) :)
  refine ((markAll_spec .linkLost ((s.delinked l m).boundTo l) (s.delinked l m)).2 e).trans ?_
  simp only [mem_boundTo, hch]

/-! ### What is lost with a link -/

theorem mem_freshlyLost (s : State) (l : LinkNo) (i : Item) : i ∈ freshlyLost s (s.boundTo l) ↔ lostWith s l i = true := by
  unfold freshlyLost lostWith
  simp only [List.mem_filterMap, List.any_eq_true, List.mem_finRange, true_and, mem_boundTo, Bool.and_eq_true, decide_eq_true_eq,
    Bool.not_eq_true']
  refine exists_congr fun e => ?_
  cases hc : s.channels[e].config with
  | none => simp
  | some c =>
    cases hi : s.channels[e].state.isInvalid <;> simp

theorem unlinked_usable {s : State} {l : LinkNo} {k : Stand} (m : LinkMode) (h : lostWith s l (.gapPos k) = false) :
    (s.unlinked l m).usable (.gapPos k) = s.usable (.gapPos k) := by
  refine usable_congr (fun e => ?_) fun e he => ?_
  · rw [unlinked_channels]
    split <;> rfl
  · rw [unlinked_channels]
    split
    next hb =>
      obtain ⟨hlink, -⟩ := hb
      have hinv : s.channels[e].state.isInvalid = true := by
        by_contra hn
        have hin : lostWith s l (.gapPos k) = true := by
          refine List.any_eq_true.2 ⟨e, List.mem_finRange e, ?_⟩
          cases hc : s.channels[e].config with
          | none => rw [hc] at he; exact absurd he (by simp)
          | some c =>
            rw [hc] at he hlink
            have h1 : c.link = l := Option.some.inj hlink
            have h2 : c.item = .gapPos k := Option.some.inj he
            rw [Option.map_some, h1, h2, decide_eq_true rfl, Bool.true_and, eq_false_of_ne_true hn]
            rfl
        rw [h] at hin
        exact Bool.false_ne_true hin
      cases hst : s.channels[e].state with
      | invalid c => rfl
      | _ => rw [hst] at hinv; exact absurd hinv Bool.false_ne_true
    next => rfl

theorem boundTo_congr {s t : State} (h : ∀ e : EntryNo, t.channels[e].config = s.channels[e].config) (l : LinkNo) :
    t.boundTo l = s.boundTo l := by
  unfold State.boundTo
  simp only [h]

/-- R26: the state after the readers of a lost link have taken their loss, before its conditions are judged. -/
def State.linkRead (s : State) (l : LinkNo) (m : LinkMode) : State :=
  (freshlyLost s (s.boundTo l)).foldl (fun s i => readersLose i s) (s.unlinked l m)

theorem linkRead_lost (s : State) (l : LinkNo) (m : LinkMode) : ReadersLost (s.unlinked l m) (s.linkRead l m) (lostWith s l) :=
  (readersLoseAll _ _).congr fun i => by
    rw [Bool.eq_iff_iff, decide_eq_true_iff]
    exact mem_freshlyLost s l i

/-- What the loss of a link leaves before its notice. -/
def State.linkRaised (s : State) (l : LinkNo) (m : LinkMode) : State :=
  raiseAll (linkConditions (s.linkRead l m) l m (freshlyLost s (s.boundTo l))) (s.linkRead l m)

theorem linkLost_raised (l : LinkNo) (m : LinkMode) (c : LinkCause) (s : State) :
    linkLost l m c s = notifyLink l s.links[l].mode c (s.linkRaised l m) := linkLost_eq l m c s

theorem linkRead_mode (s : State) (l : LinkNo) (m : LinkMode) : (s.linkRead l m).mode = s.mode :=
  (congrArg State.mode (linkRead_lost s l m).frame :).trans (congrArg State.mode (unlinked_frame s l m) :)

theorem linkRead_boundTo (s : State) (l : LinkNo) (m : LinkMode) : (s.linkRead l m).boundTo l = s.boundTo l := by
  refine boundTo_congr (fun e => ?_) l
  rw [(congrArg State.channels (linkRead_lost s l m).frame :), unlinked_channels]
  split <;> rfl

theorem mem_linkConditions (s : State) (l : LinkNo) (m : LinkMode) (d : Kind) (loc : Nat) :
    (d, loc) ∈ linkConditions (s.linkRead l m) l m (freshlyLost s (s.boundTo l)) ↔
      (s.mode ≠ .config ∧ ∃ i, lostWith s l i = true ∧ lossOf i = some (d, loc)) ∨
      (d = Kind.sensorLinkDown ∧ loc = l.val ∧ m = .down ∧ s.boundTo l ≠ []) := by
  unfold linkConditions
  rw [List.mem_append, linkRead_mode, linkRead_boundTo]
  refine or_congr ?_ ?_
  · by_cases hc : s.mode = .config
    · simp [hc]
    · rw [if_neg hc, mem_lossesOf]
      simp only [mem_freshlyLost, ne_eq, hc, not_false_eq_true, true_and]
  · by_cases hd : m = .down ∧ s.boundTo l ≠ []
    · rw [if_pos hd, List.mem_singleton, Prod.mk.injEq]
      simp [hd]
    · rw [if_neg hd]
      simp only [List.not_mem_nil, false_iff]
      tauto

theorem linkConditions_losses (s : State) (l : LinkNo) (m : LinkMode) :
    LossConditions s (linkConditions (s.linkRead l m) l m (freshlyLost s (s.boundTo l))) (lostWith s l) := by
  intro d loc hd
  rw [mem_linkConditions]
  simp [hd]

theorem linkRead_rows (s : State) (l : LinkNo) (m : LinkMode) {d : Kind} (hd : d ≠ Kind.sensorLinkDown) :
    (s.unlinked l m).faults[d] = s.faults[d] := by
  rw [unlinked_faults]
  split
  · rw [inactive_at, if_neg hd]
  · rfl

/-- R26, R30, R43: the link, the channels and the conditions, whether they start a trip or not. -/
theorem linkRaised_spec (s : State) (l : LinkNo) (m : LinkMode) :
    (s.linkRaised l m).links = s.links.set l (s.links[l].lostTo m) ∧
    (∀ e : EntryNo, (s.linkRaised l m).channels[e] =
      if s.channels[e].config.map (·.link) = some l ∧ s.channels[e].state ≠ .unbound then s.channels[e].lostBy .linkLost
      else s.channels[e]) ∧
    LossesRise s (s.linkRaised l m) (lostWith s l) ∧
    (l.val ∈ (s.linkRaised l m).faults[Kind.sensorLinkDown].active ↔
      (l.val ∈ s.faults[Kind.sensorLinkDown].active ∧ s.links[l].mode ≠ .down) ∨ (m = .down ∧ s.boundTo l ≠ [])) := by
  have hread := linkRead_lost s l m
  have hmem := raiseAll_mem (linkConditions (s.linkRead l m) l m (freshlyLost s (s.boundTo l))) (s.linkRead l m)
    (d := Kind.sensorLinkDown) (by decide) l.val
  have hrise : LossesRise s (s.linkRaised l m) (lostWith s l) := lossesRise (linkConditions_losses s l m) fun d h1 h2 => by
    have hall : ∀ d : Kind, 5 ≤ d.val → d.val ≤ 11 → d ≠ Kind.sensorLinkDown ∧
      d ∉ [Kind.standUnloaded, Kind.stripBreak, Kind.forceLimit, Kind.forceNearLimit] := by decide
    obtain ⟨hne, hd⟩ := hall d h1 h2
    rw [hread.faults.others d hd, linkRead_rows s l m hne]
  have hun := raiseAll_untake (linkConditions (s.linkRead l m) l m (freshlyLost s (s.boundTo l))) (s.linkRead l m) (s.linkRead l m)
  have hlinks : (s.linkRaised l m).links = (s.linkRead l m).links := (congrArg State.links hun :)
  have hchannels : (s.linkRaised l m).channels = (s.linkRead l m).channels := (congrArg State.channels hun :)
  refine ⟨?_, fun e => ?_, hrise, ?_⟩
  · rw [hlinks, (congrArg State.links hread.frame :), unlinked_links]
  · rw [hchannels, (congrArg State.channels hread.frame :), unlinked_channels]
  · refine hmem.trans (or_congr ?_ ?_)
    · rw [hread.faults.others _ (by decide), unlinked_faults]
      by_cases hd : s.links[l].mode = .down
      · rw [if_pos hd, mem_inactive]
        exact ⟨fun h => absurd ⟨rfl, rfl⟩ h.2, fun h => absurd hd h.2⟩
      · rw [if_neg hd]
        exact (and_iff_left hd).symm
    · rw [mem_linkConditions]
      constructor
      · rintro (⟨-, i, -, hi⟩ | ⟨-, -, h⟩)
        · exact absurd rfl (lossOf_kind hi).2.1
        · exact h
      · exact fun h => .inr ⟨rfl, rfl, h⟩

/-- R26, R39: the loss of a link none of whose conditions trips. -/
theorem linkRaised_quiet {s : State} {l : LinkNo} {m : LinkMode}
    (htrips : ∀ (i : Item) (d : Kind) (loc : Nat), lostWith s l i = true → lossOf i = some (d, loc) → s.trips d = false)
    (hdown : m = .down → s.trips Kind.sensorLinkDown = false) :
    ChannelsLost s (s.linkRaised l m) (lostWith s l) ∧ LossAlone s (s.linkRaised l m) := by
  have hread := linkRead_lost s l m
  have hpolicy : (s.linkRead l m).policy = s.policy := (congrArg State.policy hread.frame :).trans
    (congrArg State.policy (unlinked_frame s l m) :)
  have hquiet : ∀ c ∈ linkConditions (s.linkRead l m) l m (freshlyLost s (s.boundTo l)),
      (s.linkRead l m).trips c.1 = false ∧ c.1 ≠ Kind.openTimeout := fun c hc => by
    rw [trips_congr hpolicy]
    rcases (mem_linkConditions s l m c.1 c.2).1 hc with ⟨-, i, hi, hloss⟩ | ⟨hd, -, hm, -⟩
    · exact ⟨htrips i c.1 c.2 hi hloss, (lossOf_kind hloss).2.2.2⟩
    · rw [hd]
      exact ⟨hdown hm, by decide⟩
  have hr := raiseAll_quiet (s := s.linkRead l m) fun c hc => ⟨startsTrip_of_trips (hquiet c hc).1, (hquiet c hc).2⟩
  have hfirst := raiseAll_firstOut hquiet
  refine ⟨channelsLost_of (s := s) (m := s.unlinked l m) (congrArg (fun x : State => { x with
    port := s.port, sent := s.sent, logs := s.logs }) (unlinked_frame s l m) :) (fun d hd => linkRead_rows s l m hd)
    (fun k hk => unlinked_usable m hk) hread hr (linkConditions_losses s l m), ?_⟩
  exact lossAlone_of ((congrArg s.unlose hr.recorded :).trans ((congrArg s.unlose hread.frame :).trans
      (congrArg s.unlose (unlinked_frame s l m) :)))
    (hfirst.trans ((congrArg State.firstOut hread.frame :).trans (congrArg State.firstOut (unlinked_frame s l m) :)))

/-! ### DISABLE and the frame timer -/

theorem LossesRise.of_same {s s' t : State} {lost : Item → Bool} (h : LossesRise s t lost) (hf : s.faults = s'.faults)
    (hm : s.mode = s'.mode) : LossesRise s' t lost := by
  unfold LossesRise at h ⊢
  rw [← hf, ← hm]
  exact h

theorem frameTimerExpiry_due {l : LinkNo} {s : State} {t0 : Micros} (ht : s.links[l].timer = some t0)
    (hage : s.line.linkTimeout ≤ s.age t0) : s.due s.links[l].timer s.line.linkTimeout = true := by
  rw [ht]
  exact decide_eq_true hage

theorem frameTimerExpires_lost {l : LinkNo} {s : State} (hdue : s.due s.links[l].timer s.line.linkTimeout = true)
    (hm : s.links[l].mode = .training ∨ s.links[l].mode = .up) : frameTimerExpires l s = linkLost l .down .timeout s := by
  rcases hm with hm | hm <;> simp only [frameTimerExpires, hdue, if_true, hm]

theorem frameTimerExpires_down {l : LinkNo} {s : State} (hdue : s.due s.links[l].timer s.line.linkTimeout = true)
    (hm : s.links[l].mode = .down) : frameTimerExpires l s = s.setLink l { s.links[l] with timer := none } := by
  simp only [frameTimerExpires, hdue, if_true, hm]

theorem boundTo_some {s : State} {l : LinkNo} {e : EntryNo} (h : s.channels[e].config.map (·.link) = some l) : s.boundTo l ≠ [] :=
  List.ne_nil_of_mem ((mem_boundTo s l e).2 h)

/-- R27: DISABLE of a link. -/
theorem disable_exec {n x : Byte} {l : LinkNo} {s : State} (hfree : PortFree s) (hx : x.toNat = l.val)
    (hm : s.links[l].mode ≠ .disabled) :
    exec (.disable n x) s = .next ((notifyLink l s.links[l].mode .disabled (s.received.linkRaised l .disabled)).replying
      0x56 n .ok [x, 0]) := by
  have hlinks := (linkRaised_spec s.received l .disabled).1
  have h := linkControl_exec (c := .disable n x) rfl (handle_disable x) hfree hx
    ((if_neg (show ¬ s.received.links[l].mode = .disabled from hm)).trans (linkLost_raised l .disabled .disabled s.received))
  have hlink : (notifyLink l s.received.links[l].mode .disabled (s.received.linkRaised l .disabled)).links[l].mode = .disabled := by
    show (s.received.linkRaised l .disabled).links[l].mode = _
    rw [hlinks]
    exact congrArg Link.mode (setLink_same s.received l _)
  rw [hlink] at h
  exact h

/-- Settles O35: the loss of a link by DISABLE and by its frame timer. -/
theorem linkLossMarksChannels : Obligations.LinkLossMarksChannels := by
  refine ⟨fun n x l s hfree hx hm => ?_, fun l t0 s ht hage hm => ?_, fun l t0 s ht hage hm => ?_, fun l s h => ?_⟩
  · obtain ⟨hlinks, hchannels, hrise, hdown⟩ := linkRaised_spec s.received l .disabled
    have hquiet := linkRaised_quiet (s := s.received) (l := l) (m := .disabled)
    have hexec := disable_exec (n := n) hfree hx hm
    generalize s.received.linkRaised l .disabled = t at hlinks hchannels hrise hdown hquiet hexec
    have hlink : t.links[l] = s.links[l].lostTo .disabled := by rw [hlinks]; exact setLink_same s.received l _
    refine ⟨_, hexec, hlinks, hchannels, fun hd hin => ?_, hrise, fun htrips => ?_, t.port, ?_⟩
    · rcases hdown.1 hin with ⟨-, hn⟩ | ⟨hn, -⟩
      · exact hn hd
      · exact absurd hn (by decide)
    · obtain ⟨hlost, halone⟩ := hquiet htrips fun h => absurd h (by decide)
      exact ⟨⟨hlost.mode, hlost.losses, hlost.latched, hlost.speeds, hlost.breaks, hlost.breakEnds, hlost.forceEnds, hlost.stands⟩,
        halone⟩
    · rw [notifyLink_at hlink]
      rfl
  · have hexec : exec (.frameTimerExpiry l) s =
        .next (notifyLink l s.links[l].mode .timeout (s.stepStart.linkRaised l .down)) := by
      refine congrArg Host.Outcome.next ((frameTimerExpires_lost (s := s.stepStart) (frameTimerExpiry_due ht hage) hm).trans ?_)
      exact linkLost_raised l .down .timeout s.stepStart
    obtain ⟨hlinks, hchannels, hrise, hdown⟩ := linkRaised_spec s.stepStart l .down
    have hquiet := linkRaised_quiet (s := s.stepStart) (l := l) (m := .down)
    generalize s.stepStart.linkRaised l .down = t at hlinks hchannels hrise hdown hquiet hexec
    have hlink : t.links[l] = s.links[l].lostTo .down := by rw [hlinks]; exact setLink_same s.stepStart l _
    refine ⟨_, hexec, hlinks, hchannels, fun ⟨e, he⟩ => hdown.2 (.inr ⟨rfl, boundTo_some (s := s.stepStart) he⟩), hrise,
      fun htrips htd => ?_, t.port, ?_⟩
    · obtain ⟨hlost, halone⟩ := hquiet htrips fun _ => htd
      exact ⟨⟨hlost.mode, hlost.losses, hlost.latched, hlost.speeds, hlost.breaks, hlost.breakEnds, hlost.forceEnds, hlost.stands⟩,
        halone⟩
    · rw [notifyLink_at hlink]
      rfl
  · exact congrArg Host.Outcome.next (frameTimerExpires_down (s := s.stepStart) (frameTimerExpiry_due ht hage) hm)
  · refine congrArg Host.Outcome.next (if_neg ?_)
    show ¬ s.due s.links[l].timer s.line.linkTimeout = true
    cases ht : s.links[l].timer with
    | none => exact Bool.false_ne_true
    | some t0 => exact fun hd => absurd (of_decide_eq_true hd) (not_le.2 (h t0 ht))

end Sys2Proof.Machine

/-! SUPPORT. CONFIGURE_CHANNEL (R32, R33): the end of an entry's former use, and its new binding. -/

namespace Sys2Proof.Machine

/-! ### The end of the former use (R33) -/

/-- The items that the rebinding of an entry takes from their readers. -/
def lostBinding (old : Option ChannelConfig) (i : Item) : Bool := decide (old.map (·.item) = some i)

/-- R33: in going from u to t, which differs from v in SENSOR_LINK_DOWN alone, the former use of an entry has ended. -/
structure BindingLeft (old : Option ChannelConfig) (u v t : State) : Prop where
  readers : ReadersLost u v (lostBinding old)
  frame : { t with faults := v.faults } = v
  rows : ∀ d : Kind, d ≠ Kind.sensorLinkDown → t.faults[d] = v.faults[d]
  kept : t.faults[Kind.sensorLinkDown] = { v.faults[Kind.sensorLinkDown] with active := t.faults[Kind.sensorLinkDown].active }
  linkEnds : ∀ c, old = some c → u.boundTo c.link = [] → c.link.val ∉ t.faults[Kind.sensorLinkDown].active
  linkStays : ∀ l : LinkNo, u.boundTo l ≠ [] →
    (l.val ∈ t.faults[Kind.sensorLinkDown].active ↔ l.val ∈ v.faults[Kind.sensorLinkDown].active)

theorem leaveBinding_left (old : Option ChannelConfig) (u : State) : ∃ v, BindingLeft old u v (leaveBinding old u) := by
  cases old with
  | none =>
    exact ⟨u, (ReadersLost.refl u).congr fun i => rfl, rfl, fun _ _ => rfl, rfl, fun c hc => absurd hc (by simp), fun _ _ => Iff.rfl⟩
  | some c =>
    have hread : ReadersLost u (readersLose c.item u) (lostBinding (some c)) := (readersLose_spec c.item u).congr fun i => by
      rw [lostBinding, Option.map_some, Bool.eq_iff_iff, decide_eq_true_iff, beq_iff_eq, Option.some.injEq]
      exact eq_comm
    have hleave : leaveBinding (some c) u = if (readersLose c.item u).boundTo c.link = [] then
      (readersLose c.item u).inactive Kind.sensorLinkDown c.link.val else readersLose c.item u := rfl
    have hbound : (readersLose c.item u).boundTo c.link = u.boundTo c.link := (congrArg (fun s : State => s.boundTo c.link) hread.frame :)
    rw [hleave, hbound]
    generalize readersLose c.item u = v at hread
    by_cases hb : u.boundTo c.link = []
    · rw [if_pos hb]
      refine ⟨v, hread, rfl, fun d hd => ?_, ?_, fun d hd _ => ?_, fun l hl => ?_⟩
      · rw [inactive_at, if_neg hd]
      · rw [inactive_at]
      · rw [← Option.some.inj hd]; exact inactive_gone v _ _
      · have hne : l.val ≠ c.link.val := fun h => hl (by rw [Fin.ext h]; exact hb)
        rw [mem_inactive]
        simp [hne]
    · rw [if_neg hb]
      exact ⟨v, hread, rfl, fun _ _ => rfl, rfl, fun d hd h => absurd (by rw [Option.some.inj hd]; exact h) hb, fun _ _ => Iff.rfl⟩

theorem boundTo_empty {s : State} {l : LinkNo} (h : ∀ (x : EntryNo) (d : ChannelConfig), s.channels[x].config = some d → d.link ≠ l) :
    s.boundTo l = [] := (boundTo_nil_iff s l).2 h

/-- R33: what the readers and the other blocks see of a rebinding, from a state that differs from the request's in its channels. -/
theorem BindingLeft.rebinds {s u v t : State} {old : Option ChannelConfig} (h : BindingLeft old u v t)
    (hu : { u with channels := s.channels } = s.received) : Rebinds s t old := by
  have hufaults : u.faults = s.faults := (congrArg State.faults hu :)
  have hustands : u.stands = s.stands := (congrArg State.stands hu :)
  have hrow : ∀ d : Kind, d ≠ Kind.sensorLinkDown → t.faults[d] = { s.faults[d] with active := t.faults[d].active } := fun d hd => by
    rw [h.rows d hd, h.readers.faults.kept d, hufaults]
  exact {
    kept := (congrArg (fun x : State => { x with
      channels := s.channels, faults := s.faults, firstOut := s.firstOut, logs := s.logs, port := s.received.port
      stands := s.stands, heldFrom := s.heldFrom, speeds := s.speeds, breakTimers := s.breakTimers }) h.frame :).trans
      ((congrArg (fun x : State => { x with
      channels := s.channels, faults := s.faults, firstOut := s.firstOut, logs := s.logs, port := s.received.port
      stands := s.stands, heldFrom := s.heldFrom, speeds := s.speeds, breakTimers := s.breakTimers }) h.readers.frame :).trans
      (congrArg (fun x : State => { x with
      faults := s.faults, firstOut := s.firstOut, logs := s.logs, port := s.received.port
      stands := s.stands, heldFrom := s.heldFrom, speeds := s.speeds, breakTimers := s.breakTimers }) hu :))
    speeds := fun k => by
      rw [(congrArg State.speeds h.frame :), h.readers.speeds, (congrArg State.speeds hu :)]
      simp only [lostBinding, decide_eq_true_eq]
      rfl
    breaks := fun j => by
      rw [(congrArg State.breakTimers h.frame :), h.readers.breaks, (congrArg State.breakTimers hu :)]
      simp only [lostBinding, decide_eq_true_eq]
      rfl
    stands := fun hoff k => by
      have hoffU : u.stands[k].mode = .off := by rw [hustands]; exact hoff k
      rw [(congrArg State.stands h.frame :), h.readers.stands k, modeAfterLoss_eq, hoffU, hustands]
      have hmode := hoff k
      generalize s.stands[k] = st at hmode
      obtain ⟨params, mode, holds, lastSent, trim, bite, sum, count, unload, counters⟩ := st
      simp only at hmode
      subst hmode
      have hidle : (StandMode.off == .position || StandMode.off == .gauge || StandMode.off == .hold) = false := rfl
      by_cases hf : old.map (·.item) = some (.force k)
      · simp [lostBinding, hf, StandMode.afterLoss, hidle]
      · simp only [lostBinding, hf, StandMode.afterLoss, hidle, Bool.and_false, Bool.or_false, decide_false, Bool.false_eq_true, if_false]
    heldFrom := fun hoff => by
      refine (congrArg State.heldFrom h.frame :).trans (Vector.ext fun i hi => ?_)
      have hk := h.readers.heldFrom ⟨i, hi⟩ (by rw [hustands]; exact hoff ⟨i, hi⟩)
      exact hk.trans (congrArg (fun x : State => x.heldFrom[i]) hu :)
    forceEnds := fun k hk => by
      have hl : lostBinding old (.force k) = true := decide_eq_true hk
      rw [h.rows _ (by decide), h.rows _ (by decide), h.readers.forceEnds k _ (by simp), h.readers.forceEnds k _ (by simp), hl]
      simp
    linkEnds := fun c hc hx => h.linkEnds c hc (boundTo_empty fun x d hd => hx x d (by
      rw [(congrArg State.channels h.frame :), (congrArg State.channels h.readers.frame :)]
      exact hd))
    latches := hrow
    others := fun d hd => by
      simp only [List.mem_cons, List.not_mem_nil, or_false, not_or] at hd
      obtain ⟨h12, hfl, hfn, hsu, hsb⟩ := hd
      rw [h.rows d h12, h.readers.faults.others d (by simp [hfl, hfn, hsu, hsb]), hufaults] }

/-! ### The new binding (R32, R33) -/

theorem entryNoOf_dif {p : ChannelPayload} {e : EntryNo} (h : p.entry.toNat = e.val) :
    ∃ hlt : p.entry.toNat < 32, (⟨p.entry.toNat, hlt⟩ : EntryNo) = e := ⟨h ▸ e.isLt, Fin.ext h⟩

theorem doConfigureChannel_unbind {p : ChannelPayload} {e : EntryNo} {s : State} (hm : s.mode = .config) (he : p.entry.toNat = e.val)
    (hb : p.binding = none) : doConfigureChannel p s = (okWith [], unbindEntry e s) := by
  obtain ⟨hlt, rfl⟩ := entryNoOf_dif he
  simp only [doConfigureChannel, hm, ne_eq, not_true_eq_false, if_false, dif_pos hlt, hb]

theorem doConfigureChannel_above {p : ChannelPayload} {s : State} (hm : s.mode = .config) (he : 31 < p.entry.toNat) :
    doConfigureChannel p s = (refuse .badValue, s) := by
  have hlt : ¬ p.entry.toNat < 32 := by omega
  simp only [doConfigureChannel, hm, ne_eq, not_true_eq_false, if_false, dif_neg hlt]

theorem doConfigureChannel_bind {p : ChannelPayload} {e : EntryNo} {b : Byte × Byte} {c : ChannelConfig} {s : State}
    (hm : s.mode = .config) (he : p.entry.toNat = e.val) (hb : p.binding = some b) (hc : channelConfigOf p b.1 b.2 = some c) :
    doConfigureChannel p s = if slotTaken s e c.link c.slot then (refuse .badValue, s) else (okWith [], bindEntry e c s) := by
  obtain ⟨hlt, rfl⟩ := entryNoOf_dif he
  simp only [doConfigureChannel, hm, ne_eq, not_true_eq_false, if_false, dif_pos hlt, hb, hc]

theorem doConfigureChannel_badFields {p : ChannelPayload} {e : EntryNo} {b : Byte × Byte} {s : State} (hm : s.mode = .config)
    (he : p.entry.toNat = e.val) (hb : p.binding = some b) (hc : channelConfigOf p b.1 b.2 = none) :
    doConfigureChannel p s = (refuse .badValue, s) := by
  obtain ⟨hlt, rfl⟩ := entryNoOf_dif he
  simp only [doConfigureChannel, hm, ne_eq, not_true_eq_false, if_false, dif_pos hlt, hb, hc]

/-- R32: the fields that give a configuration, and the configuration they give. -/
theorem channelConfigOf_some {p : ChannelPayload} {lb sb : Byte} {l : LinkNo} {slot : Fin 4} {i : Item} (hl : lb.toNat = l.val)
    (hs : sb.toNat = slot.val) (hi : itemOf p.role.toNat (p.place.map (·.toNat)) = some i) (h1 : p.start.toNat ≤ 31)
    (h2 : p.length.toNat ≤ 32) (h3 : 100 ≤ p.stale.toNat) (h4 : p.stale.toNat ≤ 100000) :
    channelConfigOf p lb sb = some ⟨l, slot, i, p.start.toNat, p.length.toNat, p.signed, p.gain.toInt, p.offset.toInt,
      p.stale.toNat⟩ := by
  have hllt : lb.toNat < 8 := hl ▸ l.isLt
  have hslt : sb.toNat < 4 := hs ▸ slot.isLt
  have hlf : (⟨lb.toNat, hllt⟩ : LinkNo) = l := Fin.ext hl
  have hsf : (⟨sb.toNat, hslt⟩ : Fin 4) = slot := Fin.ext hs
  simp only [channelConfigOf, dif_pos hllt, dif_pos hslt, hi, hlf, hsf]
  exact if_pos ⟨h1, h2, h3, h4⟩

/-- R32: a configuration that a payload gives names the payload's link and slot. -/
theorem channelConfigOf_fields {p : ChannelPayload} {lb sb : Byte} {c : ChannelConfig} (h : channelConfigOf p lb sb = some c) :
    c.link.val = lb.toNat ∧ c.slot.val = sb.toNat ∧ itemOf p.role.toNat (p.place.map (·.toNat)) ≠ none ∧
      p.start.toNat ≤ 31 ∧ p.length.toNat ≤ 32 ∧ 100 ≤ p.stale.toNat ∧ p.stale.toNat ≤ 100000 := by
  unfold channelConfigOf at h
  split at h
  next =>
    split at h
    next =>
      split at h
      next i hi =>
        split at h
        next hr =>
          obtain rfl := Option.some.inj h
          exact ⟨rfl, rfl, by rw [hi]; exact Option.some_ne_none _, hr⟩
        next => exact absurd h (by simp)
      next => exact absurd h (by simp)
    next => exact absurd h (by simp)
  next => exact absurd h (by simp)

theorem slotTaken_iff (s : State) (e : EntryNo) (l : LinkNo) (slot : Fin 4) : slotTaken s e l slot = true ↔
    ∃ (x : EntryNo) (c : ChannelConfig), x ≠ e ∧ s.channels[x].config = some c ∧ c.link = l ∧ c.slot = slot := by
  simp only [slotTaken, List.any_eq_true, List.mem_finRange, true_and, Bool.and_eq_true, bne_iff_ne, ne_eq]
  refine exists_congr fun x => ?_
  cases s.channels[x].config with
  | none => simp
  | some c => simp

/-- R33: the entry is bound, its former use ended. -/
theorem bindEntry_eq (e : EntryNo) (c : ChannelConfig) (s : State) : bindEntry e c s =
    (fun t => if t.links[c.link].mode = .down then raise Kind.sensorLinkDown c.link.val t else t)
      (leaveBinding s.channels[e].config (s.setChannel e (.bound c))) := rfl

/-- R30, R33: SENSOR_LINK_DOWN taken for a link that an entry is bound to leaves a rebinding what it is. -/
theorem Rebinds.raised {s t t' : State} {old : Option ChannelConfig} {l : LinkNo} (h : Rebinds s t old)
    (ht : Raised [(Kind.sensorLinkDown, l.val)] t t')
    (hl : ∀ c, old = some c → (∀ (x : EntryNo) (d : ChannelConfig), t.channels[x].config = some d → d.link ≠ c.link) → c.link ≠ l) :
    Rebinds s t' old := by
  have hrow : ∀ d : Kind, d ≠ Kind.sensorLinkDown → t'.faults[d] = t.faults[d] := fun d hd =>
    ht.others d fun c hc => by rw [List.mem_singleton.1 hc]; exact Ne.symm hd
  have hchannels : t'.channels = t.channels := (congrArg State.channels ht.recorded :)
  have hstands : t'.stands = t.stands := (congrArg State.stands ht.recorded :)
  exact {
    kept := (congrArg (fun x : State => { x with
      channels := s.channels, faults := s.faults, firstOut := s.firstOut, logs := s.logs, port := s.received.port
      stands := s.stands, heldFrom := s.heldFrom, speeds := s.speeds, breakTimers := s.breakTimers }) ht.recorded :).trans h.kept
    speeds := fun k => by rw [(congrArg State.speeds ht.recorded :)]; exact h.speeds k
    breaks := fun j => by rw [(congrArg State.breakTimers ht.recorded :)]; exact h.breaks j
    stands := fun hoff k => by rw [hstands]; exact h.stands hoff k
    heldFrom := fun hoff => (congrArg State.heldFrom ht.recorded :).trans (h.heldFrom hoff)
    forceEnds := fun k hk => by rw [hrow _ (by decide), hrow _ (by decide)]; exact h.forceEnds k hk
    linkEnds := fun c hc hx hin => by
      rw [hchannels] at hx
      rcases (ht.active _ _).1 hin with hin | hin
      · exact h.linkEnds c hc hx hin
      · exact hl c hc hx (Fin.ext (Prod.mk.inj (List.mem_singleton.1 hin)).2)
    latches := fun d hd => by rw [hrow d hd]; exact h.latches d hd
    others := fun d hd => by
      rw [hrow d fun h12 => hd (by simp [h12])]
      exact h.others d hd }

theorem channelsSet_frame (s : State) (e : EntryNo) (ch : Channel) :
    { s.received.setChannel e ch with channels := s.channels } = s.received := rfl

/-- What an unbinding leaves. -/
theorem unbindEntry_spec (e : EntryNo) (s : State) : Rebinds s (unbindEntry e s.received) s.channels[e].config ∧
    (unbindEntry e s.received).channels = s.channels.set e .unbound ∧ (unbindEntry e s.received).logs = s.logs ∧
    (unbindEntry e s.received).port = s.received.port ∧ (unbindEntry e s.received).firstOut = s.firstOut ∧
    (unbindEntry e s.received).faults[Kind.sensorLinkDown] = { s.faults[Kind.sensorLinkDown] with
      active := (unbindEntry e s.received).faults[Kind.sensorLinkDown].active } := by
  obtain ⟨v, hv⟩ := leaveBinding_left s.channels[e].config (s.received.setChannel e .unbound)
  have heq : unbindEntry e s.received = leaveBinding s.channels[e].config (s.received.setChannel e .unbound) := rfl
  rw [heq]
  generalize leaveBinding s.channels[e].config (s.received.setChannel e .unbound) = t at hv
  refine ⟨hv.rebinds (channelsSet_frame s e _), (congrArg State.channels hv.frame :).trans (congrArg State.channels hv.readers.frame :),
    (congrArg State.logs hv.frame :).trans (congrArg State.logs hv.readers.frame :),
    (congrArg State.port hv.frame :).trans (congrArg State.port hv.readers.frame :),
    (congrArg State.firstOut hv.frame :).trans (congrArg State.firstOut hv.readers.frame :), ?_⟩
  rw [hv.kept, hv.readers.faults.others _ (by decide)]
  rfl

/-- What a binding leaves, before SENSOR_LINK_DOWN is taken for its link. -/
theorem bindEntry_left (e : EntryNo) (c : ChannelConfig) (s : State) : ∃ u : State,
    (bindEntry e c s.received = if s.links[c.link].mode = .down then raise Kind.sensorLinkDown c.link.val u else u) ∧
    Rebinds s u s.channels[e].config ∧ u.channels = s.channels.set e (.bound c) ∧ u.mode = s.mode ∧ u.trip = s.trip ∧
    u.logs = s.logs ∧ u.port = s.received.port ∧ u.firstOut = s.firstOut ∧
    (u.faults[Kind.sensorLinkDown] = { s.faults[Kind.sensorLinkDown] with active := u.faults[Kind.sensorLinkDown].active }) ∧
    (c.link.val ∈ u.faults[Kind.sensorLinkDown].active ↔ c.link.val ∈ s.faults[Kind.sensorLinkDown].active) ∧
    ∀ d, s.channels[e].config = some d →
      (∀ (x : EntryNo) (d' : ChannelConfig), u.channels[x].config = some d' → d'.link ≠ d.link) → d.link ≠ c.link := by
  obtain ⟨v, hv⟩ := leaveBinding_left s.channels[e].config (s.received.setChannel e (.bound c))
  have heq := bindEntry_eq e c s.received
  have hcfg : s.received.channels[e].config = s.channels[e].config := rfl
  rw [hcfg] at heq
  generalize leaveBinding s.channels[e].config (s.received.setChannel e (.bound c)) = u at hv heq
  have hlinks : u.links = s.links := (congrArg State.links hv.frame :).trans (congrArg State.links hv.readers.frame :)
  have hchannels : u.channels = s.channels.set e (.bound c) :=
    (congrArg State.channels hv.frame :).trans (congrArg State.channels hv.readers.frame :)
  have hat : u.channels[e].config = some c := by
    rw [hchannels]
    exact congrArg Channel.config ((channels_set_at s e e _).trans (if_pos rfl))
  have hbound : (s.received.setChannel e (.bound c)).boundTo c.link ≠ [] := by
    refine boundTo_some (e := e) ?_
    rw [(channels_set_at s.received e e _).trans (if_pos rfl)]
    rfl
  dsimp only at heq
  rw [hlinks] at heq
  refine ⟨u, heq, hv.rebinds (channelsSet_frame s e _), hchannels,
    (congrArg State.mode hv.frame :).trans (congrArg State.mode hv.readers.frame :),
    (congrArg State.trip hv.frame :).trans (congrArg State.trip hv.readers.frame :),
    (congrArg State.logs hv.frame :).trans (congrArg State.logs hv.readers.frame :),
    (congrArg State.port hv.frame :).trans (congrArg State.port hv.readers.frame :),
    (congrArg State.firstOut hv.frame :).trans (congrArg State.firstOut hv.readers.frame :), ?_, ?_,
    fun d _ hx h => hx e c hat h.symm⟩
  · rw [hv.kept, hv.readers.faults.others _ (by decide)]
    rfl
  · rw [hv.linkStays c.link hbound, hv.readers.faults.others _ (by decide)]
    rfl

theorem configureChannel_exec {n : Byte} {p : ChannelPayload} {s t : State} {a : Answer} (hfree : PortFree s)
    (h : doConfigureChannel p s.received = (a, t)) :
    exec (.configureChannel n p) s = .next (t.replying 0x41 n a.code a.fields) :=
  exec_request (r := .configureChannel p) rfl hfree h

/-- What the take of SENSOR_LINK_DOWN at a binding records. -/
theorem raise_quiet_log {k : Kind} {loc : Nat} {s : State} (hfresh : loc ∉ s.faults[k].active) (hk : k ≠ Kind.openTimeout)
    (hs : startsTrip s k = false) : (raise k loc s).logs[LogNo.fault].next = s.logs[LogNo.fault].next + 1 ∧
      (s.trip = .normal → (raise k loc s).firstOut = s.firstOut) := by
  have hs' : startsTrip (s.markActive k loc) k = false := (startsTrip_congr (s := s) (t := s.markActive k loc) rfl rfl rfl k).trans hs
  rw [raise_fresh hfresh, take_quiet loc hk hs']
  refine ⟨congrArg Log.next (logs_set_same (s.markActive k loc) LogNo.fault _), fun hn => ?_⟩
  have hsub : isSubsequent (s.markActive k loc) k = false := by
    show (s.trips k && s.trip != .normal) = false
    rw [hn]
    simp
  show (if isSubsequent (s.markActive k loc) k then _ else s.firstOut) = _
  rw [hsub]
  rfl

/-- Settles O16: CONFIGURE_CHANNEL in CONFIG. -/
theorem channelConfigured : Obligations.ChannelConfigured := by
  refine fun n p s hfree hm => ⟨fun e he hb => ?_, fun he hb => ?_, fun e l slot i b he hb hl hs hi h1 h2 h3 h4 hfresh => ?_,
    fun b hb hbad => ?_⟩
  · obtain ⟨hreb, hch, hlogs, hport, hfirst, hrow⟩ := unbindEntry_spec e s
    exact ⟨_, configureChannel_exec hfree (doConfigureChannel_unbind (s := s.received) hm he hb), hch, hreb, hlogs, hport, hfirst, hrow⟩
  · exact configureChannel_exec hfree (doConfigureChannel_above (s := s.received) hm he)
  · have hconf := channelConfigOf_some hl hs hi h1 h2 h3 h4
    have hfree' : slotTaken s.received e l slot = false := by
      refine eq_false_of_ne_true fun h => ?_
      obtain ⟨x, d, hne, hd, hlink, hslot⟩ := (slotTaken_iff _ _ _ _).1 h
      exact hfresh x hne d hd ⟨hlink, hslot⟩
    have hexec := configureChannel_exec (n := n) hfree
      ((doConfigureChannel_bind (s := s.received) hm he hb hconf).trans (if_neg (by rw [hfree']; exact Bool.false_ne_true)))
    obtain ⟨u, hu, hreb, hch, hmode, htrip, hlogs, hport, hfirst, hrow, hstays, hends⟩ := bindEntry_left e
      ⟨l, slot, i, p.start.toNat, p.length.toNat, p.signed, p.gain.toInt, p.offset.toInt, p.stale.toNat⟩ s
    rw [hu] at hexec
    dsimp only at hexec hstays hends
    have hs : startsTrip u Kind.sensorLinkDown = false := startsTrip_config (hmode.trans hm) _
    by_cases hd : s.links[l].mode = .down
    · rw [if_pos hd] at hexec
      by_cases hact : l.val ∈ s.faults[Kind.sensorLinkDown].active
      · rw [raise_active (hstays.2 hact)] at hexec
        exact ⟨u, hexec, hch, hreb, fun g _ => by rw [hlogs], fun _ => ⟨hlogs, hport, hfirst, hrow⟩,
          fun _ => ⟨hstays.2 hact, fun hn => absurd hact hn⟩⟩
      · have hfr : l.val ∉ u.faults[Kind.sensorLinkDown].active := fun h => hact (hstays.1 h)
        have hraised := raise_quiet (k := Kind.sensorLinkDown) l.val (by decide) hs
        obtain ⟨-, hon, hlat, hcount⟩ := raise_quiet_row hfr (by decide) hs
        obtain ⟨hnext, hout⟩ := raise_quiet_log hfr (by decide) hs
        refine ⟨_, hexec, (congrArg State.channels hraised.recorded :).trans hch, hreb.raised hraised hends,
          fun g hg => by rw [hraised.logs g hg, hlogs], fun h => absurd (h.resolve_left (not_not.2 hd)) hact,
          fun _ => ⟨hon, fun _ => ⟨hlat, ?_, ?_, fun hn => ?_⟩⟩⟩
        · rw [hcount, hrow]
        · rw [hnext, hlogs]
        · rw [hout (htrip.trans hn), hfirst]
    · rw [if_neg hd] at hexec
      exact ⟨u, hexec, hch, hreb, fun g _ => by rw [hlogs], fun _ => ⟨hlogs, hport, hfirst, hrow⟩, fun h => absurd h hd⟩
  · by_cases he : 31 < p.entry.toNat
    · exact configureChannel_exec hfree (doConfigureChannel_above (s := s.received) hm he)
    · have hlt : p.entry.toNat < 32 := by omega
      cases hconf : channelConfigOf p b.1 b.2 with
      | none =>
        exact configureChannel_exec hfree
          (doConfigureChannel_badFields (e := ⟨p.entry.toNat, hlt⟩) (s := s.received) hm rfl hb hconf)
      | some c =>
        obtain ⟨hl, hs, hi, h1, h2, h3, h4⟩ := channelConfigOf_fields hconf
        have htaken : slotTaken s.received ⟨p.entry.toNat, hlt⟩ c.link c.slot = true := by
          rcases hbad with h | h | h | h | h | h | h | h | ⟨x, d, hx, hd, hdl, hds⟩
          · exact absurd h he
          · exact absurd c.link.isLt (by omega)
          · exact absurd c.slot.isLt (by omega)
          · exact absurd h hi
          · omega
          · omega
          · omega
          · omega
          · exact (slotTaken_iff _ _ _ _).2 ⟨x, d, fun h => hx (by rw [h]), hd, Fin.ext (hdl.trans hl.symm), Fin.ext (hds.trans hs.symm)⟩
        exact configureChannel_exec hfree
          ((doConfigureChannel_bind (e := ⟨p.entry.toNat, hlt⟩) (s := s.received) hm rfl hb hconf).trans (if_pos htaken))

end Sys2Proof.Machine

/-! SUPPORT. A good frame on a link in UP (R34 to R39): the entry it is for, and the state in which the readers take an accepted
sample. -/

namespace Sys2Proof.Machine

/-! ### Frames in UP (R25, R34) -/

/-- R21, R25: the frame counted on its link, which stays in UP. -/
def State.counted (s : State) (l : LinkNo) (f : SensorFields) : State :=
  s.stepStart.setLink l (countGood f.seq { s.links[l] with timer := some s.time, crcRun := 0 })

theorem frame_routed {l : LinkNo} {f : SensorFields} {o : ReaderOrder} {s : State} (hm : s.links[l].mode = .up)
    (hrx : s.links[l].rx = []) :
    exec (.sensorFrame l (sensorFrameBytes f) o) s = .next (routeFrame l f o (s.counted l f)) := by
  have hne : s.links[l].mode ≠ .disabled := by rw [hm]; decide
  rw [sensorFrame_good hne hrx, takeGoodFrame_up (s := s.stepStart) hm]
  rfl

theorem routeFrame_none {l : LinkNo} {f : SensorFields} {o : ReaderOrder} {s : State} (h : s.entryAt l f.slot = none) :
    routeFrame l f o s = s := by simp only [routeFrame, h]

theorem routeFrame_head {l : LinkNo} {f : SensorFields} {o : ReaderOrder} {s : State} {e : EntryNo} {c : ChannelConfig}
    (he : s.entryAt l f.slot = some e) (hc : s.channels[e].config = some c) (hf : f.headFault = true) :
    routeFrame l f o s = loseChannel e .headFault s := by simp only [routeFrame, he, hc, hf, if_true]

theorem routeFrame_value {l : LinkNo} {f : SensorFields} {o : ReaderOrder} {s : State} {e : EntryNo} {c : ChannelConfig}
    (he : s.entryAt l f.slot = some e) (hc : s.channels[e].config = some c) (hf : f.headFault = false)
    (hi : c.item ≠ .entryLength) : routeFrame l f o s = takeValue e c f o (takeStrip e c.item f.strip s) := by
  simp only [routeFrame, he, hc, hf, Bool.false_eq_true, if_false, if_neg hi]

theorem routeFrame_length {l : LinkNo} {f : SensorFields} {o : ReaderOrder} {s : State} {e : EntryNo} {c : ChannelConfig}
    (he : s.entryAt l f.slot = some e) (hc : s.channels[e].config = some c) (hf : f.headFault = false)
    (hi : c.item = .entryLength) : routeFrame l f o s = takeLength e c f.raw o s := by
  simp only [routeFrame, he, hc, hf, Bool.false_eq_true, if_false, if_pos hi]
  rw [hi]
  rfl

theorem takeStrip_plain {e : EntryNo} {i : Item} {strip : Bool} {s : State} (h : gaugePoint i = none) :
    takeStrip e i strip s = s := by simp only [takeStrip, h]

theorem takeStrip_gauge {e : EntryNo} {i : Item} {strip : Bool} {s : State} {p : PointNo} (h : gaugePoint i = some p) :
    takeStrip e i strip s = (fun u : State => if strip = true ∧ p ≠ PointNo.x0 then startingEvent p u.time u else u)
      (s.setChannel e { s.channels[e] with strip := some strip }) := by simp only [takeStrip, h]

/-! ### Accepted values (R36, R38, R39) -/

theorem takeValue_in {e : EntryNo} {c : ChannelConfig} {f : SensorFields} {o : ReaderOrder} {s : State} {v : Int}
    (hv : v = roundDiv (fieldValue f.raw c.start c.length c.signed * c.gain) 65536 + c.offset)
    (hr : (roleRange c.item).1 ≤ v ∧ v ≤ (roleRange c.item).2) :
    takeValue e c f o s = deliver c.item v f.strip o (acceptSample e c v s) := by
  subst hv
  exact if_pos (decide_eq_true hr)

theorem takeValue_out {e : EntryNo} {c : ChannelConfig} {f : SensorFields} {o : ReaderOrder} {s : State} {v : Int}
    (hv : v = roundDiv (fieldValue f.raw c.start c.length c.signed * c.gain) 65536 + c.offset)
    (hr : v < (roleRange c.item).1 ∨ (roleRange c.item).2 < v) : takeValue e c f o s = rejectSample e s := by
  subst hv
  refine if_neg fun h => ?_
  obtain ⟨h1, h2⟩ := of_decide_eq_true h
  rcases hr with hr | hr
  · exact absurd h1 (not_le.2 hr)
  · exact absurd h2 (not_le.2 hr)

/-- A channel with an accepted sample of value v. -/
def Channel.accepted (ch : Channel) (v : Int) (t : Micros) : Channel :=
  { ch with state := .valid, held := some (v, t), consecutive := 0 }

/-- R39: an accepted sample of an entry that was VALID or STALE changes its channel alone. -/
theorem acceptSample_usable {e : EntryNo} {c : ChannelConfig} {v : Int} {s : State}
    (h : s.channels[e].state = .valid ∨ s.channels[e].state = .stale) :
    acceptSample e c v s = s.setChannel e (s.channels[e].accepted v s.time) := by
  have hi : s.channels[e].state.isInvalid = false := (usable_not_lost h).2
  have hn : ¬ (s.channels[e].state.isInvalid = true ∨ s.channels[e].state = .noData) := by
    rintro (hx | hx)
    · rw [hi] at hx
      exact absurd hx (by decide)
    · rcases h with h | h <;> exact absurd (h.symm.trans hx) (by decide)
  refine (if_neg hn).trans ?_
  simp only [hi, Bool.false_eq_true, if_false]
  rfl

/-! ### An accepted sample of the one entry of its role -/

theorem mem_entriesOf {s : State} {i : Item} {e : EntryNo} :
    e ∈ s.entriesOf i ↔ ∃ c, s.channels[e].config = some c ∧ c.item = i := by
  unfold State.entriesOf
  rw [List.mem_filter]
  cases h : s.channels[e].config with
  | none => simp
  | some c => simp

theorem entryOf_single {s : State} {i : Item} {e : EntryNo} (h : s.entriesOf i = [e]) : s.entryOf i = some e := by
  have hhead : (s.entriesOf i).head? = s.entryOf i := by
    unfold State.entriesOf State.entryOf
    rw [List.head?_filter]
  rw [← hhead, h]
  rfl

theorem Brings.config {s : State} {l : LinkNo} {f : SensorFields} {e : EntryNo} {i : Item} {v : Int} (h : Brings s l f e i v) :
    ∃ c, s.channels[e].config = some c ∧ c.item = i := mem_entriesOf.1 (h.bound ▸ List.mem_singleton_self e)

/-- R34 to R39: an accepted sample of a role without a strip-present flag. -/
theorem brings_exec {s : State} {l : LinkNo} {f : SensorFields} {e : EntryNo} {i : Item} {v : Int} (o : ReaderOrder)
    (h : Brings s l f e i v) (hi : i ≠ .entryLength) (hg : gaugePoint i = none) :
    exec (.sensorFrame l (sensorFrameBytes f) o) s = .next (deliver i v f.strip o (s.sampled l f e v)) := by
  obtain ⟨c, hc, rfl⟩ := h.config
  rw [frame_routed h.up h.receiver, routeFrame_value (s := s.counted l f) h.routed hc h.headClear hi, takeStrip_plain hg,
    takeValue_in (h.scaled c hc) h.fits, acceptSample_usable (s := s.counted l f) h.usable]
  rfl

/-! ### The channels as the readers of an accepted sample find them -/

theorem sampled_config (s : State) (l : LinkNo) (f : SensorFields) (e x : EntryNo) (v : Int) :
    (s.sampled l f e v).channels[x].config = s.channels[x].config := by
  have h : (s.sampled l f e v).channels[x] = if x = e then s.channels[e].accepted v s.time else s.channels[x] :=
    channels_set_at (s.counted l f) e x _
  rw [h]
  split
  next hx => rw [hx]; rfl
  next => rfl

/-- The entry of an item that is not the sample's own has the channel it had. -/
theorem Brings.elsewhere {s : State} {l : LinkNo} {f : SensorFields} {e x : EntryNo} {i j : Item} {v : Int}
    (h : Brings s l f e i v) (hj : j ≠ i) (hx : s.entryOf j = some x) : (s.sampled l f e v).channels[x] = s.channels[x] := by
  refine (channels_set_at (s.counted l f) e x _).trans (if_neg fun he => hj ?_)
  obtain ⟨c, hc, hci⟩ := h.config
  have hd := List.find?_some hx
  rw [he, hc] at hd
  rw [← hci]
  exact (beq_iff_eq.1 hd).symm

theorem Brings.channelState {s : State} {l : LinkNo} {f : SensorFields} {e : EntryNo} {i : Item} {v : Int}
    (h : Brings s l f e i v) (j : Item) :
    (s.sampled l f e v).channelState j = if j = i then .valid else s.channelState j := by
  have hentry : (s.sampled l f e v).entryOf j = s.entryOf j := entryOf_congr (sampled_config s l f e · v) j
  unfold State.channelState
  rw [hentry]
  by_cases hj : j = i
  · subst hj
    rw [entryOf_single h.bound, if_pos rfl]
    exact congrArg Channel.state ((channels_set_at (s.counted l f) e e _).trans (if_pos rfl))
  · rw [if_neg hj]
    cases hx : s.entryOf j with
    | none => rfl
    | some x => exact congrArg Channel.state (h.elsewhere hj hx)

theorem Brings.usable_at {s : State} {l : LinkNo} {f : SensorFields} {e : EntryNo} {i : Item} {v : Int}
    (h : Brings s l f e i v) (j : Item) : (s.sampled l f e v).usable j = s.usable j := by
  unfold State.usable
  rw [h.channelState]
  split
  next hj =>
    have hst : s.channelState j = s.channels[e].state := by
      unfold State.channelState
      rw [hj, entryOf_single h.bound]
    rw [hst, (isUsable_iff _).2 h.usable]
    rfl
  next => rfl

theorem Brings.substitute_at {s : State} {l : LinkNo} {f : SensorFields} {e : EntryNo} {i : Item} {v : Int}
    (h : Brings s l f e i v) (hi : i ≠ .entryLength) : (s.sampled l f e v).substitute = s.substitute := by
  unfold State.substitute
  rw [h.channelState, if_neg (Ne.symm hi)]

theorem Brings.heldOf_other {s : State} {l : LinkNo} {f : SensorFields} {e : EntryNo} {i j : Item} {v : Int}
    (h : Brings s l f e i v) (hj : j ≠ i) : (s.sampled l f e v).heldOf j = s.heldOf j := by
  have hentry : (s.sampled l f e v).entryOf j = s.entryOf j := entryOf_congr (sampled_config s l f e · v) j
  unfold State.heldOf
  rw [hentry]
  cases hx : s.entryOf j with
  | none => rfl
  | some x => simp only [h.elsewhere hj hx]

end Sys2Proof.Machine

/-! SUPPORT. Advances that stay short of the end of the segment (R51 to R54), and the samples of ENTRY_LENGTH (R37 to R39). -/

namespace Sys2Proof.Machine

/-! ### The points that a speed sample drives (R52) -/

theorem driverOf_iff : ∀ (b : Bool) (k : Stand) (p : PointNo), (driverOf p == k && (p != PointNo.x0 || b)) =
    (p == bitePoint k || (k == 0 && p == PointNo.x1) || (k == 5 && p == PointNo.x6) || (k == 0 && p == PointNo.x0 && b)) := by
  decide

theorem drives_eq (s : State) (k : Stand) (p : PointNo) : drives s k p = drivenBy s k p := driverOf_iff s.substitute k p

theorem driverOf_drives {s : State} {k : Stand} {p : PointNo} (h : drives s k p = true) : driverOf p = k :=
  beq_iff_eq.1 (Bool.and_eq_true _ _ ▸ h).1

/-! ### One advance on the speed in force -/

/-- A point that has advanced by d at time t. -/
def Point.driven (x : Point) (d : Nat) (t : Micros) : Point := { x with travelled := x.travelled + d, advanced := some t }

theorem advanceOf_congr {s t : State} {k : Stand} {p : PointNo} (hv : t.speeds[k] = s.speeds[k]) (hp : t.points[p] = s.points[p])
    (ht : t.time = s.time) (he : t.scheduleOf s.points[p].cursor = s.scheduleOf s.points[p].cursor) :
    t.advanceOf k p = s.advanceOf k p := by
  unfold State.advanceOf
  rw [hp, hv, ht, he]

theorem advanceBy_zero {p : PointNo} {s : State} (h : s.points[p].travelled < s.full) : advanceBy p 0 s = s := by
  rw [advanceBy_short (by rwa [Nat.add_zero])]
  exact setPoint_self s p

/-- R52 step 1: the advance that a started point makes, absent speeds and times making none. -/
theorem speedAdvance_eq {p : PointNo} {s : State} (h : s.points[p].travelled < s.full) :
    speedAdvance p s.time s = (fun u : State => u.setPoint p { u.points[p] with advanced := some s.time })
      (advanceBy p (s.advanceOf (driverOf p) p) s) := by
  have hz := advanceBy_zero h
  unfold speedAdvance State.advanceOf
  dsimp only
  cases hv : s.speeds[driverOf p] with
  | none => simp only [hz]
  | some v =>
    cases ha : s.points[p].advanced with
    | none => simp only [hz]
    | some t0 =>
      cases he : s.scheduleOf s.points[p].cursor with
      | none => simp only [hz]
      | some e => simp only [advanceLength]

theorem speedAdvance_short {p : PointNo} {s : State} (h : s.points[p].travelled + s.advanceOf (driverOf p) p < s.full) :
    speedAdvance p s.time s = s.setPoint p (s.points[p].driven (s.advanceOf (driverOf p) p) s.time) := by
  rw [speedAdvance_eq (Nat.lt_of_le_of_lt (Nat.le_add_right _ _) h), advanceBy_short h]
  dsimp only
  rw [setPoint_same, setPoint_twice]
  rfl

/-! ### All the advances of a speed sample -/

/-- R52: one point's turn at a speed sample. -/
def advanceTurn (t : Micros) (s : State) (p : PointNo) : State :=
  if s.points[p].started ∧ ¬ s.frozen then speedAdvance p t s else s

theorem speedSample_eq (k : Stand) (v : Int) (s : State) : speedSample k v s.time s =
    (((List.finRange 9).filter (drives s k)).foldl (advanceTurn s.time) s).setSpeed k (some v) := rfl

theorem advanceTurn_frozen (t : Micros) {s : State} (p : PointNo) (h : s.frozen = true) : advanceTurn t s p = s :=
  if_neg fun hs => hs.2 h

theorem advanceTurns_frozen (t : Micros) : ∀ (ps : List PointNo) {s : State}, s.frozen = true → ps.foldl (advanceTurn t) s = s
  | [], _, _ => rfl
  | p :: ps, s, h => by
    rw [List.foldl_cons, advanceTurn_frozen t p h]
    exact advanceTurns_frozen t ps h

/-- A started point of a list advanced by what the speed in force of stand k gives it; the others as they were. -/
def State.drivenPoint (s : State) (k : Stand) (ps : List PointNo) (p : PointNo) : Point :=
  if p ∈ ps ∧ s.points[p].started = true then s.points[p].driven (s.advanceOf k p) s.time else s.points[p]

theorem advanceTurn_short {k : Stand} {p : PointNo} {s : State} (hk : driverOf p = k) (hf : s.frozen = false)
    (h : s.points[p].started = true → s.points[p].travelled + s.advanceOf k p < s.full) :
    advanceTurn s.time s p = s.setPoint p (s.drivenPoint k [p] p) := by
  subst hk
  unfold advanceTurn State.drivenPoint
  cases hst : s.points[p].started with
  | true =>
    rw [if_pos ⟨rfl, by simp [hf]⟩, if_pos ⟨List.mem_singleton_self p, rfl⟩]
    exact speedAdvance_short (h hst)
  | false =>
    rw [if_neg fun hx => absurd hx.1 (by decide), if_neg fun hx => absurd hx.2 (by decide)]
    exact (setPoint_self s p).symm

/-- R52: points that all stay short of the end of their segments. -/
theorem advanceTurns_short {k : Stand} : ∀ (ps : List PointNo) (s : State), ps.Nodup → (∀ p ∈ ps, driverOf p = k) →
    s.frozen = false →
    (∀ p ∈ ps, s.points[p].started = true → s.points[p].travelled + s.advanceOf k p < s.full) →
    ps.foldl (advanceTurn s.time) s = { s with points := Vector.ofFn (s.drivenPoint k ps) }
  | [], s, _, _, _, _ => by
    have hself : Vector.ofFn (s.drivenPoint k []) = s.points := by
      refine Vector.ext fun i hi => ?_
      simp [State.drivenPoint]
    rw [hself]
    rfl
  | p :: ps, s, hnodup, hk, hf, hshort => by
    obtain ⟨hp, hps⟩ := List.nodup_cons.1 hnodup
    have hne : ∀ q ∈ ps, q ≠ p := fun q hq h => hp (h ▸ hq)
    have hadv : ∀ (x : Point) (q : PointNo), q ≠ p → (s.setPoint p x).advanceOf k q = s.advanceOf k q := fun x q hq =>
      advanceOf_congr (s := s) rfl (setPoint_other s x hq) rfl rfl
    rw [List.foldl_cons, advanceTurn_short (hk p List.mem_cons_self) hf (hshort p List.mem_cons_self)]
    have ih := advanceTurns_short ps (s.setPoint p (s.drivenPoint k [p] p)) hps (fun q hq => hk q (List.mem_cons_of_mem _ hq)) hf
      fun q hq hst => by
        rw [setPoint_other s _ (hne q hq)] at hst ⊢
        rw [hadv _ q (hne q hq)]
        exact hshort q (List.mem_cons_of_mem _ hq) hst
    refine ih.trans (congrArg (fun w => { s with points := w }) (Vector.ext fun i hi => ?_))
    rw [Vector.getElem_ofFn, Vector.getElem_ofFn]
    unfold State.drivenPoint
    by_cases hq : (⟨i, hi⟩ : PointNo) = p
    · rw [hq, if_neg fun hx => hp hx.1, setPoint_same]
      simp
    · rw [setPoint_other s _ hq, hadv _ _ hq]
      simp [hq]

/-! ### Length samples (R37, R53, R54) -/

theorem lengthSample_unstarted {inc : Int} {t : Micros} {s : State} (h : s.points[PointNo.x0].started = false) :
    lengthSample inc t s = s := if_neg fun hs => absurd (h.symm.trans hs.1) (by decide)

theorem closingAdvance_unstarted {t : Micros} {s : State} (h : s.points[PointNo.x0].started = false) :
    closingAdvance t s = s := if_neg fun hs => absurd (h.symm.trans hs.1) (by decide)

theorem lengthSample_short {inc : Int} {s : State} (hst : s.points[PointNo.x0].started = true) (hf : s.frozen = false)
    (h : s.points[PointNo.x0].travelled + inc.toNat * 1024 < s.full) :
    lengthSample inc s.time s = s.setPoint PointNo.x0 (s.points[PointNo.x0].driven (inc.toNat * 1024) s.time) := by
  refine (if_pos ⟨hst, by simp [hf]⟩).trans ?_
  rw [advanceBy_short h]
  dsimp only
  rw [setPoint_same, setPoint_twice]
  rfl

theorem closingAdvance_short {s : State} (hst : s.points[PointNo.x0].started = true) (hf : s.frozen = false)
    (h : s.points[PointNo.x0].travelled + s.advanceOf 0 PointNo.x0 < s.full) :
    closingAdvance s.time s = s.setPoint PointNo.x0 (s.points[PointNo.x0].driven (s.advanceOf 0 PointNo.x0) s.time) := by
  refine (if_pos ⟨hst, by simp [hf]⟩).trans ?_
  exact speedAdvance_short (p := PointNo.x0) h

theorem acceptSample_length {e : EntryNo} {c : ChannelConfig} {v : Int} {s : State} (h : c.item = .entryLength) :
    acceptSample e c v s = (fun u : State => if s.channels[e].state.isInvalid = true ∨ s.channels[e].state = .noData then
      closingAdvance s.time u else u) (s.setChannel e (s.channels[e].accepted v s.time)) := by
  unfold acceptSample
  dsimp only
  rw [h]
  cases s.channels[e].state.isInvalid <;> rfl

theorem takeLength_first {e : EntryNo} {c : ChannelConfig} {raw : BitVec 32} {o : ReaderOrder} {s : State}
    (h : s.channels[e].lengthRef = none) : takeLength e c raw o s =
      acceptSample e c 0 (s.setChannel e { s.channels[e] with lengthRef := some (fieldBits raw c.start c.length) }) := by
  simp only [takeLength, h]

theorem takeLength_next {e : EntryNo} {c : ChannelConfig} {raw : BitVec 32} {o : ReaderOrder} {s : State} {r : Nat} {inc : Int}
    (h : s.channels[e].lengthRef = some r) (hinc : inc = lengthIncrement c (fieldBits raw c.start c.length) r) :
    takeLength e c raw o s = if inRange .entryLength inc then
      (fun u : State => lengthSample inc u.time u)
        (acceptSample e c inc (s.setChannel e { s.channels[e] with lengthRef := some (fieldBits raw c.start c.length) }))
      else rejectSample e s := by
  subst hinc
  simp only [takeLength, h]
  rfl

/-- R38: a rejected value that is not the third in a row. -/
theorem rejectSample_early {e : EntryNo} {s : State} (h : s.channels[e].consecutive < 2) : rejectSample e s =
    s.setChannel e { s.channels[e] with
      rejects := min (s.channels[e].rejects + 1) 65535, consecutive := s.channels[e].consecutive + 1 } := by
  have hmin : min (s.channels[e].consecutive + 1) 3 = s.channels[e].consecutive + 1 := by omega
  unfold rejectSample
  dsimp only
  rw [hmin, if_neg fun hx => absurd hx.1 (by omega)]
  rfl

theorem setChannel_same (s : State) (e : EntryNo) (x : Channel) : (s.setChannel e x).channels[e] = x := by simp

/-- R37: the reference set and the sample accepted. -/
theorem accepted_length {e : EntryNo} {c : ChannelConfig} {v : Int} {s : State} {field : Nat} (h : c.item = .entryLength) :
    acceptSample e c v (s.setChannel e { s.channels[e] with lengthRef := some field }) =
      (fun u : State => if s.channels[e].state.isInvalid = true ∨ s.channels[e].state = .noData then closingAdvance s.time u else u)
        (s.setChannel e { s.channels[e] with
          state := .valid, held := some (v, s.time), consecutive := 0, lengthRef := some field }) := by
  rw [acceptSample_length h, setChannel_same, setChannel_twice]
  rfl

/-- Settles O40: a frame of ENTRY_LENGTH while X0 is not started. -/
theorem entryLengthSamples : Obligations.EntryLengthSamples := by
  intro l f o s e c field u hm hrx hhead hx0 he hc hi hfield hu
  have hexec := frame_routed (f := f) (o := o) hm hrx
  rw [routeFrame_length (s := s.counted l f) he hc hhead hi] at hexec
  have hfield' : fieldBits f.raw c.start c.length = field := hfield.symm
  have hacc : ∀ v : Int, acceptSample e c v ((s.counted l f).setChannel e
      { s.channels[e] with lengthRef := some (fieldBits f.raw c.start c.length) }) = u.setChannel e { s.channels[e] with
        state := .valid, held := some (v, s.time), consecutive := 0, lengthRef := some field } := fun v => by
    refine (accepted_length (s := s.counted l f) (e := e) hi).trans ?_
    rw [hfield', hu]
    dsimp only
    split
    · exact closingAdvance_unstarted hx0
    · rfl
  refine ⟨fun href => ?_, fun r inc href hinc => ⟨fun h0 h1 => ?_, fun hout hcons => ?_⟩⟩
  · rw [hexec, takeLength_first (s := s.counted l f) href]
    exact congrArg Host.Outcome.next (hacc 0)
  · have hinc' : inc = lengthIncrement c (fieldBits f.raw c.start c.length) r := by rw [hfield', hinc]; rfl
    have hin : inRange .entryLength inc = true := decide_eq_true ⟨h0, h1⟩
    rw [hexec, takeLength_next (s := s.counted l f) href hinc', if_pos hin]
    refine congrArg Host.Outcome.next ((congrArg (fun w : State => lengthSample inc w.time w) (hacc inc)).trans ?_)
    exact lengthSample_unstarted (by rw [hu]; exact hx0)
  · have hinc' : inc = lengthIncrement c (fieldBits f.raw c.start c.length) r := by rw [hfield', hinc]; rfl
    have hin : ¬ inRange .entryLength inc = true := fun h => by
      obtain ⟨h0, h1⟩ := of_decide_eq_true h
      have h0' : 0 ≤ inc := h0
      have h1' : inc ≤ 1000000 := h1
      omega
    rw [hexec, takeLength_next (s := s.counted l f) href hinc', if_neg hin, rejectSample_early (s := s.counted l f) hcons, hu]
    rfl

/-! ### Speed samples -/

theorem stopRunningBreaks_eq (s : State) : stopRunningBreaks s = { s with breakTimers := s.breakTimers.map breakStopped } := by
  obtain ⟨hframe, hat⟩ := stopRunningBreaks_spec s
  have hv : (stopRunningBreaks s).breakTimers = s.breakTimers.map breakStopped := Vector.ext fun i hi => by
    rw [Vector.getElem_map]
    exact hat ⟨i, hi⟩
  rw [← hv]
  conv_lhs => rw [show stopRunningBreaks s = { { stopRunningBreaks s with breakTimers := s.breakTimers } with
    breakTimers := (stopRunningBreaks s).breakTimers } from rfl, hframe]

theorem mem_driven {s : State} {k : Stand} {p : PointNo} : p ∈ (List.finRange 9).filter (drives s k) ↔ drivenBy s k p = true := by
  rw [List.mem_filter, drives_eq]
  exact and_iff_right (List.mem_finRange p)

theorem driven_nodup (s : State) (k : Stand) : ((List.finRange 9).filter (drives s k)).Nodup := (List.nodup_finRange 9).filter _

/-- R143: what an accepted speed sample does once the points have advanced. -/
def speedTaken (k : Stand) (v : Int) (s : State) : State :=
  { s with
    speeds := s.speeds.set k (some v)
    breakTimers := if k = 5 ∧ v < (s.line.breakMinSpeed : Int) then s.breakTimers.map breakStopped else s.breakTimers }

theorem deliver_speed (k : Stand) (v : Int) (b : Bool) (o : ReaderOrder) (s : State) : deliver (.rollSpeed k) v b o s =
    speedTaken k v (((List.finRange 9).filter (drives s k)).foldl (advanceTurn s.time) s) := by
  show (if k = 5 then judgeExitSpeed v (speedSample k v s.time s) else speedSample k v s.time s) = _
  rw [speedSample_eq]
  generalize ((List.finRange 9).filter (drives s k)).foldl (advanceTurn s.time) s = t
  unfold speedTaken
  by_cases hk : k = 5
  · rw [if_pos hk]
    by_cases hv : v < (t.line.breakMinSpeed : Int)
    · rw [if_pos ⟨hk, hv⟩]
      refine (if_pos hv).trans ?_
      rw [stopRunningBreaks_eq]
      rfl
    · rw [if_neg fun h => hv h.2]
      exact if_neg hv
  · rw [if_neg hk, if_neg fun h => hk h.1]
    rfl

theorem drivenBy_congr {s t : State} (k : Stand) (p : PointNo) (h : t.channelState .entryLength = s.channelState .entryLength) :
    drivenBy t k p = drivenBy s k p := by
  unfold drivenBy
  rw [h]

/-- Settles O43: speed and length samples whose points stay short of the end of their segments. -/
theorem speedAdvances : Obligations.SpeedAdvances := by
  refine ⟨fun l f o e k v s u hb hu => ⟨fun htrip => ?_, fun htrip hshort => ?_⟩,
    fun l f o s e c field u hm hrx hhead hx0 htrip he hc hi hfield hu => ?_⟩
  · rw [brings_exec o hb (by simp) rfl, deliver_speed,
      advanceTurns_frozen _ _ ((frozen_iff (s.sampled l f e v)).2 htrip), hu]
    rfl
  · have hdriven : ∀ p, drivenBy (s.sampled l f e v) k p = drivenBy s k p := fun p =>
      drivenBy_congr k p ((hb.channelState _).trans (if_neg (by simp)))
    have hfold := advanceTurns_short (k := k) ((List.finRange 9).filter (drives (s.sampled l f e v) k)) (s.sampled l f e v)
      (driven_nodup _ k) (fun p hp => driverOf_drives (List.mem_filter.1 hp).2)
      (by rw [Bool.eq_false_iff]; exact fun h => (frozen_iff _).1 h htrip)
      (fun p hp hst => hshort p (by rw [← hdriven, ← mem_driven]; exact hp) hst)
    rw [brings_exec o hb (by simp) rfl, deliver_speed, hfold, hu]
    refine congrArg Host.Outcome.next (congrArg (fun w => { speedTaken k v (s.sampled l f e v) with points := w }) ?_)
    refine Vector.ext fun i hi => ?_
    rw [Vector.getElem_ofFn, Vector.getElem_ofFn]
    exact if_congr (and_congr (by rw [mem_driven, hdriven]) Iff.rfl) rfl rfl
  · have hfield' : fieldBits f.raw c.start c.length = field := hfield.symm
    have hexec := frame_routed (f := f) (o := o) hm hrx
    rw [routeFrame_length (s := s.counted l f) he hc hhead hi] at hexec
    have hf : s.frozen = false := by rw [Bool.eq_false_iff]; exact fun h => (frozen_iff _).1 h htrip
    refine ⟨fun r inc href hst hinc h0 h1 hshort => ?_, fun href hst hshort => ?_⟩
    · have hinc' : inc = lengthIncrement c (fieldBits f.raw c.start c.length) r := by rw [hfield', hinc]; rfl
      have hin : inRange .entryLength inc = true := decide_eq_true ⟨h0, h1⟩
      have hn : ¬ (s.channels[e].state.isInvalid = true ∨ s.channels[e].state = .noData) := by
        rintro (hx | hx)
        · exact absurd ((usable_not_lost hst).2.symm.trans hx) (by decide)
        · rcases hst with h | h <;> exact absurd (h.symm.trans hx) (by decide)
      rw [hexec, takeLength_next (s := s.counted l f) href hinc', if_pos hin, accepted_length (s := s.counted l f) hi, hfield', hu]
      refine congrArg Host.Outcome.next ((congrArg (fun w : State => lengthSample inc w.time w) (if_neg hn)).trans ?_)
      exact lengthSample_short (s := (s.counted l f).setChannel e _) hx0 hf hshort
    · rw [hexec, takeLength_first (s := s.counted l f) href, accepted_length (s := s.counted l f) hi, hfield', hu]
      refine congrArg Host.Outcome.next ((if_pos hst).trans ?_)
      exact closingAdvance_short (s := (s.counted l f).setChannel e _) hx0 hf hshort

end Sys2Proof.Machine

/-! SUPPORT. The starts of points (R49, R50) and the arrivals they make (R60). -/

namespace Sys2Proof.Machine

/-! ### Neighbours -/

theorem upstream_eq {p u : PointNo} (h : u.val + 1 = p.val) : upstream p = some u := by
  have hp : ¬ p = 0 := by
    rintro rfl
    exact absurd h (by simp)
  rw [upstream, if_neg hp]
  exact congrArg some (Fin.ext (by simp only; omega))

theorem downstream_eq {p q : PointNo} (h : p.val + 1 = q.val) : downstream p = some q := by
  have hlt : p.val + 1 < 9 := h ▸ q.isLt
  rw [downstream, dif_pos hlt]
  exact congrArg some (Fin.ext h)

theorem biteOf_bitePoint (k : Stand) : biteOf (bitePoint k) = some k := by
  revert k
  decide

/-! ### Arrivals (R60) -/

/-- R88, R89: an arrival writes transitions, logs and notices alone. -/
theorem scheduleArrival_frame (p : PointNo) (n : SegNo) (s : State) :
    { scheduleArrival p n s with transitions := s.transitions, logs := s.logs, port := s.port } = s := by
  unfold scheduleArrival
  split
  next =>
    split
    next =>
      split
      next =>
        unfold switchStand
        split
        next =>
          split <;> rfl
        next => rfl
      next =>
        split
        next =>
          unfold completeTransition
          split <;> rfl
        next => rfl
    next => rfl
  next => rfl

/-! ### Starts (R49) -/

/-- R50: what clearing an early start flag leaves. -/
theorem clearEarly_spec (q : PointNo) (s : State) : { clearEarly q s with points := s.points, faults := s.faults } = s ∧
    (clearEarly q s).points = s.points.set q { s.points[q] with early := false } ∧ Ends [Kind.trackOverrun] s (clearEarly q s) ∧
    (s.points[q].early = true → q.val ∉ (clearEarly q s).faults[Kind.trackOverrun].active) := by
  unfold clearEarly
  cases h : s.points[q].early with
  | true =>
    rw [if_pos rfl]
    exact ⟨rfl, rfl, Ends.inactive_of rfl, fun _ => inactive_gone _ _ _⟩
  | false =>
    rw [if_neg (by decide)]
    refine ⟨rfl, ?_, Ends.refl _ s, fun hx => absurd hx (by decide)⟩
    have hself : ({ s.points[q] with early := false } : Point) = s.points[q] := by rw [← h]
    rw [hself]
    exact (Vector.set_getElem_self _).symm

/-- A point started on segment n at time t. -/
def Point.startedOn (x : Point) (n : SegNo) (t : Micros) : Point :=
  { x with started := true, cursor := n, travelled := 0, advanced := some t, sum := 0, count := 0 }

/-- R49, R50: point p started on segment n, its neighbour's early start over; the arrival is still to come. -/
def startedAt (p : PointNo) (n : SegNo) (t : Micros) (s : State) : State :=
  match downstream p with
  | some q => clearEarly q (s.setPoint p (s.points[p].startedOn n t))
  | none => s.setPoint p (s.points[p].startedOn n t)

/-- What a start writes before the point arrives. -/
structure StartedAt (p : PointNo) (n : SegNo) (t : Micros) (s u : State) : Prop where
  frame : { u with points := s.points, faults := s.faults } = s
  point : u.points[p] = s.points[p].startedOn n t
  others : ∀ q : PointNo, q ≠ p → u.points[q] = if q.val = p.val + 1 then { s.points[q] with early := false } else s.points[q]
  ends : Ends [Kind.trackOverrun] s u
  gone : ∀ q : PointNo, q.val = p.val + 1 → s.points[q].early = true → q.val ∉ u.faults[Kind.trackOverrun].active

theorem points_set_at (v : Vector Point 9) (p q : PointNo) (x : Point) : (v.set p x)[q] = if q = p then x else v[q] := by
  by_cases h : q = p
  · subst h; simp
  · have hval : p.val ≠ q.val := fun he => h (Fin.ext he.symm)
    simp [hval, h]

theorem startedAt_spec (p : PointNo) (n : SegNo) (t : Micros) (s : State) : StartedAt p n t s (startedAt p n t s) := by
  unfold startedAt
  by_cases hp : p.val + 1 < 9
  · obtain ⟨q, hq⟩ : ∃ q : PointNo, p.val + 1 = q.val := ⟨⟨p.val + 1, hp⟩, rfl⟩
    have hne : q ≠ p := fun h => by rw [h] at hq; omega
    have huniq : ∀ x : PointNo, x.val = p.val + 1 ↔ x = q := fun x =>
      ⟨fun h => Fin.ext (h.trans hq), fun h => by rw [h]; exact hq.symm⟩
    rw [downstream_eq hq]
    dsimp only
    obtain ⟨hframe, hpoints, hends, hgone⟩ := clearEarly_spec q (s.setPoint p (s.points[p].startedOn n t))
    rw [setPoint_other s _ hne] at hpoints hgone
    refine ⟨(congrArg (fun x : State => { x with points := s.points, faults := s.faults }) hframe :), ?_, fun x hx => ?_,
      (Ends.of_faults (by rfl) _).trans hends,
      fun x hx => ?_⟩
    · rw [hpoints, points_set_at, if_neg (Ne.symm hne)]
      exact setPoint_same s p _
    · rw [hpoints, points_set_at]
      by_cases hxq : x = q
      · rw [if_pos hxq, if_pos ((huniq x).2 hxq), hxq]
      · rw [if_neg hxq, if_neg fun h => hxq ((huniq x).1 h)]
        exact setPoint_other s _ hx
    · rw [(huniq x).1 hx]
      exact hgone
  · have hnone : downstream p = none := dif_neg hp
    have hno : ∀ q : PointNo, q.val ≠ p.val + 1 := fun q h => hp (h ▸ q.isLt)
    rw [hnone]
    exact ⟨rfl, setPoint_same s p _, fun q hq => by rw [if_neg (hno q)]; exact setPoint_other s _ hq,
      Ends.of_faults (by rfl) _, fun q hq => absurd hq (hno q)⟩

theorem startPoint_gauge {p : PointNo} {t : Micros} {s : State} {g : Segment} {rest : List Segment} (hb : biteOf p = none)
    (hr : s.ring = g :: rest) : startPoint p t s = scheduleArrival p g.number (startedAt p g.number t s) := by
  have ho : s.oldest = some g.number := by rw [State.oldest, hr]; rfl
  simp only [startPoint, ho, hb, arrive]
  unfold startedAt
  cases downstream p <;> rfl

theorem startPoint_bite {p : PointNo} {k : Stand} {t : Micros} {s : State} {g : Segment} {rest : List Segment}
    (hb : biteOf p = some k) (hr : s.ring = g :: rest) : startPoint p t s =
      returnPoint k (scheduleArrival p g.number (biteArrives k g.number (startedAt p g.number t s))) := by
  have ho : s.oldest = some g.number := by rw [State.oldest, hr]; rfl
  simp only [startPoint, ho, hb, arrive]
  unfold startedAt
  cases downstream p <;> rfl

theorem startPoint_empty {p : PointNo} {t : Micros} {s : State} (hr : s.ring = []) : startPoint p t s = s := by
  have ho : s.oldest = none := by rw [State.oldest, hr]; rfl
  simp only [startPoint, ho]

/-! ### Starting events (R49, R50) -/

theorem startingEvent_off {p : PointNo} {t : Micros} {s : State}
    (h : s.tracking = false ∨ s.frozen = true ∨ s.points[p].started = true) : startingEvent p t s = s := by
  refine if_neg fun hx => ?_
  obtain ⟨h1, h2, h3⟩ := hx
  rcases h with h | h | h
  · exact absurd (h.symm.trans h1) (by decide)
  · exact h2 h
  · exact h3 h

theorem startingEvent_on {p u : PointNo} {t : Micros} {s : State} (hu : u.val + 1 = p.val) (ht : s.tracking = true)
    (hf : s.frozen = false) (hp : s.points[p].started = false) :
    startingEvent p t s = if s.points[u].started = true then startPoint p t s else earlyStart p s := by
  refine (if_pos ⟨ht, by simp [hf], Bool.eq_false_iff.1 hp⟩).trans ?_
  rw [upstream_eq hu]

theorem earlyStart_again {p : PointNo} {s : State} (h : s.points[p].early = true) : earlyStart p s = s := if_pos h

theorem earlyStart_first {p : PointNo} {s : State} (h : s.points[p].early = false) : earlyStart p s =
    raise Kind.trackOverrun p.val (s.setPoint p { s.points[p] with early := true }) := if_neg (Bool.eq_false_iff.1 h)

/-- A state with what a start at X1 or X6 writes put back to what it was. -/
def State.unstart (s t : State) : State :=
  { t with
    points := s.points, faults := s.faults, logs := s.logs, port := s.port, transitions := s.transitions
    firstOut := s.firstOut }

/-- R49, R50: a starting event of X1 or X6 that starts no trip. -/
theorem startingEvent_gauge {p : PointNo} (t : Micros) {s : State} (hb : biteOf p = none)
    (hs : startsTrip s Kind.trackOverrun = false) : s.unstart (startingEvent p t s) = s ∧
      ∀ d : Kind, d ≠ Kind.trackOverrun → (startingEvent p t s).faults[d] = s.faults[d] := by
  have hstart : s.unstart (startPoint p t s) = s ∧ ∀ d : Kind, d ≠ Kind.trackOverrun → (startPoint p t s).faults[d] = s.faults[d] := by
    cases hr : s.ring with
    | nil =>
      rw [startPoint_empty hr]
      exact ⟨rfl, fun _ _ => rfl⟩
    | cons g rest =>
      rw [startPoint_gauge hb hr]
      have hu := startedAt_spec p g.number t s
      generalize startedAt p g.number t s = u at hu
      have ha := scheduleArrival_frame p g.number u
      generalize scheduleArrival p g.number u = w at ha
      refine ⟨(congrArg s.unstart ha :).trans (congrArg s.unstart hu.frame :), fun d hd => ?_⟩
      rw [(congrArg State.faults ha :)]
      exact hu.ends.others d (by simpa using hd)
  unfold startingEvent
  split
  next =>
    split
    next =>
      split
      next => exact hstart
      next =>
        cases he : s.points[p].early with
        | true =>
          rw [earlyStart_again he]
          exact ⟨rfl, fun _ _ => rfl⟩
        | false =>
          rw [earlyStart_first he]
          have hr := raise_quiet (k := Kind.trackOverrun) p.val (s := s.setPoint p { s.points[p] with early := true })
            (by decide) hs
          refine ⟨(congrArg s.unstart hr.recorded :), fun d hd => hr.others d fun c hc => ?_⟩
          rw [List.mem_singleton.1 hc]
          exact Ne.symm hd
    next => exact ⟨rfl, fun _ _ => rfl⟩
  next => exact ⟨rfl, fun _ _ => rfl⟩

end Sys2Proof.Machine

/-! SUPPORT. Tension samples and the loss of one channel by age, head fault or rejects (R38, R41, R142, R143). -/

namespace Sys2Proof.Machine

/-! ### The loss seen from an earlier state of the step -/

/-- A loss is one from any state that agrees in what it speaks of. -/
theorem ChannelsLost.congr {s m t : State} {lost : Item → Bool} (h : ChannelsLost m t lost) (hmode : m.mode = s.mode)
    (htrip : m.trip = s.trip) (hrows : ∀ d : Kind, d ≠ Kind.trackOverrun → m.faults[d] = s.faults[d]) (hspeeds : m.speeds = s.speeds)
    (hbreaks : m.breakTimers = s.breakTimers) (hstands : m.stands = s.stands)
    (husable : ∀ k : Stand, m.usable (.gapPos k) = s.usable (.gapPos k)) : ChannelsLost s t lost where
  mode := ⟨h.mode.1.trans hmode, h.mode.2.trans htrip⟩
  losses := fun d h1 h2 loc => by
    have hd : d ≠ Kind.trackOverrun := fun he => by
      rw [he] at h2
      exact absurd h2 (by decide)
    rw [h.losses d h1 h2 loc, hrows d hd, hmode]
  latched := fun i d loc hl hi hc hn => by
    have hd : d ≠ Kind.trackOverrun := fun he => by
      have h2 := (lossOf_range hi).2
      rw [he] at h2
      exact absurd h2 (by decide)
    exact h.latched i d loc hl hi (by rwa [hmode]) (by rwa [hrows d hd])
  speeds := fun k => by rw [h.speeds, hspeeds]
  breaks := fun j => by
    rw [h.breaks j, hbreaks]
  breakEnds := fun j => by rw [h.breakEnds, hrows _ (by decide)]
  forceEnds := fun k d hd => by
    have hne : d ≠ Kind.trackOverrun := by
      rintro rfl
      exact absurd hd (by decide)
    rw [h.forceEnds k d hd, hrows d hne]
  stands := fun k => by
    rw [h.stands k, modeAfterLoss_eq, modeAfterLoss_eq, hstands, husable]

/-- Nothing else has changed, seen from a state that differs in links and channels. -/
theorem LossAlone.congr {s m t : State} (h : LossAlone m t) (hm : { m with links := s.links, channels := s.channels } = s) :
    LossAlone s t :=
  (congrArg (fun x : State => { x with
    links := s.links, channels := s.channels, speeds := s.speeds, breakTimers := s.breakTimers, stands := s.stands
    heldFrom := s.heldFrom, faults := s.faults, logs := s.logs, port := s.port }) h :).trans
  (congrArg (fun x : State => { x with
    speeds := s.speeds, breakTimers := s.breakTimers, stands := s.stands
    heldFrom := s.heldFrom, faults := s.faults, logs := s.logs, port := s.port }) hm :)

/-! ### The third reject in a row (R38) -/

/-- A channel after a third rejected value in a row. -/
def Channel.thirdReject (ch : Channel) : Channel := { ch with rejects := satAdd ch.rejects 1 Config.top16, consecutive := 3 }

theorem rejectSample_third {e : EntryNo} {s : State} (h : 2 ≤ s.channels[e].consecutive)
    (hi : s.channels[e].state.isInvalid = false) :
    rejectSample e s = loseChannel e .range (s.setChannel e s.channels[e].thirdReject) := by
  have hmin : min (s.channels[e].consecutive + 1) 3 = 3 := by omega
  unfold rejectSample
  dsimp only
  rw [hmin]
  exact if_pos ⟨rfl, Bool.eq_false_iff.1 hi⟩

theorem gaugePoint_cases {i : Item} {p : PointNo} (h : gaugePoint i = some p) :
    biteOf p = none ∧ (i = .entryThick ∧ p = PointNo.x0 ∨ i = .stand1Thick ∧ p = PointNo.x1 ∨ i = .exitThick ∧ p = PointNo.x6) := by
  cases i with
  | entryThick => cases h; exact ⟨by decide, .inl ⟨rfl, rfl⟩⟩
  | stand1Thick => cases h; exact ⟨by decide, .inr (.inl ⟨rfl, rfl⟩)⟩
  | exitThick => cases h; exact ⟨by decide, .inr (.inr ⟨rfl, rfl⟩)⟩
  | force _ => exact absurd h (by simp [gaugePoint])
  | gapPos _ => exact absurd h (by simp [gaugePoint])
  | rollSpeed _ => exact absurd h (by simp [gaugePoint])
  | tension _ => exact absurd h (by simp [gaugePoint])
  | entryLength => exact absurd h (by simp [gaugePoint])

/-- What a strip-present flag may write: the flag of the channel, and what a start at X1 or X6 does. -/
structure StripTaken (e : EntryNo) (i : Item) (s t : State) : Prop where
  channel : ∃ b, t.channels = s.channels.set e { s.channels[e] with strip := b }
  frame : { s.unstart t with channels := s.channels } = s
  faults : ∀ d : Kind, d ≠ Kind.trackOverrun → t.faults[d] = s.faults[d]
  plain : i ≠ .stand1Thick → i ≠ .exitThick → { t with channels := s.channels } = s

/-- R42, R49: a strip-present flag is recorded, and for X1 and X6 may start the point. -/
theorem takeStrip_taken (e : EntryNo) (i : Item) (strip : Bool) {s : State} (hs : startsTrip s Kind.trackOverrun = false) :
    StripTaken e i s (takeStrip e i strip s) := by
  cases hg : gaugePoint i with
  | none =>
    rw [takeStrip_plain hg]
    exact ⟨⟨s.channels[e].strip, (Vector.set_getElem_self _).symm⟩, rfl, fun _ _ => rfl, fun _ _ => rfl⟩
  | some p =>
    obtain ⟨hb, hcases⟩ := gaugePoint_cases hg
    rw [takeStrip_gauge hg]
    dsimp only
    split
    next hp =>
      obtain ⟨hframe, hfaults⟩ := startingEvent_gauge (p := p) (s.setChannel e { s.channels[e] with strip := some strip }).time
        (s := s.setChannel e { s.channels[e] with strip := some strip }) hb hs
      generalize startingEvent p _ _ = t at hframe hfaults
      refine ⟨⟨some strip, (congrArg State.channels hframe :)⟩, (congrArg (fun x : State => { s.unstart x with
        channels := s.channels }) hframe :), hfaults, fun h1 h2 => ?_⟩
      rcases hcases with ⟨-, h0⟩ | ⟨hi, -⟩ | ⟨hi, -⟩
      · exact absurd h0 hp.2
      · exact absurd hi h1
      · exact absurd hi h2
    next => exact ⟨⟨some strip, rfl⟩, rfl, fun _ _ => rfl, fun _ _ => rfl⟩

/-- R38: the third reject in a row of an entry that was not INVALID. -/
theorem thirdReject_lost {e : EntryNo} {c : ChannelConfig} {s u t : State} (hc : s.channels[e].config = some c)
    (hu : s.channels[e].state ≠ .unbound) (hi : s.channels[e].state.isInvalid = false) (hcons : 2 ≤ s.channels[e].consecutive)
    (htrips : ∀ (d : Kind) (loc : Nat), lossOf c.item = some (d, loc) → s.trips d = false)
    (ht : StripTaken e c.item s u) (heq : t = rejectSample e u) : ChannelsLost s t (· == c.item) ∧
      (c.item ≠ .stand1Thick → c.item ≠ .exitThick → LossAlone s t) := by
  obtain ⟨b, hch⟩ := ht.channel
  have hat : u.channels[e] = { s.channels[e] with strip := b } := by rw [hch]; simp
  have hcons' : 2 ≤ u.channels[e].consecutive := by rw [hat]; exact hcons
  have hi' : u.channels[e].state.isInvalid = false := by rw [hat]; exact hi
  rw [rejectSample_third hcons' hi'] at heq
  have hm : (u.setChannel e u.channels[e].thirdReject).channels[e] = u.channels[e].thirdReject := setChannel_same u e _
  have hpolicy : u.policy = s.policy := (congrArg State.policy ht.frame :)
  obtain ⟨hlost, halone⟩ := loseChannel_lost (c := .range) (cfg := c) (s := u.setChannel e u.channels[e].thirdReject)
    (by rw [hm, hat]; exact hc) (by rw [hm, hat]; exact hu) (by rw [hm, hat]; exact hi)
    (fun d loc hd => (trips_congr hpolicy d).trans (htrips d loc hd))
  rw [← heq] at hlost halone
  refine ⟨hlost.congr (congrArg State.mode ht.frame :) (congrArg State.trip ht.frame :) ht.faults (congrArg State.speeds ht.frame :)
    (congrArg State.breakTimers ht.frame :) (congrArg State.stands ht.frame :) fun k => ?_, fun h1 h2 => ?_⟩
  · have hrow : ∀ x : EntryNo, (u.setChannel e u.channels[e].thirdReject).channels[x].config = s.channels[x].config ∧
        (u.setChannel e u.channels[e].thirdReject).channels[x].state = s.channels[x].state := fun x => by
      rw [channels_set_at]
      by_cases hx : x = e
      · rw [if_pos hx, hx, hat]
        exact ⟨rfl, rfl⟩
      · rw [if_neg hx, hch, show s.channels.set e { s.channels[e] with strip := b } =
          (s.setChannel e { s.channels[e] with strip := b }).channels from rfl, channels_set_at, if_neg hx]
        exact ⟨rfl, rfl⟩
    exact usable_congr (fun x => (hrow x).1) fun x _ => by rw [(hrow x).2]
  · exact halone.congr (congrArg (fun x : State => { x with links := s.links, channels := s.channels }) (ht.plain h1 h2) :)

/-! ### Tension samples (R142) -/

theorem judgeTension_below {j : Interstand} {v : Int} {s : State} (h : v < (s.line.breakThreshold : Int)) :
    judgeTension j v s = s.setBreak j (breakNext true (s.armed j) s.time s.breakTimers[j]) := by
  unfold judgeTension
  dsimp only
  rw [decide_eq_true h, if_pos rfl]

theorem judgeTension_above {j : Interstand} {v : Int} {s : State} (h : (s.line.breakThreshold : Int) ≤ v) :
    judgeTension j v s = (s.setBreak j .stopped).inactive Kind.stripBreak (j.val + 1) := by
  unfold judgeTension
  dsimp only
  rw [decide_eq_false (not_lt.2 h), if_neg (by decide)]
  cases s.breakTimers[j] <;> rfl

theorem Brings.usable_self {s : State} {l : LinkNo} {f : SensorFields} {e : EntryNo} {i : Item} {v : Int}
    (hb : Brings s l f e i v) : (s.sampled l f e v).usable i = true := by
  unfold State.usable
  rw [hb.channelState, if_pos rfl]
  rfl

/-- Settles O50: tension samples, and the loss of one channel. -/
theorem breakTimersAndLosses : Obligations.BreakTimersAndLosses := by
  refine ⟨fun l f o e j v s armed hb harmed => ⟨fun hv => ?_, fun hv => ?_⟩, fun e c s hc hst htrips => ?_⟩
  · have hexec := brings_exec o hb (by simp) rfl
    have harmed' : (s.sampled l f e v).armed j = armed := by
      unfold State.armed
      rw [hb.usable_self, hb.heldOf_other (by simp), Bool.and_true, harmed]
      cases s.heldOf (.rollSpeed 5) <;> rfl
    rw [hexec]
    refine congrArg Host.Outcome.next ((judgeTension_below (s := s.sampled l f e v) hv).trans ?_)
    rw [harmed']
    show (s.sampled l f e v).setBreak j (breakNext true armed s.time s.breakTimers[j]) = _
    cases s.breakTimers[j] <;> rfl
  · rw [brings_exec o hb (by simp) rfl]
    exact congrArg Host.Outcome.next (judgeTension_above (s := s.sampled l f e v) hv)
  · have hu : s.channels[e].state ≠ .unbound ∧ s.channels[e].state.isInvalid = false := by
      rcases hst with h | h
      · rw [h]
        exact ⟨by decide, rfl⟩
      · exact usable_not_lost h
    refine ⟨fun v t0 hheld hno hage => ?_, fun l f o hm hrx he => ⟨fun hhead => ?_, fun v hhead hlen hv hout hcons hover => ?_⟩⟩
    · have hexec := invalidExpiry_exec (hst.resolve_left hno) ((ageReached_held hc hheld 4).trans (decide_eq_true hage))
      obtain ⟨hlost, halone⟩ := loseChannel_lost (c := .age) (s := s.stepStart) hc hu.1 hu.2 htrips
      exact ⟨_, hexec, hlost.congr rfl rfl (fun _ _ => rfl) rfl rfl rfl fun _ => rfl, halone⟩
    · have hexec := frame_routed (f := f) (o := o) hm hrx
      rw [routeFrame_head (s := s.counted l f) he hc hhead] at hexec
      obtain ⟨hlost, halone⟩ := loseChannel_lost (c := .headFault) (s := s.counted l f) hc hu.1 hu.2 htrips
      exact ⟨_, hexec, hlost.congr rfl rfl (fun _ _ => rfl) rfl rfl rfl fun _ => rfl, halone.congr rfl⟩
    · have hexec := frame_routed (f := f) (o := o) hm hrx
      rw [routeFrame_value (s := s.counted l f) he hc hhead hlen, takeValue_out hv hout] at hexec
      have hstrip := takeStrip_taken e c.item f.strip (s := s.counted l f) (startsTrip_of_trips hover)
      obtain ⟨hlost, halone⟩ := thirdReject_lost (s := s.counted l f) hc hu.1 hu.2 hcons htrips hstrip rfl
      exact ⟨_, hexec, hlost.congr rfl rfl (fun _ _ => rfl) rfl rfl rfl fun _ => rfl, fun h1 h2 => (halone h1 h2).congr rfl⟩

end Sys2Proof.Machine

/-! SUPPORT. Welds (R64 to R66, R82, R83): the pulse that is rejected, the coil that it begins, and the schedule that it takes or
defers. -/

namespace Sys2Proof.Machine

/-! ### Momentary conditions (R135) -/

theorem filter_insertLoc (x : Nat) : ∀ l : List Nat, (insertLoc x l).filter (· ≠ x) = l.filter (· ≠ x)
  | [] => by simp [insertLoc]
  | y :: ys => by
    unfold insertLoc
    split
    · simp
    · split
      next h => subst h; rfl
      next =>
        rw [List.filter_cons, List.filter_cons, filter_insertLoc x ys]

/-- A momentary condition that starts no trip: taken where it was not active, and not active after it. -/
theorem raiseMomentary_quiet {k : Kind} {s : State} (hk : k ≠ Kind.openTimeout) (hs : startsTrip s k = false) :
    Recorded s (raiseMomentary k s) ∧
    (raiseMomentary k s).faults[k].active = s.faults[k].active.filter (· ≠ 0) ∧
    (0 ∉ s.faults[k].active → (raiseMomentary k s).faults[k].latched = true) := by
  unfold raiseMomentary
  by_cases h : 0 ∈ s.faults[k].active
  · rw [raise_active h, inactive_at, if_pos rfl]
    exact ⟨rfl, rfl, fun hn => absurd h hn⟩
  · have hr := raise_quiet 0 hk hs
    have hrow := raise_quiet_at h hk hs k
    rw [if_pos rfl] at hrow
    generalize raise k 0 s = t at hr hrow
    refine ⟨hr.recorded.trans (Recorded.of_faults rfl), ?_, fun _ => ?_⟩
    · rw [inactive_at, if_pos rfl, hrow]
      exact filter_insertLoc 0 _
    · rw [inactive_at, hrow]
      rfl

/-- The end of a condition leaves a trip that has been started. -/
theorem TripsBy.inactive {s t : State} {k d : Kind} {loc x : Nat} (h : TripsBy s t k loc) : TripsBy s (t.inactive d x) k loc :=
  ⟨h.mode, h.trip, h.millStop, h.standTrip, h.firstOut, by rw [inactive_at]; exact h.latched, h.stands, h.actuators, h.marked,
    h.run, h.breaks⟩

theorem raiseMomentary_tripsBy {k : Kind} {s u : State} (hlog : u.logTime = s.logTime) (hmode : u.mode = s.mode)
    (hfresh : 0 ∉ u.faults[k].active) (hs : startsTrip u k = true) : TripsBy s (raiseMomentary k u) k 0 :=
  (raise_tripsBy hlog hmode hfresh hs).inactive

/-! ### The report of a coil (R167, R168) -/

/-- A state with what the closing of a report and the end of a run write put back to what it was. -/
def State.unclose (s t : State) : State :=
  { t with faults := s.faults, logs := s.logs, port := s.port, reports := s.reports, runState := s.runState }

theorem closeReport_frame (c : CoilNo) (st : ReportState) (s : State) :
    { closeReport c st s with logs := s.logs, port := s.port, reports := s.reports } = s ∧
    ∀ x : CoilNo, x ≠ c → (closeReport c st s).report x = s.report x := by
  unfold closeReport
  split
  next =>
    refine ⟨rfl, fun x hx => ?_⟩
    show (s.reports.filter (·.coil ≠ c)).find? (·.coil == x) = s.reports.find? (·.coil == x)
    rw [List.find?_filter]
    refine List.find?_congr fun r _ => ?_
    by_cases h : r.coil = x
    · simp [h, hx]
    · simp [h]
  next => exact ⟨rfl, fun _ _ => rfl⟩

theorem endRunOf_frame (c : CoilNo) (s : State) : s.unclose (endRunOf c s) = s ∧ (endRunOf c s).reports = s.reports ∧
    Ends [Kind.offGaugeRun] s (endRunOf c s) := by
  obtain ⟨hframe, -, hends, -⟩ := endRun_spec s
  unfold endRunOf
  split
  next =>
    split
    next => exact ⟨(congrArg s.unclose hframe :), (congrArg State.reports hframe :), hends⟩
    next => exact ⟨rfl, rfl, Ends.refl _ s⟩
  next => exact ⟨rfl, rfl, Ends.refl _ s⟩

theorem judgeCompletion_frame (c : CoilNo) (s : State) : s.unclose (judgeCompletion c s) = s ∧
    Ends [Kind.offGaugeRun] s (judgeCompletion c s) ∧ ∀ x : CoilNo, x ≠ c → (judgeCompletion c s).report x = s.report x := by
  unfold judgeCompletion
  split
  next =>
    obtain ⟨hrun, hreports, hends⟩ := endRunOf_frame c s
    obtain ⟨hclose, hother⟩ := closeReport_frame c .complete (endRunOf c s)
    refine ⟨(congrArg s.unclose hclose :).trans (congrArg s.unclose hrun :),
      hends.trans (Ends.of_faults (s := endRunOf c s) (t := closeReport c .complete (endRunOf c s))
        (congrArg State.faults hclose :) _), fun x hx => ?_⟩
    rw [hother x hx, State.report, hreports]
    rfl
  next => exact ⟨rfl, Ends.refl _ s, fun _ _ => rfl⟩

theorem judgeCompletion_pending {c : CoilNo} {s : State} (h : ∀ r ∈ s.reports, r.coil = c → r.accounted ≠ r.created) :
    judgeCompletion c s = s := by
  refine if_neg fun hc => ?_
  unfold completes State.report at hc
  split at hc
  next r hr =>
    have hcoil : r.coil = c := by simpa using List.find?_some (p := fun y : CoilReport => y.coil == c) hr
    exact h r (List.mem_of_find?_eq_some hr) hcoil (beq_iff_eq.1 (Bool.and_eq_true _ _ ▸ hc).1)
  next => exact absurd hc (by decide)

/-! ### The coil that a weld begins (R64, R66) -/

/-- The weld segment. -/
def Segment.welded (g : Segment) (coil : CoilNo) : Segment := { g with weld := true, coil := coil }

/-- R64, R66: the coil counter, the weld flag and the reports of an accepted weld, before the completion is judged. -/
def weldMarked (g : Segment) (s : State) : State :=
  let coil := s.coilCounter + 1
  let s := { s with coilCounter := coil }
  let s := s.setSegment g.number fun (x : Segment) => { x with weld := true, coil := coil }
  let s := modifyReport g.coil (fun r => { r with created := r.created - 1 }) s
  { s with reports := s.reports ++ [CoilReport.fresh coil g.tag 1] }

/-- R64: the tag that the weld segment carries in the end goes into its coil's report. -/
def reportTag (n : SegNo) (coil : CoilNo) (s : State) : State :=
  ((s.segment n).map fun x => modifyReport coil (fun r => { r with tag := x.tag }) s).getD s

theorem acceptWeld_eq (g : Segment) (s : State) : acceptWeld g s = reportTag g.number (s.coilCounter + 1)
    (arrivalsMade g.number (askSchedule (g.welded (s.coilCounter + 1)) (s.coilCounter + 1)
      (judgeCompletion g.coil (weldMarked g s)))) := by
  unfold acceptWeld reportTag weldMarked Segment.welded
  dsimp only
  generalize arrivalsMade g.number (askSchedule _ _ _) = u
  cases u.segment g.number <;> rfl

theorem weldDetect_exec {s : State} {pre : List Segment} {g : Segment} (hm : s.mode = .thread ∨ s.mode = .run)
    (ht : s.trip = .normal) (hr : s.ring = pre ++ [g]) : exec .weldDetect s = .next
      (if g.weld = true ∨ 4 ≤ s.reports.length then raiseMomentary Kind.weldRejected s.stepStart else acceptWeld g s.stepStart) := by
  have hopen : s.stepStart.openSegment = some g := by
    show s.ring.getLast? = some g
    rw [hr, List.getLast?_concat]
  have htrack : s.stepStart.tracking = true ∧ ¬ s.stepStart.frozen = true := by
    refine ⟨?_, fun h => (frozen_iff _).1 h ht⟩
    simpa [State.tracking] using hm
  refine congrArg Host.Outcome.next ((if_pos htrack).trans ?_)
  rw [hopen]
  rfl

/-- A ring's last segment is found by its number where no other has it. -/
theorem segment_last {s : State} {pre : List Segment} {g : Segment} (hr : s.ring = pre ++ [g])
    (hpre : ∀ x ∈ pre, x.number ≠ g.number) : s.segment g.number = some g := by
  unfold State.segment
  rw [hr, List.find?_append, List.find?_eq_none.2 fun x hx => by simpa using hpre x hx]
  simp

theorem find_concat {T : List Transition} {tr : Transition} (h : ∀ x ∈ T, x.weld ≠ tr.weld) :
    (T ++ [tr]).find? (·.weld == tr.weld) = some tr := by
  rw [List.find?_append, List.find?_eq_none.2 fun x hx => by simpa using h x hx]
  simp

/-- R60: without a transition at its segment an arrival changes nothing. -/
theorem scheduleArrival_none {p : PointNo} {n : SegNo} {s : State} (h : ∀ x ∈ s.transitions, x.weld ≠ n) :
    scheduleArrival p n s = s := by
  have hfind : s.transitions.find? (·.weld == n) = none := List.find?_eq_none.2 fun x hx => by simpa using h x hx
  unfold scheduleArrival switchStand completeTransition
  rw [hfind]
  split
  next => split <;> [split <;> [rfl; split <;> rfl]; rfl]
  next => rfl

/-- A pass whose steps change nothing. -/
theorem foldl_fixed {α β : Type} {f : β → α → β} {b : β} : ∀ {l : List α}, (∀ a ∈ l, f b a = b) → l.foldl f b = b
  | [], _ => rfl
  | a :: l, h => by
    rw [List.foldl_cons, h a List.mem_cons_self]
    exact foldl_fixed fun x hx => h x (List.mem_cons_of_mem _ hx)

theorem arrivalsMade_none {n : SegNo} {s : State} (h : ∀ x ∈ s.transitions, x.weld ≠ n) : arrivalsMade n s = s := by
  refine foldl_fixed fun p _ => ?_
  split
  · exact scheduleArrival_none h
  · rfl

/-- R60: the arrivals at the weld segment write transitions, logs and notices alone. -/
theorem arrivalsMade_frame (n : SegNo) (s : State) :
    { arrivalsMade n s with transitions := s.transitions, logs := s.logs, port := s.port } = s := by
  unfold arrivalsMade
  generalize List.finRange 9 = l
  induction l generalizing s with
  | nil => rfl
  | cons p l ih =>
    rw [List.foldl_cons]
    refine (congrArg (fun x : State => { x with transitions := s.transitions, logs := s.logs, port := s.port }) (ih _) :).trans ?_
    split
    · exact scheduleArrival_frame p n s
    · rfl

/-! ### The marked state -/

theorem weldMarked_ring {s : State} {pre : List Segment} {g : Segment} (hr : s.ring = pre ++ [g])
    (hpre : ∀ x ∈ pre, x.number ≠ g.number) : (weldMarked g s).ring = pre ++ [g.welded (s.coilCounter + 1)] :=
  setSegment_last hr hpre _

theorem weldMarked_frame (g : Segment) (s : State) :
    { weldMarked g s with ring := s.ring, coilCounter := s.coilCounter, reports := s.reports } = s := rfl

theorem weldMarked_reports (g : Segment) (s : State) : (weldMarked g s).reports =
    s.reports.map (fun r => if r.coil = g.coil then { r with created := r.created - 1 } else r) ++
      [CoilReport.fresh (s.coilCounter + 1) g.tag 1] := rfl

theorem coil_if_created (r : CoilReport) (c : CoilNo) :
    (if r.coil = c then ({ r with created := r.created - 1 } : CoilReport) else r).coil = r.coil := by split <;> rfl

/-- R165: the report of the coil that a weld begins. -/
theorem weldMarked_report {s : State} {g : Segment} (h : ∀ r ∈ s.reports, r.coil ≠ s.coilCounter + 1) :
    (weldMarked g s).report (s.coilCounter + 1) = some (CoilReport.fresh (s.coilCounter + 1) g.tag 1) := by
  rw [State.report, weldMarked_reports, List.find?_append, List.find?_eq_none.2 fun r hr => ?_]
  · simp [CoilReport.fresh]
  · obtain ⟨x, hx, rfl⟩ := List.mem_map.1 hr
    rw [coil_if_created]
    simpa using h x hx

theorem report_modify {c : CoilNo} {f : CoilReport → CoilReport} (s : State) (hf : ∀ r, (f r).coil = r.coil) :
    (modifyReport c f s).report c = (s.report c).map f := by
  show (s.reports.map fun r => if r.coil = c then f r else r).find? (·.coil == c) = (s.reports.find? (·.coil == c)).map f
  rw [List.find?_map]
  have hpred : ((fun r : CoilReport => r.coil == c) ∘ fun r => if r.coil = c then f r else r) = fun r => r.coil == c := by
    funext r
    simp only [Function.comp_apply]
    split <;> simp [hf]
  rw [hpred]
  cases hr : s.reports.find? (·.coil == c) with
  | none => rfl
  | some r =>
    have hcoil : r.coil = c := by simpa using List.find?_some (p := fun y : CoilReport => y.coil == c) hr
    simp [hcoil]

theorem reportTag_eq {n : SegNo} {c : CoilNo} {s : State} {x : Segment} (h : s.segment n = some x) :
    reportTag n c s = modifyReport c (fun r => { r with tag := x.tag }) s := by
  rw [reportTag, h]
  rfl

theorem reportTag_frame (n : SegNo) (c : CoilNo) (s : State) : { reportTag n c s with reports := s.reports } = s := by
  unfold reportTag
  cases s.segment n <;> rfl

theorem askSchedule_empty {g : Segment} {coil : CoilNo} {s : State} (h : s.queue = []) : askSchedule g coil s = s := by
  simp only [askSchedule, h]

/-! ### A weld with no schedule pending -/

/-- R64, R66: an accepted weld with no schedule pending. -/
theorem acceptWeld_plain {s : State} {pre : List Segment} {g : Segment} (hr : s.ring = pre ++ [g])
    (hpre : ∀ x ∈ pre, x.number ≠ g.number) (hq : s.queue = []) (htrans : ∀ x ∈ s.transitions, x.weld ≠ g.number) :
    acceptWeld g s = modifyReport (s.coilCounter + 1) (fun r => { r with tag := g.tag })
      (judgeCompletion g.coil (weldMarked g s)) := by
  obtain ⟨hframe, -, -⟩ := judgeCompletion_frame g.coil (weldMarked g s)
  rw [acceptWeld_eq]
  generalize judgeCompletion g.coil (weldMarked g s) = j at hframe
  have hjq : j.queue = [] := (congrArg State.queue hframe :).trans hq
  have hjt : j.transitions = s.transitions := (congrArg State.transitions hframe :)
  have hjr : j.ring = pre ++ [g.welded (s.coilCounter + 1)] := (congrArg State.ring hframe :).trans (weldMarked_ring hr hpre)
  rw [askSchedule_empty hjq, arrivalsMade_none (by rw [hjt]; exact htrans)]
  exact reportTag_eq (n := g.number) (x := g.welded (s.coilCounter + 1)) (segment_last hjr hpre)

theorem acceptWeld_pending {s : State} {pre : List Segment} {g : Segment} (hr : s.ring = pre ++ [g])
    (hpre : ∀ x ∈ pre, x.number ≠ g.number) (hq : s.queue = []) (htrans : ∀ x ∈ s.transitions, x.weld ≠ g.number)
    (hnew : ∀ r ∈ s.reports, r.coil ≠ s.coilCounter + 1) (hcoil : g.coil ≠ s.coilCounter + 1)
    (hopen : ∀ r ∈ s.reports, r.coil = g.coil → r.accounted + 1 < r.created) : acceptWeld g s = { s with
      coilCounter := s.coilCounter + 1
      ring := pre ++ [g.welded (s.coilCounter + 1)]
      reports := s.reports.map (fun r => if r.coil = g.coil then { r with created := r.created - 1 } else r) ++
        [CoilReport.fresh (s.coilCounter + 1) g.tag 1] } := by
  have hjudge : judgeCompletion g.coil (weldMarked g s) = weldMarked g s := by
    refine judgeCompletion_pending fun r hr hc => ?_
    rw [weldMarked_reports] at hr
    rcases List.mem_append.1 hr with hr | hr
    · obtain ⟨x, hx, rfl⟩ := List.mem_map.1 hr
      rw [coil_if_created] at hc
      rw [if_pos hc]
      have hlt := hopen x hx hc
      show x.accounted ≠ x.created - 1
      omega
    · rw [List.mem_singleton.1 hr] at hc
      exact absurd hc.symm hcoil
  have hreports : (modifyReport (s.coilCounter + 1) (fun r => { r with tag := g.tag }) (weldMarked g s)).reports =
      (weldMarked g s).reports := by
    conv_rhs => rw [← List.map_id (weldMarked g s).reports]
    refine List.map_congr_left fun r hr => ?_
    rw [weldMarked_reports] at hr
    rcases List.mem_append.1 hr with hr | hr
    · obtain ⟨x, hx, rfl⟩ := List.mem_map.1 hr
      rw [if_neg (by rw [coil_if_created]; exact hnew x hx)]
      rfl
    · rw [List.mem_singleton.1 hr]
      exact if_pos rfl
  rw [acceptWeld_plain hr hpre hq htrans, hjudge]
  refine (congrArg (fun w => { modifyReport (s.coilCounter + 1) (fun r => { r with tag := g.tag }) (weldMarked g s) with
    reports := w }) hreports).trans ?_
  exact congrArg (fun w => { weldMarked g s with ring := w }) (weldMarked_ring hr hpre)

/-- Settles O51: the weld pulse ignored, rejected and accepted. -/
theorem weldMarksCoil : Obligations.WeldMarksCoil := by
  refine ⟨fun s hm => ?_, fun s pre g hm ht htrips hr hno => ?_, fun s pre g hm ht hr hw hlen hq hpre hnew hcoil htrans => ?_⟩
  · refine congrArg Host.Outcome.next (if_neg fun h => ?_)
    have htrack : s.tracking = true := h.1
    rcases hm with hm | hm | hm <;> exact absurd htrack (by simp [State.tracking, hm])
  · obtain ⟨hrec, hact, hlatch⟩ := raiseMomentary_quiet (k := Kind.weldRejected) (s := s.stepStart) (by decide)
      (startsTrip_of_trips htrips)
    have hexec := weldDetect_exec hm ht hr
    rw [if_pos hno] at hexec
    exact ⟨_, hexec, (congrArg State.ring hrec :), (congrArg State.coilCounter hrec :), (congrArg State.reports hrec :),
      (congrArg State.queue hrec :), (congrArg State.table hrec :), (congrArg State.transitions hrec :),
      (congrArg State.mode hrec :), hact, hlatch⟩
  · have hexec := weldDetect_exec hm ht hr
    rw [if_neg (by simp [hw, hlen])] at hexec
    obtain ⟨hframe, -, hreport⟩ := judgeCompletion_frame g.coil (weldMarked g s.stepStart)
    refine ⟨_, hexec, ?_, ?_, ?_, fun hopen => acceptWeld_pending (s := s.stepStart) hr hpre hq htrans hnew hcoil hopen⟩
    · rw [acceptWeld_plain (s := s.stepStart) hr hpre hq htrans]
      exact (congrArg State.coilCounter hframe :)
    · rw [acceptWeld_plain (s := s.stepStart) hr hpre hq htrans]
      exact (congrArg State.ring hframe :).trans (weldMarked_ring (s := s.stepStart) hr hpre)
    · rw [acceptWeld_plain (s := s.stepStart) hr hpre hq htrans]
      refine (report_modify (f := fun r => { r with tag := g.tag }) _ fun _ => rfl).trans ?_
      have hrep := hreport (s.coilCounter + 1) (Ne.symm hcoil)
      rw [show (s.stepStart.coilCounter + 1) = s.coilCounter + 1 from rfl, hrep]
      exact congrArg (Option.map _) (weldMarked_report (s := s.stepStart) hnew)

end Sys2Proof.Machine

/-! SUPPORT. The schedule at a weld (R82, R83, R88): taken by the head of the queue, with the bite arrivals already made, or
deferred. -/

namespace Sys2Proof.Machine

/-! ### The bite arrivals at a weld segment (R88) -/

theorem bitePoint_inj {j k : Stand} : bitePoint j = bitePoint k ↔ j = k := by
  revert j k
  decide

theorem bitePoint_ne_x0 : ∀ k : Stand, bitePoint k ≠ PointNo.x0 := by decide

theorem biteOf_some {p : PointNo} {k : Stand} (h : biteOf p = some k) : bitePoint k = p := by
  simpa using List.find?_some (p := fun x : Stand => bitePoint x == p) h

theorem biteOf_none {p : PointNo} (h : biteOf p = none) (k : Stand) : bitePoint k ≠ p := by
  simpa using List.find?_eq_none.1 h k (List.mem_finRange k)

/-- R88: the bite arrival of stand k at the weld segment of the last transition. -/
theorem switchStand_last {s : State} {k : Stand} {T : List Transition} {tr : Transition} (ht : s.transitions = T ++ [tr])
    (hT : ∀ x ∈ T, x.weld ≠ tr.weld) :
    (switchStand k tr.weld s).transitions = T ++ [{ tr with switched := tr.switched.set k true }] := by
  have hfind : s.transitions.find? (·.weld == tr.weld) = some tr := by rw [ht]; exact find_concat hT
  unfold switchStand
  rw [hfind]
  dsimp only
  cases hsw : tr.switched[k] with
  | true =>
    rw [if_pos rfl, ht]
    have hself : tr.switched.set k true = tr.switched := by
      conv_lhs => rw [← hsw]
      exact Vector.set_getElem_self _
    rw [hself]
  | false =>
    rw [if_neg (by decide)]
    show (s.transitions.map _) = _
    rw [ht, List.map_append]
    refine congrArg₂ _ ?_ (by simp)
    conv_rhs => rw [← List.map_id T]
    exact List.map_congr_left fun x hx => if_neg (hT x hx)

/-- R60: the turn of one point in the arrivals that a weld segment makes. -/
def arrivalTurn (n : SegNo) (s : State) (p : PointNo) : State :=
  if p ≠ PointNo.x0 ∧ s.points[p].started ∧ s.points[p].cursor = n then scheduleArrival p n s else s

theorem arrivalsMade_eq (n : SegNo) (s : State) : arrivalsMade n s = (List.finRange 9).foldl (arrivalTurn n) s := rfl

/-- R60: a point stands on segment n. -/
def State.standsOn (s : State) (n : SegNo) (p : PointNo) : Bool := s.points[p].started && s.points[p].cursor == n

theorem arrivalTurn_frame (n : SegNo) (s : State) (p : PointNo) :
    { arrivalTurn n s p with transitions := s.transitions, logs := s.logs, port := s.port } = s := by
  unfold arrivalTurn
  split
  · exact scheduleArrival_frame p n s
  · rfl

theorem scheduleArrival_bite {s : State} {p : PointNo} {n : SegNo} {x : Segment} {k : Stand} (hx : s.segment n = some x)
    (hw : x.weld = true) (hb : biteOf p = some k) : scheduleArrival p n s = switchStand k n s := by
  simp only [scheduleArrival, hx, hw, if_true, hb]

theorem scheduleArrival_gauge {s : State} {p : PointNo} {n : SegNo} (hb : biteOf p = none) (hp : p ≠ PointNo.x6) :
    scheduleArrival p n s = s := by
  unfold scheduleArrival
  rw [hb]
  dsimp only
  rw [if_neg hp]
  split
  next => exact ite_self s
  next => rfl

/-- A transition with the stands of a list of points switched that stand on its weld segment. -/
def State.switchedBy (s : State) (tr : Transition) (l : List PointNo) : Transition :=
  { tr with switched := Vector.ofFn fun k => tr.switched[k] || (decide (bitePoint k ∈ l) && s.standsOn tr.weld (bitePoint k)) }

theorem switchedBy_none {s : State} {tr : Transition} {l : List PointNo}
    (h : ∀ k : Stand, bitePoint k ∈ l → s.standsOn tr.weld (bitePoint k) = false) : s.switchedBy tr l = tr := by
  have hv : (Vector.ofFn fun k => tr.switched[k] || (decide (bitePoint k ∈ l) && s.standsOn tr.weld (bitePoint k))) =
      tr.switched := Vector.ext fun i hi => by
    rw [Vector.getElem_ofFn]
    by_cases hl : bitePoint ⟨i, hi⟩ ∈ l
    · rw [h _ hl, Bool.and_false, Bool.or_false]
      rfl
    · rw [decide_eq_false hl, Bool.false_and, Bool.or_false]
      rfl
  unfold State.switchedBy
  rw [hv]

theorem switchedBy_bite {s : State} {tr : Transition} {k : Stand} (h : s.standsOn tr.weld (bitePoint k) = true) :
    s.switchedBy tr [bitePoint k] = { tr with switched := tr.switched.set k true } := by
  have hv : (Vector.ofFn fun j => tr.switched[j] ||
      (decide (bitePoint j ∈ [bitePoint k]) && s.standsOn tr.weld (bitePoint j))) = tr.switched.set k true := Vector.ext fun i hi => by
    rw [Vector.getElem_ofFn, Vector.getElem_set]
    by_cases hk : k.val = i
    · have he : (⟨i, hi⟩ : Stand) = k := Fin.ext hk.symm
      rw [if_pos hk, he, h, decide_eq_true (List.mem_singleton_self _), Bool.and_true, Bool.or_true]
    · have hne : ¬ bitePoint ⟨i, hi⟩ ∈ [bitePoint k] := fun hm =>
        hk (congrArg Fin.val (bitePoint_inj.1 (List.mem_singleton.1 hm))).symm
      rw [if_neg hk, decide_eq_false hne, Bool.false_and, Bool.or_false]
      rfl
  unfold State.switchedBy
  rw [hv]

theorem arrivalTurn_switches {s : State} {p : PointNo} {T : List Transition} {tr : Transition} {x : Segment}
    (hx : s.segment tr.weld = some x) (hw : x.weld = true) (ht : s.transitions = T ++ [tr]) (hT : ∀ y ∈ T, y.weld ≠ tr.weld)
    (hx6 : s.standsOn tr.weld PointNo.x6 = false) :
    (arrivalTurn tr.weld s p).transitions = T ++ [s.switchedBy tr [p]] := by
  have hon : s.standsOn tr.weld p = true ↔ s.points[p].started = true ∧ s.points[p].cursor = tr.weld := by
    simp [State.standsOn]
  unfold arrivalTurn
  split
  next hc =>
    have hp : s.standsOn tr.weld p = true := hon.2 hc.2
    cases hb : biteOf p with
    | none =>
      have h6 : p ≠ PointNo.x6 := fun h => by
        rw [← h, hp] at hx6
        exact absurd hx6 (by decide)
      rw [scheduleArrival_gauge hb h6, switchedBy_none fun k hk => absurd (List.mem_singleton.1 hk) (biteOf_none hb k)]
      exact ht
    | some k =>
      rw [scheduleArrival_bite hx hw hb, switchStand_last ht hT]
      rw [← biteOf_some hb] at hp ⊢
      rw [switchedBy_bite hp]
  next hc =>
    rw [switchedBy_none fun k hk => ?_]
    · exact ht
    · have hkp : bitePoint k = p := List.mem_singleton.1 hk
      rw [hkp, Bool.eq_false_iff]
      intro h
      refine hc ⟨fun h0 => ?_, hon.1 h⟩
      exact bitePoint_ne_x0 k (hkp.trans h0)

/-- R60, R88: all the arrivals already made at the weld segment of the last transition. -/
theorem arrivals_switch {x : Segment} (hw : x.weld = true) {T : List Transition} : ∀ (l : List PointNo) (s : State)
    (tr : Transition), s.segment tr.weld = some x → s.transitions = T ++ [tr] → (∀ y ∈ T, y.weld ≠ tr.weld) →
    s.standsOn tr.weld PointNo.x6 = false → (l.foldl (arrivalTurn tr.weld) s).transitions = T ++ [s.switchedBy tr l]
  | [], s, tr, _, ht, _, _ => by
    rw [switchedBy_none fun k hk => absurd hk List.not_mem_nil]
    exact ht
  | p :: l, s, tr, hx, ht, hT, hx6 => by
    have hturn := arrivalTurn_switches (p := p) hx hw ht hT hx6
    have hframe := arrivalTurn_frame tr.weld s p
    rw [List.foldl_cons]
    generalize arrivalTurn tr.weld s p = u at hturn hframe
    have hpoints : u.points = s.points := (congrArg State.points hframe :)
    have hon : ∀ q, u.standsOn tr.weld q = s.standsOn tr.weld q := fun q => by unfold State.standsOn; rw [hpoints]
    have hring : u.ring = s.ring := (congrArg State.ring hframe :)
    have ih := arrivals_switch hw l u _ (by unfold State.segment at hx ⊢; rw [hring]; exact hx) hturn hT
      ((hon _).trans hx6)
    refine ih.trans (congrArg (fun v => T ++ [({ tr with switched := v } : Transition)]) (Vector.ext fun i hi => ?_))
    rw [Vector.getElem_ofFn, Vector.getElem_ofFn]
    show ((s.switchedBy tr [p]).switched[i] || _ && u.standsOn tr.weld _) = _
    unfold State.switchedBy
    dsimp only
    rw [Vector.getElem_ofFn, hon]
    by_cases hp : bitePoint ⟨i, hi⟩ = p
    · cases hs : s.standsOn tr.weld p <;> simp [hp, hs]
    · simp [hp]

/-! ### The schedule taken (R83) -/

/-- What a taking writes: the queue, the table, the weld segment, the transition. -/
structure Took (head : Schedule) (rest : List Schedule) (pre : List Segment) (g : Segment) (coil : CoilNo) (s t : State) :
    Prop where
  frame : { t with
    queue := s.queue, table := s.table, ring := s.ring, transitions := s.transitions, logs := s.logs, port := s.port } = s
  queue : t.queue = rest
  entry : ∃ x, t.table.filter (·.isEntry) = [x] ∧ x.sched = head ∧ x.refs = 1
  weld : ∃ r, t.ring = pre ++ [{ g with tag := head.tag, ramp := r }]
  transition : t.transitions = s.transitions ++ [⟨g.tag, head.tag, g.number, coil, Vector.replicate 6 false⟩]

/-- R80: a table with one reference more under a tag. -/
def refAdded (t : Nat) (tbl : List InForce) : List InForce :=
  tbl.map fun e => if e.sched.tag = t then { e with refs := e.refs + 1 } else e

/-- R80: a table with one reference less under a tag. -/
def refDropped (t : Nat) (tbl : List InForce) : List InForce :=
  tbl.map fun e => if e.sched.tag = t then { e with refs := e.refs - 1 } else e

/-- R83: a table whose schedules are entry schedules no more. -/
def retired (tbl : List InForce) : List InForce := tbl.map fun e => { e with isEntry := false }

theorem refAdded_plain {t : Nat} {tbl : List InForce} (h : ∀ e ∈ tbl, e.isEntry = false) : ∀ e ∈ refAdded t tbl, e.isEntry = false := by
  intro e he
  obtain ⟨x, hx, rfl⟩ := List.mem_map.1 he
  split <;> exact h x hx

theorem refDropped_plain {t : Nat} {tbl : List InForce} (h : ∀ e ∈ tbl, e.isEntry = false) :
    ∀ e ∈ refDropped t tbl, e.isEntry = false := by
  intro e he
  obtain ⟨x, hx, rfl⟩ := List.mem_map.1 he
  split <;> exact h x hx

theorem retired_plain (tbl : List InForce) : ∀ e ∈ retired tbl, e.isEntry = false := by
  intro e he
  obtain ⟨x, -, rfl⟩ := List.mem_map.1 he
  rfl

/-- R80, R81: the table after a taking holds the new schedule as its one entry schedule, with the weld segment its first
reference. -/
theorem takenTable_entry {tbl : List InForce} {new : InForce} {old : Nat} (hnew : new.isEntry = true) (hrefs : new.refs = 0)
    (hold : old ≠ new.sched.tag) :
    ((refDropped old (refAdded new.sched.tag (retired tbl ++ [new]))).filter fun e => e.isEntry || decide (0 < e.refs)).filter
      (·.isEntry) = [{ new with refs := 1 }] := by
  have hrest := refDropped_plain (t := old) (refAdded_plain (t := new.sched.tag) (retired_plain tbl))
  have hone : refDropped old (refAdded new.sched.tag [new]) = [{ new with refs := 1 }] := by
    simp [refDropped, refAdded, Ne.symm hold, hrefs]
  have hsplit : refDropped old (refAdded new.sched.tag (retired tbl ++ [new])) =
      refDropped old (refAdded new.sched.tag (retired tbl)) ++ [{ new with refs := 1 }] := by
    rw [← hone]
    simp [refDropped, refAdded]
  rw [hsplit, List.filter_append, List.filter_append, List.filter_eq_nil_iff.2 fun e he => by simp [hrest e (List.mem_filter.1 he).1]]
  simp [hnew]

/-- R83, R84: the table entry of the head schedule as it is taken. -/
def newlyTaken (head : Schedule) (g : Segment) (s : State) : InForce :=
  { sched := head, isEntry := true, refs := 0
    base := (fromValues s g.number).map fun f => rampBaseFrom f.1 f.2 g.number g.tag }

theorem takeSchedule_table (head : Schedule) (rest : List Schedule) (g : Segment) (coil : CoilNo) (s : State) :
    (takeSchedule head rest g coil s).table = (refDropped g.tag (refAdded head.tag
      (retired s.table ++ [newlyTaken head g s]))).filter fun e => e.isEntry || decide (0 < e.refs) := rfl

theorem takeSchedule_ring (head : Schedule) (rest : List Schedule) (g : Segment) (coil : CoilNo) (s : State) :
    (takeSchedule head rest g coil s).ring = (s.setSegment g.number fun x =>
      { x with tag := head.tag, ramp := (newlyTaken head g s).rampIndex g.number }).ring := rfl

theorem takeSchedule_frame (head : Schedule) (rest : List Schedule) (g : Segment) (coil : CoilNo) (s : State) :
    { takeSchedule head rest g coil s with
      queue := s.queue, table := s.table, ring := s.ring, transitions := s.transitions, logs := s.logs, port := s.port } = s := by
  have hops : ∀ u : State, { dropRef g.tag (addRef head.tag u) with table := u.table } = u := fun u => rfl
  unfold takeSchedule
  dsimp only
  generalize hu : State.setSegment _ _ _ = u
  have hbase : { u with queue := s.queue, table := s.table, ring := s.ring } = s := by rw [← hu]; rfl
  have hrefs := hops u
  generalize dropRef g.tag (addRef head.tag u) = w at hrefs
  exact (congrArg (fun x : State => { x with
    queue := s.queue, table := s.table, ring := s.ring, transitions := s.transitions, logs := s.logs, port := s.port }) hrefs :).trans
    (congrArg (fun x : State => { x with transitions := s.transitions, logs := s.logs, port := s.port }) hbase :)

theorem takeSchedule_transitions (head : Schedule) (rest : List Schedule) (g : Segment) (coil : CoilNo) (s : State) :
    (takeSchedule head rest g coil s).transitions =
      s.transitions ++ [⟨g.tag, head.tag, g.number, coil, Vector.replicate 6 false⟩] := rfl

theorem takeSchedule_queue (head : Schedule) (rest : List Schedule) (g : Segment) (coil : CoilNo) (s : State) :
    (takeSchedule head rest g coil s).queue = rest := rfl

theorem takeSchedule_took {head : Schedule} {rest : List Schedule} {pre : List Segment} {g : Segment} {coil : CoilNo} {s : State}
    (hr : s.ring = pre ++ [g]) (hpre : ∀ x ∈ pre, x.number ≠ g.number) (hg : g.tag ≠ head.tag) :
    Took head rest pre g coil s (takeSchedule head rest g coil s) where
  frame := takeSchedule_frame head rest g coil s
  queue := takeSchedule_queue head rest g coil s
  entry := ⟨{ newlyTaken head g s with refs := 1 }, by
    rw [takeSchedule_table]
    exact takenTable_entry (new := newlyTaken head g s) rfl rfl hg, rfl, rfl⟩
  weld := ⟨_, (takeSchedule_ring head rest g coil s).trans (setSegment_last hr hpre _)⟩
  transition := takeSchedule_transitions head rest g coil s

theorem askSchedule_take {g : Segment} {coil : CoilNo} {s : State} {head : Schedule} {rest : List Schedule}
    (hq : s.queue = head :: rest) (htbl : s.table.length < 3) (htr : s.transitions.length < 2) :
    askSchedule g coil s = takeSchedule head rest g coil s := by
  simp only [askSchedule, hq]
  exact (if_neg (not_le.2 htbl)).trans (if_neg (not_le.2 htr))

/-- R82: a deferral writes its entry in the schedule log and takes CHANGE_DEFERRED. -/
theorem askSchedule_defer {g : Segment} {coil : CoilNo} {s : State} {head : Schedule} {rest : List Schedule}
    (hq : s.queue = head :: rest) (hfull : 3 ≤ s.table.length ∨ 2 ≤ s.transitions.length) :
    ∃ c, askSchedule g coil s = raiseMomentary Kind.changeDeferred (s.append LogNo.schedule c) := by
  simp only [askSchedule, hq]
  by_cases h : 3 ≤ s.table.length
  · exact ⟨_, if_pos h⟩
  · exact ⟨_, (if_neg h).trans (if_pos (hfull.resolve_left h))⟩

/-- A state with what a weld writes before its schedule is asked for put back to what it was. -/
def State.unweld (s t : State) : State :=
  { t with
    ring := s.ring, coilCounter := s.coilCounter, faults := s.faults, logs := s.logs, port := s.port
    reports := s.reports, runState := s.runState }

/-- R64, R167: an accepted weld before its schedule is asked for. -/
structure WeldJudged (pre : List Segment) (g : Segment) (s j : State) : Prop where
  frame : s.unweld j = s
  ring : j.ring = pre ++ [g.welded (s.coilCounter + 1)]
  coil : j.coilCounter = s.coilCounter + 1
  faults : ∀ d : Kind, d ≠ Kind.offGaugeRun → j.faults[d] = s.faults[d]

theorem weldJudged_frame (g : Segment) (s : State) : s.unweld (judgeCompletion g.coil (weldMarked g s)) = s ∧
    (judgeCompletion g.coil (weldMarked g s)).coilCounter = s.coilCounter + 1 ∧
    (judgeCompletion g.coil (weldMarked g s)).ring = (weldMarked g s).ring ∧
    ∀ d : Kind, d ≠ Kind.offGaugeRun → (judgeCompletion g.coil (weldMarked g s)).faults[d] = s.faults[d] := by
  have hself : s.unweld (weldMarked g s) = s := rfl
  have hcoil : (weldMarked g s).coilCounter = s.coilCounter + 1 := rfl
  have hrows : (weldMarked g s).faults = s.faults := rfl
  generalize weldMarked g s = m at hself hcoil hrows
  obtain ⟨hframe, hends, -⟩ := judgeCompletion_frame g.coil m
  generalize judgeCompletion g.coil m = j at hframe hends
  exact ⟨(congrArg s.unweld hframe :).trans hself, (congrArg State.coilCounter hframe :).trans hcoil,
    (congrArg State.ring hframe :), fun d hd => by
      rw [← hrows]
      exact hends.others d (by simpa using hd)⟩

theorem weldJudged {s : State} {pre : List Segment} {g : Segment} (hr : s.ring = pre ++ [g])
    (hpre : ∀ x ∈ pre, x.number ≠ g.number) : WeldJudged pre g s (judgeCompletion g.coil (weldMarked g s)) := by
  obtain ⟨hframe, hcoil, hring, hrows⟩ := weldJudged_frame g s
  exact ⟨hframe, hring.trans (weldMarked_ring hr hpre), hcoil, hrows⟩

/-- R64: what is left of a weld when the schedule has been asked for. -/
theorem weldFinish_frame (n : SegNo) (c : CoilNo) (u : State) : { reportTag n c (arrivalsMade n u) with
    reports := u.reports, transitions := u.transitions, logs := u.logs, port := u.port } = u ∧
    (reportTag n c (arrivalsMade n u)).transitions = (arrivalsMade n u).transitions := by
  have harr := arrivalsMade_frame n u
  generalize arrivalsMade n u = w at harr
  have htag := reportTag_frame n c w
  generalize reportTag n c w = t at htag
  exact ⟨(congrArg (fun x : State => { x with
    reports := u.reports, transitions := u.transitions, logs := u.logs, port := u.port }) htag :).trans
    (congrArg (fun x : State => { x with reports := u.reports }) harr :), (congrArg State.transitions htag :)⟩

/-- R82: the deferral of an accepted weld. -/
structure Deferred (pre : List Segment) (g : Segment) (s u : State) : Prop where
  frame : { s.unweld u with firstOut := s.firstOut } = s
  ring : u.ring = pre ++ [g.welded (s.coilCounter + 1)]
  coil : u.coilCounter = s.coilCounter + 1
  row : u.faults[Kind.changeDeferred].active = s.faults[Kind.changeDeferred].active.filter (· ≠ 0)
  latched : 0 ∉ s.faults[Kind.changeDeferred].active → u.faults[Kind.changeDeferred].latched = true

theorem WeldJudged.deferred {pre : List Segment} {g : Segment} {s j u : State} {c : LogContent} (h : WeldJudged pre g s j)
    (htrips : s.trips Kind.changeDeferred = false) (hu : u = raiseMomentary Kind.changeDeferred (j.append LogNo.schedule c)) :
    Deferred pre g s u := by
  have hpolicy : j.policy = s.policy := (congrArg State.policy h.frame :)
  obtain ⟨hrec, hact, hlatch⟩ := raiseMomentary_quiet (k := Kind.changeDeferred) (s := j.append LogNo.schedule c) (by decide)
    (startsTrip_of_trips ((trips_congr hpolicy _).trans htrips))
  rw [← hu] at hrec hact hlatch
  have hrow : (j.append LogNo.schedule c).faults[Kind.changeDeferred] = s.faults[Kind.changeDeferred] := h.faults _ (by decide)
  rw [hrow] at hact hlatch
  exact ⟨(congrArg (fun x : State => { s.unweld x with firstOut := s.firstOut }) hrec :).trans
    (congrArg (fun x : State => { x with firstOut := s.firstOut }) h.frame :), (congrArg State.ring hrec :).trans h.ring,
    (congrArg State.coilCounter hrec :).trans h.coil, hact, hlatch⟩

/-- R83, R88: the weld that has taken the head schedule, from the state in which it was asked for. -/
theorem Took.finished {head : Schedule} {rest : List Schedule} {pre : List Segment} {g gw : Segment} {coil : CoilNo} {s j u t : State}
    (h : Took head rest pre gw coil j u) (hgw : gw = g.welded coil) (hpre : ∀ x ∈ pre, x.number ≠ g.number)
    (htrans : ∀ x ∈ j.transitions, x.weld ≠ g.number) (hx6 : j.standsOn g.number PointNo.x6 = false)
    (hpoints : j.points = s.points) (ht : t = reportTag g.number coil (arrivalsMade g.number u)) :
    t.queue = rest ∧ t.coilCounter = j.coilCounter ∧
      (∃ x, t.table.filter (·.isEntry) = [x] ∧ x.sched = head ∧ x.refs = 1) ∧
      (∃ x, t.ring = pre ++ [x] ∧ x.number = g.number ∧ x.tag = head.tag ∧ x.weld = true ∧ x.coil = coil) ∧
      t.transitions = j.transitions ++ [⟨g.tag, head.tag, g.number, coil,
        Vector.ofFn fun k => s.points[bitePoint k].started && s.points[bitePoint k].cursor == g.number⟩] := by
  obtain ⟨r, hring⟩ := h.weld
  obtain ⟨hframe, htransitions⟩ := weldFinish_frame g.number coil u
  rw [← ht] at hframe htransitions
  have hupoints : u.points = j.points := (congrArg State.points h.frame :)
  have hon : ∀ p, u.standsOn g.number p = j.standsOn g.number p := fun p => by unfold State.standsOn; rw [hupoints]
  subst hgw
  have hsw := arrivals_switch (x := { g.welded coil with tag := head.tag, ramp := r }) rfl (List.finRange 9) u _
    (segment_last hring hpre) h.transition htrans ((hon _).trans hx6)
  refine ⟨(congrArg State.queue hframe :).trans h.queue,
    (congrArg State.coilCounter hframe :).trans (congrArg State.coilCounter h.frame :), ?_,
    ⟨{ g.welded coil with tag := head.tag, ramp := r }, (congrArg State.ring hframe :).trans hring, rfl, rfl, rfl, rfl⟩, ?_⟩
  · rw [(congrArg State.table hframe :)]
    exact h.entry
  · rw [htransitions, arrivalsMade_eq]
    refine hsw.trans ?_
    refine congrArg (fun v => j.transitions ++ [(⟨g.tag, head.tag, g.number, coil, v⟩ : Transition)]) (Vector.ext fun i hi => ?_)
    rw [Vector.getElem_ofFn, Vector.getElem_ofFn, decide_eq_true (List.mem_finRange _), Bool.true_and, ← hpoints]
    refine (congrArg (_ || ·) (hon _)).trans ?_
    simp [State.standsOn]

/-- R82: the weld that has deferred its schedule. -/
theorem Deferred.finished {pre : List Segment} {g : Segment} {coil : CoilNo} {s u t : State} (h : Deferred pre g s u)
    (htrans : ∀ x ∈ s.transitions, x.weld ≠ g.number) (ht : t = reportTag g.number coil (arrivalsMade g.number u)) :
    t.queue = s.queue ∧ t.table = s.table ∧ t.transitions = s.transitions ∧ t.coilCounter = s.coilCounter + 1 ∧
      t.ring = pre ++ [g.welded (s.coilCounter + 1)] ∧
      (0 ∉ s.faults[Kind.changeDeferred].active → t.faults[Kind.changeDeferred].latched = true ∧
        t.faults[Kind.changeDeferred].active = s.faults[Kind.changeDeferred].active) := by
  have hutr : u.transitions = s.transitions := (congrArg State.transitions h.frame :)
  obtain ⟨hframe, htransitions⟩ := weldFinish_frame g.number coil u
  rw [arrivalsMade_none (by rw [hutr]; exact htrans)] at htransitions
  rw [arrivalsMade_none (by rw [hutr]; exact htrans)] at hframe ht
  rw [← ht] at hframe htransitions
  refine ⟨(congrArg State.queue hframe :).trans (congrArg State.queue h.frame :),
    (congrArg State.table hframe :).trans (congrArg State.table h.frame :), htransitions.trans hutr,
    (congrArg State.coilCounter hframe :).trans h.coil, (congrArg State.ring hframe :).trans h.ring, fun hfresh => ?_⟩
  rw [(congrArg State.faults hframe :), h.row]
  exact ⟨h.latched hfresh, List.filter_eq_self.2 fun x hx => decide_eq_true fun h0 => hfresh (h0 ▸ hx)⟩

/-- R64: an accepted weld with the state in which its schedule is asked for. -/
theorem weldDetect_accepted {s : State} {pre : List Segment} {g : Segment} (hm : s.mode = .thread ∨ s.mode = .run)
    (ht : s.trip = .normal) (hr : s.ring = pre ++ [g]) (hw : g.weld = false) (hlen : s.reports.length < 4) :
    exec .weldDetect s = .next (reportTag g.number (s.coilCounter + 1) (arrivalsMade g.number
      (askSchedule (g.welded (s.coilCounter + 1)) (s.coilCounter + 1) (judgeCompletion g.coil (weldMarked g s.stepStart))))) := by
  have hexec := weldDetect_exec hm ht hr
  rw [if_neg (by simp [hw, hlen]), acceptWeld_eq] at hexec
  exact hexec

/-- Settles O52: the head schedule taken at a weld, or deferred. -/
theorem weldTakesSchedule : Obligations.WeldTakesSchedule := by
  intro s pre g head rest hm ht hr hw hlen hq hpre htag hg htrans hx6
  have hexec := weldDetect_accepted hm ht hr hw hlen
  have hj := weldJudged (s := s.stepStart) hr hpre
  generalize judgeCompletion g.coil (weldMarked g s.stepStart) = j at hexec hj
  have hjq : j.queue = head :: rest := (congrArg State.queue hj.frame :).trans hq
  have hjtbl : j.table = s.table := (congrArg State.table hj.frame :)
  have hjtr : j.transitions = s.transitions := (congrArg State.transitions hj.frame :)
  have hpoints : j.points = s.points := (congrArg State.points hj.frame :)
  have hoff : j.standsOn g.number PointNo.x6 = false := by
    unfold State.standsOn
    rw [hpoints]
    cases hst : s.points[PointNo.x6].started with
    | false => rfl
    | true => simpa using hx6 hst
  refine ⟨fun h3 h2 => ?_, fun hfull htrips => ?_⟩
  · rw [askSchedule_take hjq (by rw [hjtbl]; exact h3) (by rw [hjtr]; exact h2)] at hexec
    have htook := takeSchedule_took (rest := rest) (coil := s.coilCounter + 1) (s := j) hj.ring hpre hg
    obtain ⟨hqueue, hcoil, htable, hring, htransition⟩ := htook.finished (g := g) rfl hpre (by rw [hjtr]; exact htrans) hoff hpoints rfl
    exact ⟨_, hexec, hqueue, hcoil.trans hj.coil, htable, hring, htransition.trans (by rw [hjtr])⟩
  · obtain ⟨c, hask⟩ := askSchedule_defer (g := g.welded (s.coilCounter + 1)) (coil := s.coilCounter + 1)
      hjq (by rw [hjtbl, hjtr]; exact hfull)
    exact ⟨_, hexec, (hj.deferred htrips hask).finished htrans rfl⟩

/-! ### Welds that start a trip (R65, R82, R149) -/

/-- A state with what no trip start speaks of put back to what it was. -/
def State.untold (s t : State) : State :=
  { t with
    reports := s.reports, transitions := s.transitions, logs := s.logs, port := s.port, channels := s.channels
    points := s.points, speeds := s.speeds }

/-- A trip that has been started stands where only what it does not speak of changes. -/
theorem TripsBy.after {s u t : State} {k : Kind} {loc : Nat} (h : TripsBy s u k loc) (hf : u.untold t = u) : TripsBy s t k loc := by
  have ht : t = t.untold u := by
    conv_rhs => rw [← hf]
    rfl
  rw [ht]
  exact ⟨h.mode, h.trip, h.millStop, h.standTrip, h.firstOut, h.latched, h.stands, h.actuators, h.marked, h.run, h.breaks⟩

/-- What a trip that a momentary condition starts leaves of coils and schedules. -/
theorem raiseMomentary_trip {k : Kind} {u : State} (hfresh : 0 ∉ u.faults[k].active) (hs : startsTrip u k = true) :
    (raiseMomentary k u).coilCounter = u.coilCounter ∧ (raiseMomentary k u).queue = u.queue ∧
      (raiseMomentary k u).table = u.table := by
  have h := raise_trips hfresh hs
  unfold raiseMomentary
  generalize raise k 0 u = t at h
  exact ⟨(congrArg State.coilCounter h.frame :), (congrArg State.queue h.frame :), (congrArg State.table h.frame :)⟩

/-- R65: a rejected weld of a tripping kind. -/
theorem weldRejected_trips {s : State} {pre : List Segment} {g : Segment} (hm : s.mode = .thread ∨ s.mode = .run)
    (ht : s.trip = .normal) (hr : s.ring = pre ++ [g]) (hno : g.weld = true ∨ 4 ≤ s.reports.length)
    (htrips : s.trips Kind.weldRejected = true) (hfresh : 0 ∉ s.faults[Kind.weldRejected].active) :
    ∃ t, exec .weldDetect s = .next t ∧ TripsBy s t Kind.weldRejected 0 ∧ t.coilCounter = s.coilCounter := by
  have hexec := weldDetect_exec hm ht hr
  rw [if_pos hno] at hexec
  have hs : startsTrip s.stepStart Kind.weldRejected = true := (startsTrip_iff _ _).2 ⟨htrips, ht, .inr hm⟩
  exact ⟨_, hexec, raiseMomentary_tripsBy rfl rfl hfresh hs, (raiseMomentary_trip (u := s.stepStart) hfresh hs).1⟩

/-- R82: a deferred change of a tripping kind. -/
theorem changeDeferred_trips {s : State} {pre : List Segment} {g : Segment} (hm : s.mode = .thread ∨ s.mode = .run)
    (ht : s.trip = .normal) (hr : s.ring = pre ++ [g]) (hw : g.weld = false) (hlen : s.reports.length < 4) (hq : s.queue ≠ [])
    (hfull : 3 ≤ s.table.length ∨ 2 ≤ s.transitions.length) (htrips : s.trips Kind.changeDeferred = true)
    (hfresh : 0 ∉ s.faults[Kind.changeDeferred].active) : ∃ t, exec .weldDetect s = .next t ∧
      TripsBy s t Kind.changeDeferred 0 ∧ t.coilCounter = s.coilCounter + 1 ∧ t.queue = s.queue ∧ t.table = s.table := by
  have hexec := weldDetect_accepted hm ht hr hw hlen
  obtain ⟨hframe, hcoil, -, hrows⟩ := weldJudged_frame g s.stepStart
  generalize judgeCompletion g.coil (weldMarked g s.stepStart) = j at hexec hframe hcoil hrows
  have hjtbl : j.table = s.table := (congrArg State.table hframe :)
  have hjtr : j.transitions = s.transitions := (congrArg State.transitions hframe :)
  obtain ⟨head, rest, hhead⟩ := List.exists_cons_of_ne_nil hq
  obtain ⟨c, hask⟩ := askSchedule_defer (g := g.welded (s.coilCounter + 1)) (coil := s.coilCounter + 1) (s := j)
    ((congrArg State.queue hframe :).trans hhead)
    (by rw [hjtbl, hjtr]; exact hfull)
  rw [hask] at hexec
  have hs : startsTrip (j.append LogNo.schedule c) Kind.changeDeferred = true :=
    (startsTrip_congr (s := s) (congrArg State.policy hframe :) (congrArg State.trip hframe :) (congrArg State.mode hframe :) _).trans
      ((startsTrip_iff _ _).2 ⟨htrips, ht, .inr hm⟩)
  have hfresh' : 0 ∉ (j.append LogNo.schedule c).faults[Kind.changeDeferred].active := by
    show 0 ∉ j.faults[Kind.changeDeferred].active
    rw [hrows _ (by decide)]
    exact hfresh
  have hby : TripsBy s (raiseMomentary Kind.changeDeferred (j.append LogNo.schedule c)) Kind.changeDeferred 0 :=
    raiseMomentary_tripsBy (congrArg State.logTime hframe :) (congrArg State.mode hframe :) hfresh' hs
  obtain ⟨hc, hqu, htb⟩ := raiseMomentary_trip hfresh' hs
  generalize raiseMomentary Kind.changeDeferred (j.append LogNo.schedule c) = u at hexec hby hc hqu htb
  obtain ⟨hfin, -⟩ := weldFinish_frame g.number (s.coilCounter + 1) u
  generalize reportTag g.number (s.coilCounter + 1) (arrivalsMade g.number u) = t at hexec hfin
  exact ⟨t, hexec, hby.after (congrArg u.untold hfin :), (congrArg State.coilCounter hfin :).trans (hc.trans hcoil),
    (congrArg State.queue hfin :).trans (hqu.trans (congrArg State.queue hframe :)),
    (congrArg State.table hfin :).trans (htb.trans (congrArg State.table hframe :))⟩

end Sys2Proof.Machine

/-! SUPPORT. The takes that start a trip where their kind is enabled and tripping (R136, R149): silence, faults and positioning
timers of actuators, early starts, points that the order clamp holds, welds and deferred changes. -/

namespace Sys2Proof.Machine

/-! ### Actuators -/

/-- A trip is one from any state with its mode and log time. -/
theorem TripsBy.from {s u t : State} {k : Kind} {loc : Nat} (h : TripsBy u t k loc) (hlog : u.logTime = s.logTime)
    (hmode : u.mode = s.mode) : TripsBy s t k loc :=
  ⟨h.mode, h.trip, h.millStop, h.standTrip, by rw [h.firstOut, hlog, hmode], h.latched, h.stands, h.actuators, h.marked, h.run, h.breaks⟩

/-- R122: silence of an actuator that is not UNLINKED. -/
theorem silence_trips {s : State} {k : Stand} {t0 : Micros} (hs : startsTrip s Kind.actuatorSilent = true)
    (hfresh : (k.val + 1) ∉ s.faults[Kind.actuatorSilent].active) (hm : s.actuators[k].mode ≠ .unlinked)
    (ht : s.actuators[k].replyTimer = some t0) (hage : 10000 ≤ s.age t0) :
    ∃ t, exec (.replyTimerExpiry k) s = .next t ∧ TripsBy s t Kind.actuatorSilent (k.val + 1) ∧
      t.actuators[k].mode = .unlinked ∧ t.actuators[k].silences = min (s.actuators[k].silences + 1) 65535 := by
  have hexec := replyTimerExpiry_silent ((replyDue_running ht).trans (decide_eq_true hage)) hm
  have hsil : Silenced s.stepStart (setActMode k .unlinked (s.stepStart.setActuator k s.actuators[k].silenced)) k :=
    silenced_spec hm
  generalize setActMode k .unlinked (s.stepStart.setActuator k s.actuators[k].silenced) = w at hexec hsil
  have hs' : startsTrip w Kind.actuatorSilent = true := (startsTrip_congr (s := s) (congrArg State.policy hsil.frame :)
    (congrArg State.trip hsil.frame :) (congrArg State.mode hsil.frame :) _).trans hs
  have hfresh' : standLoc k ∉ w.faults[Kind.actuatorSilent].active := fun h => hfresh (hsil.faults.fewer _ _ h)
  have htrip := raise_trips hfresh' hs'
  have hact : (raise Kind.actuatorSilent (standLoc k) w).actuators[k] = w.actuators[k].handed w.time := htrip.actuators k
  refine ⟨_, hexec, raise_tripsBy (congrArg State.logTime hsil.frame :) (congrArg State.mode hsil.frame :) hfresh' hs', ?_, ?_⟩
  · rw [hact, hsil.actuator]
    rfl
  · rw [hact, hsil.actuator]
    rfl

/-- R123: a fault taken by an actuator whose status has been counted. -/
theorem answered_faults {s u : State} {k : Stand} {code : Byte} (hu : u.actuators[k].mode = s.actuators[k].mode)
    (hf : { u with actuators := s.actuators } = s.stepStart) (hm : s.actuators[k].mode ≠ .faulted)
    (hs : startsTrip s Kind.actuatorFault = true) (hfresh : (k.val + 1) ∉ s.faults[Kind.actuatorFault].active) :
    TripsBy s (faultActuator k code u) Kind.actuatorFault (k.val + 1) ∧
      (faultActuator k code u).actuators[k].mode = .faulted ∧ (faultActuator k code u).actuators[k].faultCode = some code := by
  have hrows : u.faults = s.faults := (congrArg State.faults hf :)
  obtain ⟨htrip, hmode, hcode⟩ := faultActuator_trips (s := u) (code := code) (by rw [hu]; exact hm)
    ((startsTrip_congr (s := s) (congrArg State.policy hf :) (congrArg State.trip hf :) (congrArg State.mode hf :) _).trans hs)
    (by rw [hrows]; exact hfresh)
  exact ⟨htrip.from (congrArg State.logTime hf :) (congrArg State.mode hf :), hmode, hcode⟩

theorem idling_not_faulted {a : Actuator} (h : a.idling) : a.mode ≠ .faulted := by
  rcases h with h | h | h | ⟨h, -⟩ <;> rw [h] <;> decide

/-- R123: the statuses that fault an actuator. -/
theorem statuses_trip {s : State} {k : Stand} (hrx : s.actuators[k].rx = []) (hs : startsTrip s Kind.actuatorFault = true)
    (hfresh : (k.val + 1) ∉ s.faults[Kind.actuatorFault].active) :
    (∀ code : Byte, code ≠ 0 → code ≠ 0xFE → code ≠ 0xFF → s.actuators[k].mode ≠ .faulted →
      ∃ t, exec (.faultStatus k code) s = .next t ∧ TripsBy s t Kind.actuatorFault (k.val + 1) ∧
        t.actuators[k].mode = .faulted ∧ t.actuators[k].faultCode = some code) ∧
    (s.actuators[k].idling →
      (∃ t, exec (.ack k false) s = .next t ∧ TripsBy s t Kind.actuatorFault (k.val + 1) ∧
        t.actuators[k].mode = .faulted ∧ t.actuators[k].faultCode = some 0xFE) ∧
      (∃ t, exec (.openConfirmed k) s = .next t ∧ TripsBy s t Kind.actuatorFault (k.val + 1) ∧
        t.actuators[k].mode = .faulted ∧ t.actuators[k].faultCode = some 0xFF)) := by
  have hfault := fun code h0 h1 h2 => faultStatus_exec (code := code) hrx h0 h1 h2
  have hack := ack_exec false hrx
  have hopen := openConfirmed_exec hrx
  have hat : (s.stepStart.setActuator k (s.actuators[k].answered s.time)).actuators[k] = s.actuators[k].answered s.time :=
    setActuator_same _ _ _
  have hframe : { s.stepStart.setActuator k (s.actuators[k].answered s.time) with actuators := s.actuators } = s.stepStart := rfl
  generalize s.stepStart.setActuator k (s.actuators[k].answered s.time) = u at hfault hack hopen hat hframe
  have hmode : u.actuators[k].mode = s.actuators[k].mode := by rw [hat]; rfl
  have hdemand : u.actuators[k].demand = s.actuators[k].demand := by rw [hat]; rfl
  refine ⟨fun code h0 h1 h2 hm => ⟨_, (hfault code h0 h1 h2).trans ?_, answered_faults hmode hframe hm hs hfresh⟩,
    fun hidle => ⟨?_, ?_⟩⟩
  · rw [takeFault, if_neg (by rw [hmode]; exact hm)]
  · have hidle' : u.actuators[k].idling := by rw [Actuator.idling, hmode, hdemand]; exact hidle
    have hsame : (u.acked k false).actuators[k].mode = s.actuators[k].mode := by
      rw [State.acked, setActuator_same]
      exact hmode
    refine ⟨_, hack.trans (by rw [takeAck_faults hidle']), answered_faults (u := u.acked k false) hsame ?_
      (idling_not_faulted hidle) hs hfresh⟩
    exact (congrArg (fun x : State => { x with actuators := s.actuators }) hframe :)
  · have hidle' : u.actuators[k].idling := by rw [Actuator.idling, hmode, hdemand]; exact hidle
    exact ⟨_, hopen.trans (by rw [takeOpenConfirmed_faults hidle']), answered_faults hmode hframe (idling_not_faulted hidle) hs hfresh⟩

/-- R126: a move that has not arrived in time. -/
theorem positioning_trips {s : State} {k : Stand} {t0 : Micros} {p : StandParams} (hs : startsTrip s Kind.positioningTimeout = true)
    (hfresh : (k.val + 1) ∉ s.faults[Kind.positioningTimeout].active) (hm : s.actuators[k].mode = .moving)
    (ht : s.actuators[k].posTimer = some t0) (hp : s.stands[k].params = some p) (hage : p.posTimeout * 1000 ≤ s.age t0) :
    ∃ t, exec (.positioningTimerExpiry k) s = .next t ∧ TripsBy s t Kind.positioningTimeout (k.val + 1) ∧
      t.actuators[k].mode = .opening := by
  have hexec := positioningTimerExpiry_due hm ((positioningDue_running hm ht hp).trans (decide_eq_true hage))
  have hframe := overran_frame s.stepStart k
  have hacts := overran_actuators s.stepStart k
  generalize s.stepStart.overran k = w at hexec hframe hacts
  have hs' : startsTrip w Kind.positioningTimeout = true := (startsTrip_congr (s := s) (congrArg State.policy hframe :)
    (congrArg State.trip hframe :) (congrArg State.mode hframe :) _).trans hs
  have hrows : w.faults = s.faults := (congrArg State.faults hframe :)
  have hfresh' : standLoc k ∉ w.faults[Kind.positioningTimeout].active := by rw [hrows]; exact hfresh
  have htrip := raise_trips hfresh' hs'
  have hact : (raise Kind.positioningTimeout (standLoc k) w).actuators[k] = w.actuators[k].handed w.time := htrip.actuators k
  refine ⟨_, hexec, raise_tripsBy (congrArg State.logTime hframe :) (congrArg State.mode hframe :) hfresh' hs', ?_⟩
  rw [hact, handed_mode, hacts]
  simp

/-! ### Early starts (R50) -/

/-- R39, R42: an accepted sample of a thickness role, with its strip-present flag. -/
theorem brings_gauge {s : State} {l : LinkNo} {f : SensorFields} {e : EntryNo} {i : Item} {v : Int} (o : ReaderOrder)
    (h : Brings s l f e i v) {p : PointNo} (hg : gaugePoint i = some p) : ∃ c, s.channels[e].config = some c ∧ c.item = i ∧
      exec (.sensorFrame l (sensorFrameBytes f) o) s =
        .next (deliver i v f.strip o (acceptSample e c v (takeStrip e i f.strip (s.counted l f)))) := by
  obtain ⟨c, hc, rfl⟩ := h.config
  have hlen : c.item ≠ .entryLength := fun hi => by
    rw [hi] at hg
    exact absurd hg (by simp [gaugePoint])
  refine ⟨c, hc, rfl, ?_⟩
  rw [frame_routed h.up h.receiver, routeFrame_value (s := s.counted l f) h.routed hc h.headClear hlen,
    takeValue_in (h.scaled c hc) h.fits]

theorem deliver_gauge {i : Item} {p : PointNo} (hg : gaugePoint i = some p) (v : Int) (strip : Bool) (o : ReaderOrder) (s : State) :
    deliver i v strip o s = if strip then gaugeReading p v s else s := by
  rcases (gaugePoint_cases hg).2 with ⟨rfl, rfl⟩ | ⟨rfl, rfl⟩ | ⟨rfl, rfl⟩ <;> rfl

theorem gaugeReading_off {p : PointNo} {v : Int} {s : State} (h : s.points[p].started = false) : gaugeReading p v s = s :=
  if_neg fun hx => absurd (h.symm.trans hx.1) (by decide)

theorem tracking_true {s : State} (h : s.mode = .thread ∨ s.mode = .run) : s.tracking = true := by
  simpa [State.tracking] using h

theorem frozen_false {s : State} (h : s.trip = .normal) : s.frozen = false := by
  rw [Bool.eq_false_iff]
  exact fun hf => (frozen_iff s).1 hf h

/-- R50: an early start of X1 or X6 of a tripping kind. -/
theorem earlyStart_trips {s : State} {l : LinkNo} {f : SensorFields} {o : ReaderOrder} {e : EntryNo} {i : Item} {v : Int}
    {p u : PointNo} (hm : s.mode = .thread ∨ s.mode = .run) (ht : s.trip = .normal)
    (hi : (i = .stand1Thick ∧ p = PointNo.x1) ∨ (i = .exitThick ∧ p = PointNo.x6)) (hu : u.val + 1 = p.val)
    (hb : Brings s l f e i v) (hstrip : f.strip = true) (hp : s.points[p].started = false) (hearly : s.points[p].early = false)
    (hup : s.points[u].started = false) (htrips : s.trips Kind.trackOverrun = true)
    (hfresh : p.val ∉ s.faults[Kind.trackOverrun].active) :
    ∃ t, exec (.sensorFrame l (sensorFrameBytes f) o) s = .next t ∧ TripsBy s t Kind.trackOverrun p.val ∧
      t.points = s.points.set p { s.points[p] with early := true } := by
  have hg : gaugePoint i = some p := by rcases hi with ⟨rfl, rfl⟩ | ⟨rfl, rfl⟩ <;> rfl
  have hx0 : p ≠ PointNo.x0 := by rcases hi with ⟨-, rfl⟩ | ⟨-, rfl⟩ <;> decide
  obtain ⟨c, hc, -, hexec⟩ := brings_gauge o hb hg
  have hcounted : (s.counted l f).channels[e] = s.channels[e] := rfl
  have hbase : { s.counted l f with links := s.links } = s.stepStart := rfl
  generalize s.counted l f = b at hexec hcounted hbase
  rw [takeStrip_gauge hg] at hexec
  dsimp only at hexec
  rw [if_pos ⟨hstrip, hx0⟩] at hexec
  have hw : { b.setChannel e { b.channels[e] with strip := some f.strip } with links := s.links, channels := s.channels } =
      s.stepStart := (congrArg (fun x : State => { x with channels := s.channels }) hbase :)
  have hwch : (b.setChannel e { b.channels[e] with strip := some f.strip }).channels[e] =
      { s.channels[e] with strip := some f.strip } := by rw [setChannel_same, hcounted]
  generalize b.setChannel e { b.channels[e] with strip := some f.strip } = w at hexec hw hwch
  have hpoints : w.points = s.points := (congrArg State.points hw :)
  have hmode : w.mode = s.mode := (congrArg State.mode hw :)
  have htrip : w.trip = s.trip := (congrArg State.trip hw :)
  have hrows : w.faults = s.faults := (congrArg State.faults hw :)
  rw [startingEvent_on hu (tracking_true (by rw [hmode]; exact hm)) (frozen_false (htrip.trans ht)) (by rw [hpoints]; exact hp),
    if_neg (by rw [hpoints, hup]; decide), earlyStart_first (by rw [hpoints]; exact hearly)] at hexec
  have hs : startsTrip (w.setPoint p { w.points[p] with early := true }) Kind.trackOverrun = true :=
    (startsTrip_congr (s := s) (congrArg State.policy hw :) htrip hmode _).trans
      ((startsTrip_iff _ _).2 ⟨htrips, ht, .inr hm⟩)
  have hfresh' : p.val ∉ (w.setPoint p { w.points[p] with early := true }).faults[Kind.trackOverrun].active := by
    show p.val ∉ w.faults[Kind.trackOverrun].active
    rw [hrows]
    exact hfresh
  have hby : TripsBy s (raise Kind.trackOverrun p.val (w.setPoint p { w.points[p] with early := true })) Kind.trackOverrun p.val :=
    raise_tripsBy (congrArg State.logTime hw :) hmode hfresh' hs
  have hframe := (raise_trips hfresh' hs).frame
  generalize raise Kind.trackOverrun p.val (w.setPoint p { w.points[p] with early := true }) = r at hexec hby hframe
  have hrch : r.channels[e] = { s.channels[e] with strip := some f.strip } := by
    rw [show r.channels = w.channels from (congrArg State.channels hframe :)]
    exact hwch
  have hrpoints : r.points = s.points.set p { s.points[p] with early := true } := by
    rw [show r.points = w.points.set p { w.points[p] with early := true } from (congrArg State.points hframe :), hpoints]
  rw [acceptSample_usable (by rw [hrch]; exact hb.usable), deliver_gauge hg, if_pos hstrip, gaugeReading_off (by
    show r.points[p].started = false
    rw [hrpoints, points_set_at, if_pos rfl]
    exact hp)] at hexec
  exact ⟨_, hexec, hby.after rfl, hrpoints⟩

/-! ### The order clamp (R61) -/

/-- R52: the driven points in rolling order, cut at one of them. -/
theorem driven_split {s : State} {k : Stand} {p : PointNo} (h : drivenBy s k p = true) : ∃ pre post : List PointNo,
    (List.finRange 9).filter (drives s k) = pre ++ p :: post ∧ pre.Nodup ∧ post.Nodup ∧ p ∉ pre ∧ p ∉ post ∧
      (∀ q ∈ pre, q ∉ post) ∧ (∀ q, q ∈ pre ∨ q ∈ post → drivenBy s k q = true ∧ q ≠ p) ∧ ∀ q ∈ post, p < q := by
  obtain ⟨pre, post, heq⟩ := List.append_of_mem (mem_driven.2 h)
  have hnodup := driven_nodup s k
  have hsorted : List.Pairwise (· < ·) ((List.finRange 9).filter (drives s k)) := (List.pairwise_lt_finRange 9).filter _
  rw [heq] at hnodup hsorted
  obtain ⟨hpre, hrest, hdis⟩ := List.nodup_append.1 hnodup
  obtain ⟨hpost, hnd⟩ := List.nodup_cons.1 hrest
  have hppre : p ∉ pre := fun hp => hdis p hp p List.mem_cons_self rfl
  refine ⟨pre, post, heq, hpre, hnd, hppre, hpost, fun q hq hq' => hdis q hq q (List.mem_cons_of_mem _ hq') rfl, fun q hq => ?_,
    fun q hq => List.rel_of_pairwise_cons (List.pairwise_append.1 hsorted).2.1 hq⟩
  have hmem : q ∈ (List.finRange 9).filter (drives s k) := by
    rw [heq, List.mem_append, List.mem_cons]
    tauto
  refine ⟨mem_driven.1 hmem, fun he => ?_⟩
  rw [he] at hq
  exact hq.elim hppre hpost

theorem drivenPoint_out {s : State} {k : Stand} {ps : List PointNo} {p : PointNo} (h : p ∉ ps) : s.drivenPoint k ps p = s.points[p] :=
  if_neg fun hx => h hx.1

theorem drivenPoint_kept (s : State) (k : Stand) (ps : List PointNo) (p : PointNo) :
    (s.drivenPoint k ps p).started = s.points[p].started ∧ (s.drivenPoint k ps p).cursor = s.points[p].cursor ∧
      (s.drivenPoint k ps p).clamped = s.points[p].clamped := by
  unfold State.drivenPoint
  split <;> exact ⟨rfl, rfl, rfl⟩

/-- The advance of a point that stands behind its upstream neighbour. -/
theorem advanceTurn_clamped {s : State} {k : Stand} {p u : PointNo} (hk : driverOf p = k) (hf : s.frozen = false)
    (hst : s.points[p].started = true) (hcl : s.points[p].clamped = false) (hu : u.val + 1 = p.val)
    (hust : s.points[u].started = true) (hcur : s.points[u].cursor = s.points[p].cursor) (hshort : s.points[p].travelled < s.full)
    (hover : s.full ≤ s.points[p].travelled + s.advanceOf k p) : advanceTurn s.time s p =
      (fun r : State => r.setPoint p { r.points[p] with advanced := some s.time })
        (raise Kind.trackOverrun p.val (s.setPoint p { s.points[p] with travelled := s.full - 1, clamped := true })) := by
  subst hk
  have hne : u ≠ p := fun h => by rw [h] at hu; omega
  have hblocked : blocked p (s.setPoint p { s.points[p] with
      travelled := s.points[p].travelled + s.advanceOf (driverOf p) p }) = true := by
    rw [blocked_iff hu, setPoint_other s _ hne, setPoint_same]
    show (s.points[u].started && s.points[u].cursor == s.points[p].cursor) = true
    rw [hust, hcur, beq_self_eq_true]
    rfl
  unfold advanceTurn
  rw [if_pos ⟨hst, by simp [hf]⟩, speedAdvance_eq hshort]
  refine congrArg (fun r : State => r.setPoint p { r.points[p] with advanced := some s.time }) ?_
  refine (passages_blocked (s := s.setPoint p _) ?_ hf hblocked).trans ?_
  · rw [setPoint_same]
    exact hover
  · unfold clampPoint
    dsimp only
    rw [setPoint_same, if_neg (Bool.eq_false_iff.1 hcl), setPoint_twice]
    rfl

theorem speedTaken_stopped {k : Stand} {v : Int} {s : State} (h : s.breakTimers = Vector.replicate 5 .stopped) :
    speedTaken k v s = { s with speeds := s.speeds.set k (some v) } := by
  have hmap : (s.breakTimers.map breakStopped) = s.breakTimers := by
    rw [h, Vector.map_replicate]
    rfl
  unfold speedTaken
  rw [hmap, ite_self]

/-- The state b in which a speed sample comes to point p, the points before it having stayed short of the end of their segments;
`post` are the points still to come. -/
structure ComesTo (s : State) (l : LinkNo) (f : SensorFields) (e : EntryNo) (k : Stand) (v : Int) (p : PointNo) (post : List PointNo)
    (b : State) : Prop where
  frame : { b with points := s.points } = s.sampled l f e v
  own : b.points[p] = s.points[p]
  later : ∀ q ∈ post, b.points[q] = s.points[q] ∧ drivenBy s k q = true ∧ q ≠ p ∧ driverOf q = k
  after : ∀ q ∈ post, p < q
  nodup : post.Nodup
  kept : ∀ q : PointNo, b.points[q].started = s.points[q].started ∧ b.points[q].cursor = s.points[q].cursor ∧
    b.points[q].clamped = s.points[q].clamped
  advance : ∀ q : PointNo, b.points[q] = s.points[q] → b.advanceOf k q = s.advanceOf k q

theorem speedSample_comesTo {s : State} {l : LinkNo} {f : SensorFields} (o : ReaderOrder) {e : EntryNo} {k : Stand} {v : Int}
    {p : PointNo} (ht : s.trip = .normal) (hb : Brings s l f e (.rollSpeed k) v) (hdriven : drivenBy s k p = true)
    (hothers : ∀ q : PointNo, q ≠ p → drivenBy s k q = true → s.points[q].started = true →
      s.points[q].travelled + s.advanceOf k q < s.line.segLen * 1024) : ∃ post b, ComesTo s l f e k v p post b ∧
      exec (.sensorFrame l (sensorFrameBytes f) o) s =
        .next (speedTaken k v (post.foldl (advanceTurn s.time) (advanceTurn s.time b p))) := by
  have hexec := brings_exec o hb (by simp) rfl
  rw [deliver_speed] at hexec
  have hsub : ∀ q, drivenBy (s.sampled l f e v) k q = drivenBy s k q := fun q =>
    drivenBy_congr k q ((hb.channelState _).trans (if_neg (by simp)))
  obtain ⟨pre, post, heq, hpre, hpost, hppre, -, hdis, hin, hafter⟩ := driven_split ((hsub p).trans hdriven)
  have hdriver : ∀ q, q ∈ pre ∨ q ∈ post → driverOf q = k := fun q hq =>
    driverOf_drives ((drives_eq (s.sampled l f e v) k q).trans (hin q hq).1)
  have hfold := advanceTurns_short (k := k) pre (s.sampled l f e v) hpre (fun q hq => hdriver q (.inl hq)) (frozen_false ht)
    fun q hq hqs => hothers q (hin q (.inl hq)).2 ((hsub q).symm.trans (hin q (.inl hq)).1) hqs
  have htime : (s.sampled l f e v).time = s.time := rfl
  have hat : ∀ q : PointNo, (Vector.ofFn ((s.sampled l f e v).drivenPoint k pre) : Vector Point 9)[q] =
      (s.sampled l f e v).drivenPoint k pre q := fun q => Vector.getElem_ofFn _
  refine ⟨post, { s.sampled l f e v with points := Vector.ofFn ((s.sampled l f e v).drivenPoint k pre) }, ⟨rfl, ?_, fun q hq =>
    ⟨?_, (hsub q).symm.trans (hin q (.inr hq)).1, (hin q (.inr hq)).2, hdriver q (.inr hq)⟩, hafter, hpost, fun q => ?_, fun q hq => ?_⟩, ?_⟩
  · exact (hat p).trans (drivenPoint_out hppre)
  · exact (hat q).trans (drivenPoint_out fun hqpre => hdis q hqpre hq)
  · have hk := drivenPoint_kept (s.sampled l f e v) k pre q
    rw [← hat q] at hk
    exact hk
  · exact advanceOf_congr (s := s) rfl hq rfl rfl
  · rw [hexec, heq, List.foldl_append, List.foldl_cons, ← htime, hfold]

/-- R61: a point that the order clamp holds, TRACK_OVERRUN being a tripping kind. -/
theorem clamp_trips {s : State} {l : LinkNo} {f : SensorFields} {o : ReaderOrder} {e : EntryNo} {k : Stand} {v : Int}
    {p u : PointNo} (hm : s.mode = .thread ∨ s.mode = .run) (ht : s.trip = .normal) (hb : Brings s l f e (.rollSpeed k) v)
    (hdriven : drivenBy s k p = true) (hst : s.points[p].started = true) (hcl : s.points[p].clamped = false)
    (hu : u.val + 1 = p.val) (hust : s.points[u].started = true) (hcur : s.points[u].cursor = s.points[p].cursor)
    (hshort : s.points[p].travelled < s.line.segLen * 1024)
    (hover : s.line.segLen * 1024 ≤ s.points[p].travelled + s.advanceOf k p)
    (hothers : ∀ q : PointNo, q ≠ p → drivenBy s k q = true → s.points[q].started = true →
      s.points[q].travelled + s.advanceOf k q < s.line.segLen * 1024)
    (htrips : s.trips Kind.trackOverrun = true) (hfresh : p.val ∉ s.faults[Kind.trackOverrun].active) :
    ∃ t, exec (.sensorFrame l (sensorFrameBytes f) o) s = .next t ∧ TripsBy s t Kind.trackOverrun p.val ∧
      t.points[p].travelled = s.line.segLen * 1024 - 1 ∧ t.points[p].clamped = true ∧
      t.points[p].cursor = s.points[p].cursor := by
  obtain ⟨post, b, hc, hexec⟩ := speedSample_comesTo o ht hb hdriven hothers
  have hframe : { b with points := s.points, links := s.links, channels := s.channels } = s.stepStart :=
    (congrArg (fun x : State => { x with links := s.links, channels := s.channels }) hc.frame :)
  have hkp : driverOf p = k := driverOf_drives ((drives_eq s k p).trans hdriven)
  have hbt : b.trip = s.trip := (congrArg State.trip hframe :)
  have hbm : b.mode = s.mode := (congrArg State.mode hframe :)
  have hrows : b.faults = s.faults := (congrArg State.faults hframe :)
  have hfull : b.full = s.line.segLen * 1024 := congrArg (fun x : LineParams => x.segLen * 1024) (congrArg State.line hframe :)
  have hturn := advanceTurn_clamped (s := b) hkp (frozen_false (hbt.trans ht)) (by rw [hc.own]; exact hst)
    (by rw [hc.own]; exact hcl) hu (by rw [(hc.kept u).1]; exact hust) (by rw [(hc.kept u).2.1, hc.own]; exact hcur)
    (by rw [hfull, hc.own]; exact hshort) (by rw [hfull, hc.own, hc.advance p hc.own]; exact hover)
  have htime : b.time = s.time := (congrArg State.time hframe :)
  rw [htime] at hturn
  rw [hturn] at hexec
  have hs : startsTrip (b.setPoint p { b.points[p] with travelled := b.full - 1, clamped := true }) Kind.trackOverrun = true :=
    (startsTrip_congr (s := s) (congrArg State.policy hframe :) hbt hbm _).trans ((startsTrip_iff _ _).2 ⟨htrips, ht, .inr hm⟩)
  have hfresh' : p.val ∉ (b.setPoint p { b.points[p] with
      travelled := b.full - 1, clamped := true }).faults[Kind.trackOverrun].active := by
    show p.val ∉ b.faults[Kind.trackOverrun].active
    rw [hrows]
    exact hfresh
  have hby : TripsBy s (raise Kind.trackOverrun p.val (b.setPoint p { b.points[p] with
      travelled := b.full - 1, clamped := true })) Kind.trackOverrun p.val :=
    raise_tripsBy (congrArg State.logTime hframe :) hbm hfresh' hs
  have hrframe := (raise_trips hfresh' hs).frame
  generalize raise Kind.trackOverrun p.val (b.setPoint p { b.points[p] with travelled := b.full - 1, clamped := true }) = r
    at hexec hby hrframe
  have hrp : r.points[p] = { s.points[p] with travelled := s.line.segLen * 1024 - 1, clamped := true } := by
    rw [show r.points = b.points.set p { b.points[p] with travelled := b.full - 1, clamped := true } from
      (congrArg State.points hrframe :), points_set_at, if_pos rfl, hc.own, hfull]
  have hrf : (r.setPoint p { r.points[p] with advanced := some s.time }).frozen = true :=
    (frozen_iff r).2 (by rw [hby.trip]; decide)
  dsimp only at hexec
  rw [advanceTurns_frozen _ _ hrf, speedTaken_stopped (s := r.setPoint p _) hby.breaks] at hexec
  have hpt : (r.setPoint p { r.points[p] with advanced := some s.time }).points[p] =
      { s.points[p] with travelled := s.line.segLen * 1024 - 1, clamped := true, advanced := some s.time } := by
    rw [setPoint_same, hrp]
  refine ⟨_, hexec, hby.after rfl, ?_, ?_, ?_⟩
  · exact (congrArg Point.travelled hpt :)
  · exact (congrArg Point.clamped hpt :)
  · exact (congrArg Point.cursor hpt :)

/-- Settles O60: the kinds that start a trip where they are enabled and tripping. -/
theorem trippingKindsTrip : Obligations.TrippingKindsTrip := by
  refine fun s ht => ⟨fun k hm hrx => ⟨fun t0 htrips hfresh hne hreply hage => ?_, fun htrips hfresh => ?_,
    fun t0 p htrips hfresh hmov htimer hp hage => ?_⟩, fun hm => ⟨fun l f o e i v p u hi hu hb hstrip hp hearly hup htrips hfresh =>
      earlyStart_trips hm ht hi hu hb hstrip hp hearly hup htrips hfresh,
    fun l f o e k v p u hb hdriven hst hcl hu hust hcur hshort hover hothers htrips hfresh =>
      clamp_trips hm ht hb hdriven hst hcl hu hust hcur hshort hover hothers htrips hfresh,
    fun pre g hr hno htrips hfresh => weldRejected_trips hm ht hr hno htrips hfresh,
    fun pre g hr hw hlen hq hfull htrips hfresh => changeDeferred_trips hm ht hr hw hlen hq hfull htrips hfresh⟩⟩
  · exact silence_trips ((startsTrip_iff _ _).2 ⟨htrips, ht, hm⟩) hfresh hne hreply hage
  · exact statuses_trip hrx ((startsTrip_iff _ _).2 ⟨htrips, ht, hm⟩) hfresh
  · exact positioning_trips ((startsTrip_iff _ _).2 ⟨htrips, ht, hm⟩) hfresh hmov htimer hp hage

end Sys2Proof.Machine

/-! SUPPORT. A reference handed over to an actuator (R124), and an evaluation from its raw reference to that (R109 to R112,
R116). -/

namespace Sys2Proof.Machine

/-! ### Handing over a reference (R124) -/

/-- R124: an actuator that takes references. -/
def Actuator.follows (a : Actuator) : Bool := a.mode == .idle || a.mode == .following || a.mode == .moving

/-- R118, R124: an actuator to which a reference has been sent. -/
def Actuator.referred (a : Actuator) (r : Int) (now : Micros) : Actuator :=
  { a with
    target := some r
    unanswered := satAdd a.unanswered 1 Config.top16
    replyTimer := if a.unanswered = 0 then some now else a.replyTimer
    lastSent := some now, commandsSent := satAdd a.commandsSent 1 Config.top16 }

/-- R124: the actuator after a reference within its move band or beyond it. -/
def Actuator.moved (a : Actuator) (r : Int) (now : Micros) (near : Bool) : Actuator :=
  if a.follows = false then a
  else if a.mode = .moving then a.referred r now
  else if near = true then { a.referred r now with mode := .following }
  else { a.referred r now with mode := .moving, posTimer := some now }

/-- What handing a reference over to actuator k writes. -/
structure HandedOver (k : Stand) (r : Int) (s t : State) : Prop where
  frame : { t with stands := s.stands, actuators := s.actuators, faults := s.faults, sent := s.sent } = s
  actuators : t.actuators = s.actuators.set k (s.actuators[k].moved r s.time (inBand s k r))
  sent : t.sent = s.sent ++ if s.actuators[k].follows = true then [⟨k, .gapSet r, commandFrameBytes (.gapSet r)⟩] else []
  stands : ∃ h, t.stands = s.stands.set k { s.stands[k] with holds := h } ∧
    (h = s.stands[k].holds ∨ h = s.stands[k].holds.put .positioningTimeout false) ∧
    (s.actuators[k].mode = .following → inBand s k r = false → h.posTimeout = false)
  ends : Ends [Kind.positioningTimeout] s t
  gone : s.actuators[k].mode = .following → inBand s k r = false → standLoc k ∉ t.faults[Kind.positioningTimeout].active

/-- R118: a reference sent to an actuator. -/
def State.refer (s : State) (k : Stand) (r : Int) : State :=
  sendCommand k (.gapSet r) (s.setActuator k { s.actuators[k] with target := some r })

theorem refer_eq (s : State) (k : Stand) (r : Int) : s.refer k r = { s with
    actuators := s.actuators.set k (s.actuators[k].referred r s.time)
    sent := s.sent ++ [⟨k, .gapSet r, commandFrameBytes (.gapSet r)⟩] } := by
  unfold State.refer sendCommand
  dsimp only
  rw [setActuator_same, setActuator_twice]
  rfl

theorem refer_same (s : State) (k : Stand) (r : Int) : (s.refer k r).actuators[k] = s.actuators[k].referred r s.time := by
  rw [refer_eq]
  exact setActuator_same s k _

theorem stands_self (s : State) (k : Stand) : s.stands = s.stands.set k { s.stands[k] with holds := s.stands[k].holds } :=
  (Vector.set_getElem_self _).symm

theorem refer_setActuator (s : State) (k : Stand) (r : Int) (a : Actuator) : (s.refer k r).setActuator k a = { s with
    actuators := s.actuators.set k a, sent := s.sent ++ [⟨k, .gapSet r, commandFrameBytes (.gapSet r)⟩] } := by
  rw [refer_eq]
  simp [State.setActuator]

/-- R124: the actuator keeps the mode it has, or goes on without ending a condition. -/
theorem refer_handedOver {k : Stand} {r : Int} {s t : State} {a : Actuator} (hf : s.actuators[k].follows = true)
    (ha : a = s.actuators[k].moved r s.time (inBand s k r))
    (hfar : s.actuators[k].mode = .following → inBand s k r = true) (ht : t = (s.refer k r).setActuator k a) : HandedOver k r s t := by
  rw [refer_setActuator] at ht
  subst ht ha
  have habs : s.actuators[k].mode = .following → inBand s k r = false → False := fun h hn =>
    absurd ((hfar h).symm.trans hn) (by decide)
  exact ⟨rfl, rfl, by rw [hf]; rfl, ⟨_, stands_self s k, .inl rfl, fun h hn => (habs h hn).elim⟩, Ends.of_faults (by rfl) _,
    fun h hn => (habs h hn).elim⟩

theorem follows_iff (a : Actuator) : a.follows = true ↔ a.mode = .idle ∨ a.mode = .following ∨ a.mode = .moving := by
  simp [Actuator.follows, or_assoc]

theorem moved_off {a : Actuator} {r : Int} {now : Micros} {near : Bool} (h : a.follows = false) : a.moved r now near = a := if_pos h

theorem moved_moving {a : Actuator} {r : Int} {now : Micros} {near : Bool} (h : a.mode = .moving) :
    a.moved r now near = a.referred r now := by
  have hf : ¬ a.follows = false := by rw [Bool.not_eq_false]; exact (follows_iff a).2 (.inr (.inr h))
  exact (if_neg hf).trans (if_pos h)

theorem moved_near {a : Actuator} {r : Int} {now : Micros} (h : a.mode = .idle ∨ a.mode = .following) :
    a.moved r now true = { a.referred r now with mode := .following } := by
  have hf : ¬ a.follows = false := by
    rw [Bool.not_eq_false]
    exact (follows_iff a).2 (h.elim .inl fun h => .inr (.inl h))
  have hm : ¬ a.mode = .moving := by rcases h with h | h <;> rw [h] <;> decide
  exact (if_neg hf).trans ((if_neg hm).trans (if_pos rfl))

theorem moved_far {a : Actuator} {r : Int} {now : Micros} (h : a.mode = .idle ∨ a.mode = .following) :
    a.moved r now false = { a.referred r now with mode := .moving, posTimer := some now } := by
  have hf : ¬ a.follows = false := by
    rw [Bool.not_eq_false]
    exact (follows_iff a).2 (h.elim .inl fun h => .inr (.inl h))
  have hm : ¬ a.mode = .moving := by rcases h with h | h <;> rw [h] <;> decide
  exact (if_neg hf).trans ((if_neg hm).trans (if_neg (by decide)))

theorem into_still {a : Actuator} {m : ActMode} (hm : m ≠ .opened) (ha : a.mode ≠ .moving) : a.into m = { a with mode := m } := by
  rw [into_kept hm, if_neg ha]

/-- R124: a move begins at an actuator that was IDLE or FOLLOWING. -/
def State.begins (s : State) (k : Stand) : State := s.setActuator k { s.actuators[k] with posTimer := some s.time }

theorem begins_idle {k : Stand} {r : Int} {s : State} (hm : s.actuators[k].mode = .idle) :
    (setActMode k .moving (s.refer k r)).begins k = (s.refer k r).setActuator k (s.actuators[k].moved r s.time false) := by
  have hmode : (s.refer k r).actuators[k].mode = .idle := by rw [refer_same]; exact hm
  rw [setActMode_change (by rw [hmode]; decide), hmode, into_still (by decide) (by rw [hmode]; decide), moved_far (.inl hm)]
  show State.begins ((s.refer k r).setActuator k { (s.refer k r).actuators[k] with mode := .moving }) k = _
  rw [State.begins, setActuator_same, setActuator_twice, refer_same]
  rfl

theorem begins_ends (c : HoldCause) (d : Kind) (k : Stand) (s : State) :
    (endsWithCause c d k s).begins k = endsWithCause c d k (s.begins k) := rfl

/-- R126: leaving FOLLOWING ends POSITIONING_TIMEOUT with its hold cause. -/
theorem begins_following {k : Stand} {r : Int} {s : State} (hm : s.actuators[k].mode = .following) :
    (setActMode k .moving (s.refer k r)).begins k = endsWithCause .positioningTimeout Kind.positioningTimeout k
      ((s.refer k r).setActuator k (s.actuators[k].moved r s.time false)) := by
  have hmode : (s.refer k r).actuators[k].mode = .following := by rw [refer_same]; exact hm
  rw [setActMode_change (by rw [hmode]; decide), hmode, into_still (by decide) (by rw [hmode]; decide), moved_far (.inr hm)]
  show State.begins (endsWithCause .positioningTimeout Kind.positioningTimeout k
    ((s.refer k r).setActuator k { (s.refer k r).actuators[k] with mode := .moving })) k = _
  rw [begins_ends, State.begins, setActuator_same, setActuator_twice, refer_same]
  rfl

theorem takeGapSet_idle {k : Stand} {r : Int} {s : State} (hm : s.actuators[k].mode = .idle) : takeGapSet k r s =
    if inBand s k r = true then setActMode k .following (s.refer k r) else (setActMode k .moving (s.refer k r)).begins k := by
  unfold takeGapSet
  dsimp only
  split
  next => rfl
  all_goals next h => exact absurd (hm.symm.trans h) (by decide)

theorem takeGapSet_following {k : Stand} {r : Int} {s : State} (hm : s.actuators[k].mode = .following) : takeGapSet k r s =
    if inBand s k r = true then s.refer k r else (setActMode k .moving (s.refer k r)).begins k := by
  unfold takeGapSet
  dsimp only
  split
  next h => exact absurd (hm.symm.trans h) (by decide)
  next => rfl
  all_goals next h => exact absurd (hm.symm.trans h) (by decide)

theorem takeGapSet_moving {k : Stand} {r : Int} {s : State} (hm : s.actuators[k].mode = .moving) :
    takeGapSet k r s = s.refer k r := by
  unfold takeGapSet
  dsimp only
  split
  next h => exact absurd (hm.symm.trans h) (by decide)
  next h => exact absurd (hm.symm.trans h) (by decide)
  next => rfl
  all_goals next h => exact absurd (hm.symm.trans h) (by decide)

theorem takeGapSet_off {k : Stand} {r : Int} {s : State} (h : s.actuators[k].follows = false) : takeGapSet k r s = s := by
  have hn : ¬ (s.actuators[k].mode = .idle ∨ s.actuators[k].mode = .following ∨ s.actuators[k].mode = .moving) := fun hx => by
    rw [(follows_iff _).2 hx] at h
    exact absurd h (by decide)
  unfold takeGapSet
  dsimp only
  split
  next hm => exact absurd (.inl hm) hn
  next hm => exact absurd (.inr (.inl hm)) hn
  next hm => exact absurd (.inr (.inr hm)) hn
  all_goals rfl

/-- R124: an actuator that keeps its mode, or goes from IDLE to FOLLOWING. -/
theorem takeGapSet_still {k : Stand} {r : Int} {s : State} (hf : s.actuators[k].follows = true)
    (h : s.actuators[k].mode = .moving ∨ inBand s k r = true) :
    takeGapSet k r s = (s.refer k r).setActuator k (s.actuators[k].moved r s.time (inBand s k r)) := by
  have hself : s.refer k r = (s.refer k r).setActuator k (s.actuators[k].referred r s.time) := by
    conv_lhs => rw [← setActuator_self (s.refer k r) k]
    rw [refer_same]
  rcases (follows_iff _).1 hf with hm | hm | hm
  · have hb : inBand s k r = true := h.resolve_left (by rw [hm]; decide)
    have hmode : (s.refer k r).actuators[k].mode = .idle := by rw [refer_same]; exact hm
    rw [takeGapSet_idle hm, if_pos hb, hb, moved_near (.inl hm), setActMode_change (by rw [hmode]; decide), hmode,
      into_still (by decide) (by rw [hmode]; decide), refer_same]
    rfl
  · have hb : inBand s k r = true := h.resolve_left (by rw [hm]; decide)
    have hsame : ({ s.actuators[k].referred r s.time with mode := .following } : Actuator) = s.actuators[k].referred r s.time := by
      rw [← hm]
      rfl
    rw [takeGapSet_following hm, if_pos hb, hb, moved_near (.inr hm), hsame]
    exact hself
  · rw [takeGapSet_moving hm, moved_moving hm]
    exact hself

/-- R124: what handing a reference over does. -/
theorem takeGapSet_handedOver (k : Stand) (r : Int) (s : State) : HandedOver k r s (takeGapSet k r s) := by
  cases hf : s.actuators[k].follows with
  | false =>
    have hm : s.actuators[k].mode ≠ .following := fun hm => by
      rw [(follows_iff _).2 (.inr (.inl hm))] at hf
      exact absurd hf (by decide)
    rw [takeGapSet_off hf]
    refine ⟨rfl, ?_, by rw [hf]; simp, ⟨_, stands_self s k, .inl rfl, fun hx => absurd hx hm⟩, Ends.refl _ s, fun hx => absurd hx hm⟩
    rw [moved_off hf]
    exact (Vector.set_getElem_self _).symm
  | true =>
    by_cases h : s.actuators[k].mode = .moving ∨ inBand s k r = true
    · rw [takeGapSet_still hf h]
      refine refer_handedOver hf rfl (fun hm => h.resolve_left ?_) rfl
      rw [hm]
      decide
    · obtain ⟨hmv, hb⟩ := not_or.1 h
      have hb' : inBand s k r = false := Bool.eq_false_iff.2 hb
      rcases (follows_iff _).1 hf with hm | hm | hm
      · rw [takeGapSet_idle hm, if_neg hb, begins_idle hm]
        exact refer_handedOver hf (by rw [hb']) (fun h => absurd (hm.symm.trans h) (by decide)) rfl
      · rw [takeGapSet_following hm, if_neg hb, begins_following hm, refer_setActuator]
        exact ⟨rfl, by rw [hb']; rfl, by rw [hf]; rfl, ⟨_, rfl, .inr rfl, fun _ _ => rfl⟩,
          (Ends.of_faults (by rfl) _).trans (endsWithCause_ends _ _ _ _), fun _ _ => endsWithCause_gone _ _ _ _⟩
      · exact absurd hm hmv

end Sys2Proof.Machine

/-! SUPPORT. One evaluation of a raw reference (R109 to R112, R116): the steps 8 to 11, the counters, and the hand-over. -/

namespace Sys2Proof.Machine

/-! ### Steps 8 to 11 in the terms of the rules -/

/-- What the four steps make of a raw reference. -/
structure GuardSteps (e : Evaluation) (raw c l r last : Int) (near blocked sent : Bool) : Prop where
  clamped : e.clamped = (c != raw)
  limited : e.limited = (l != c)
  guarded : e.guarded = (!blocked && near && decide (l < last))
  blocked : e.blocked = blocked
  send : e.send = if sent = true then some r else none

theorem isSent_eq (p : StandParams) (last x : Int) : isSent p (some last) x = decide (p.deadband ≤ |x - last| ∧ x ≠ last) := by
  have habs : 1 ≤ |x - last| ↔ x ≠ last := by
    constructor
    · rintro h rfl
      simp at h
    · exact fun h => Int.one_le_abs (sub_ne_zero.2 h)
  simp [isSent, habs]

theorem forceGuarded_eq {p : StandParams} {last x : Int} {force : Option Int} {near : Bool}
    (hnear : near = true ↔ ∃ f, force = some f ∧ p.nearLevel ≤ f) :
    forceGuarded p (some last) force x = if near = true ∧ x < last then last else x := by
  cases force with
  | none =>
    have hn : ¬ near = true := fun h => by simpa using hnear.1 h
    rw [if_neg fun h => hn h.1]
    rfl
  | some f =>
    have hiff : near = true ↔ p.nearLevel ≤ f := by rw [hnear]; simp
    exact if_congr (and_congr hiff.symm Iff.rfl) rfl rfl

theorem guardSteps {p : StandParams} {x : StandTargets} {force : Option Int} {raw c l r last : Int} {near blocked sent : Bool}
    (hc : c = clampInt raw x.smin x.smax) (hl : l = clampInt c (last - p.stepLimit) (last + p.stepLimit))
    (hnear : near = true ↔ ∃ f, force = some f ∧ p.nearLevel ≤ f) (hr : r = if near = true ∧ l < last then last else l)
    (hb : blocked = decide (l < x.smin ∨ x.smax < l))
    (hs : sent = (!blocked && decide (p.deadband ≤ |r - last| ∧ r ≠ last))) :
    GuardSteps (guards p (some last) x.smin x.smax force raw) raw c l r last near blocked sent := by
  have hguard : forceGuarded p (some last) force l = r := (forceGuarded_eq hnear).trans hr.symm
  have hstep : stepLimited p (some last) c = l := hl.symm
  have hmoved : (r != l) = (near && decide (l < last)) := by
    rw [hr]
    by_cases h : near = true ∧ l < last
    · rw [if_pos h, h.1, decide_eq_true h.2]
      exact bne_iff_ne.2 (ne_of_gt h.2)
    · rw [if_neg h, bne_self_eq_false]
      cases near
      · rfl
      · exact (decide_eq_false fun hlt => h ⟨rfl, hlt⟩).symm
  refine ⟨?_, ?_, ?_, ?_, ?_⟩ <;> simp only [guards, ← hc, hstep, hguard, ← hb]
  · rw [hmoved, Bool.and_assoc]
  · rw [isSent_eq, hs]
    cases blocked <;> simp

/-! ### The evaluation and its reference -/

/-- A stand after an evaluation. -/
def StandCtl.evaluated (st : StandCtl) (e : Evaluation) : StandCtl :=
  { st with counters := st.counters.after e, lastSent := e.send.or st.lastSent }

theorem finishEvaluation_eq (k : Stand) (p : StandParams) (x : StandTargets) (force : Option Int) (raw : Int) (s : State)
    (e : Evaluation) (he : e = guards p s.stands[k].lastSent x.smin x.smax force raw) : finishEvaluation k p x force raw s =
      e.send.elim (s.setStand k (s.stands[k].evaluated e)) fun r => takeGapSet k r (s.setStand k (s.stands[k].evaluated e)) := by
  subst he
  unfold finishEvaluation StandCtl.evaluated
  dsimp only
  cases (guards p s.stands[k].lastSent x.smin x.smax force raw).send <;> rfl

/-- What an evaluation of stand k writes. -/
structure Evaluated (k : Stand) (e : Evaluation) (s t : State) : Prop where
  frame : { t with stands := s.stands, actuators := s.actuators, faults := s.faults, sent := s.sent } = s
  stand : ∃ h, t.stands = s.stands.set k { s.stands[k].evaluated e with holds := h } ∧
    (h = s.stands[k].holds ∨ h = s.stands[k].holds.put .positioningTimeout false) ∧
    ∀ r, e.send = some r → s.actuators[k].mode = .following → inBand s k r = false → h.posTimeout = false
  actuators : t.actuators = e.send.elim s.actuators fun r => s.actuators.set k (s.actuators[k].moved r s.time (inBand s k r))
  sent : t.sent = s.sent ++ e.send.elim [] fun r =>
    if s.actuators[k].follows = true then [⟨k, .gapSet r, commandFrameBytes (.gapSet r)⟩] else []
  ends : Ends [Kind.positioningTimeout] s t
  gone : ∀ r, e.send = some r → s.actuators[k].mode = .following → inBand s k r = false →
    standLoc k ∉ t.faults[Kind.positioningTimeout].active

theorem inBand_congr {s t : State} {k : Stand} (hc : t.channels = s.channels) (hp : t.stands[k].params = s.stands[k].params)
    (r : Int) : inBand t k r = inBand s k r := by
  have hheld : t.heldOf (.gapPos k) = s.heldOf (.gapPos k) := by
    unfold State.heldOf State.entryOf
    rw [hc]
  unfold inBand
  rw [hheld, hp]

theorem setStand_same (s : State) (k : Stand) (x : StandCtl) : (s.setStand k x).stands[k] = x := by simp

theorem setStand_twice (s : State) (k : Stand) (x y : StandCtl) : (s.setStand k x).setStand k y = s.setStand k y := by
  simp [State.setStand]

theorem finishEvaluation_evaluated (k : Stand) (p : StandParams) (x : StandTargets) (force : Option Int) (raw : Int) (s : State)
    (e : Evaluation) (he : e = guards p s.stands[k].lastSent x.smin x.smax force raw) :
    Evaluated k e s (finishEvaluation k p x force raw s) := by
  rw [finishEvaluation_eq k p x force raw s e he]
  cases hs : e.send with
  | none =>
    refine ⟨rfl, ⟨s.stands[k].holds, rfl, .inl rfl, fun r h => absurd (hs.symm.trans h) (by simp)⟩, ?_, ?_,
      Ends.of_faults (by rfl) _, fun r h => absurd (hs.symm.trans h) (by simp)⟩
    · rw [hs]
      rfl
    · rw [hs]
      exact (List.append_nil _).symm
  | some r =>
    have hu := takeGapSet_handedOver k r (s.setStand k (s.stands[k].evaluated e))
    have hb : inBand (s.setStand k (s.stands[k].evaluated e)) k r = inBand s k r :=
      inBand_congr (s := s) (t := s.setStand k (s.stands[k].evaluated e)) rfl (by rw [setStand_same]; rfl) r
    show Evaluated k e s (takeGapSet k r (s.setStand k (s.stands[k].evaluated e)))
    generalize takeGapSet k r (s.setStand k (s.stands[k].evaluated e)) = t at hu
    obtain ⟨h, hstands, hkept, hclear⟩ := hu.stands
    rw [setStand_same] at hstands hkept
    have hfar : ∀ r', e.send = some r' → inBand s k r' = false → inBand (s.setStand k (s.stands[k].evaluated e)) k r = false :=
      fun r' hr' hn => by
        rw [hb, Option.some.inj (hs.symm.trans hr')]
        exact hn
    refine ⟨(congrArg (fun y : State => { y with stands := s.stands }) hu.frame :), ⟨h, ?_, hkept, fun r' hr' hm hn =>
      hclear hm (hfar r' hr' hn)⟩, ?_, ?_, (Ends.of_faults (by rfl) _).trans hu.ends, fun r' hr' hm hn => hu.gone hm (hfar r' hr' hn)⟩
    · rw [hstands]
      exact Vector.set_set _ _
    · rw [hu.actuators, hs, hb]
      rfl
    · rw [hu.sent, hs]
      rfl

theorem moved_target {a : Actuator} {r : Int} {now : Micros} {near : Bool} (h : a.follows = true) :
    (a.moved r now near).target = some r := by
  unfold Actuator.moved
  rw [if_neg (by rw [h]; decide)]
  split
  · rfl
  · split <;> rfl

/-- R109 to R112, R116, R124: an evaluation in the terms of the rules, in a step that has sent no command yet. -/
theorem Evaluated.evaluates {k : Stand} {p : StandParams} {x : StandTargets} {force : Option Int} {last raw : Int} {s t : State}
    (h : Evaluated k (guards p (some last) x.smin x.smax force raw) s t) (hlast : s.stands[k].lastSent = some last) (hsent : s.sent = []) :
    Evaluates s t k p x force last raw := by
  refine ⟨fun c l r near blocked sent hc hl hnear hr hb hs => ?_⟩
  have hnear' : near = true ↔ ∃ f, force = some f ∧ p.nearLevel ≤ f := by
    rw [hnear]
    cases force with
    | none => simp
    | some f => simp [StandParams.nearLevel]
  have hg := guardSteps hc hl hnear' hr hb hs
  generalize guards p (some last) x.smin x.smax force raw = e at h hg
  obtain ⟨hd, hstands, -⟩ := h.stand
  have hat : t.stands[k] = { s.stands[k].evaluated e with holds := hd } := by
    rw [hstands]
    exact setStand_same s k _
  refine ⟨?_, ?_, fun htrue hmode => ?_, fun hoff => ?_⟩
  · rw [hat]
    show e.send.or s.stands[k].lastSent = _
    rw [hg.send, hlast]
    split <;> rfl
  · rw [hat]
    show s.stands[k].counters.after e = _
    unfold EvalCounters.after
    rw [hg.clamped, hg.limited, hg.guarded, hg.blocked, hg.send]
    cases sent <;> rfl
  · have hf : s.actuators[k].follows = true := (follows_iff _).2 hmode
    have hsend : e.send = some r := by rw [hg.send, if_pos htrue]
    rw [h.actuators, h.sent, hsend, hsent]
    refine ⟨?_, ?_⟩
    · refine (congrArg Actuator.target (setActuator_same s k _)).trans (moved_target hf)
    · show [] ++ (if _ then _ else _) = _
      rw [if_pos hf]
      rfl
  · cases hsd : e.send with
    | none =>
      rw [h.actuators, h.sent, hsd, hsent]
      exact ⟨rfl, rfl⟩
    | some r' =>
      have hf : s.actuators[k].follows = false := by
        rw [Bool.eq_false_iff]
        intro hf
        have hmode := (follows_iff _).1 hf
        rcases hoff with hoff | hoff | hoff | hoff | hoff
        · rw [hg.send, hoff] at hsd
          exact absurd hsd (by simp)
        all_goals
          rw [hoff] at hmode
          exact absurd hmode (by decide)
      rw [h.actuators, h.sent, hsd, hsent]
      refine ⟨?_, ?_⟩
      · refine (congrArg Actuator.target (setActuator_same s k _)).trans ?_
        rw [moved_off hf]
      · show [] ++ (if _ then _ else _) = _
        rw [if_neg (by rw [hf]; decide)]
        rfl

end Sys2Proof.Machine

/-! SUPPORT. A FORCE sample as the Gap Computation Unit takes it (R103 to R105): the load judgement, the estimate, and what an
evaluation adds to that. -/

namespace Sys2Proof.Machine

/-! ### The load judgement and the estimate (R103, R104) -/

/-- R104: the gaugemeter thickness of a sample, where it is loaded and the gap position is usable. -/
def State.thickness (s : State) (k : Stand) (p : StandParams) (v : Int) : Option Int :=
  if p.loaded v then (s.heldOf (.gapPos k)).map (gaugemeter p v) else none

/-- A stand controller after a load judgement, with the thickness that enters its estimate. -/
def StandCtl.judged (st : StandCtl) (loaded : Bool) (now : Micros) (h : Option Int) : StandCtl :=
  { st with
    unload := unloadNext loaded now st.unload
    sum := h.elim st.sum (st.sum + ·), count := h.elim st.count fun _ => st.count + 1 }

/-- The thickness that enters the estimate: none without a segment in the bite, and none in a trip. -/
def State.estimated (s : State) (k : Stand) (h : Option Int) : Option Int :=
  if s.stands[k].bite.isSome ∧ ¬ s.frozen then h else none

/-- R103, R104: the state after the load judgement and the estimate. -/
def loadJudged (k : Stand) (p : StandParams) (v : Int) (s : State) : State :=
  (s.thickness k p v).elim (loadJudgement k (p.loaded v) s) fun h => accumulate k h (loadJudgement k (p.loaded v) s)

/-- What the load judgement and the estimate write. -/
structure LoadJudged (k : Stand) (p : StandParams) (v : Int) (s t : State) : Prop where
  frame : { t with stands := s.stands, faults := s.faults } = s
  stands : t.stands = s.stands.set k (s.stands[k].judged (p.loaded v) s.time (s.estimated k (s.thickness k p v)))
  ends : Ends [Kind.standUnloaded] s t
  gone : p.loaded v = true → standLoc k ∉ t.faults[Kind.standUnloaded].active

theorem loadJudgement_judged (k : Stand) (p : StandParams) (v : Int) (s : State) :
    { loadJudgement k (p.loaded v) s with stands := s.stands, faults := s.faults } = s ∧
    (loadJudgement k (p.loaded v) s).stands = s.stands.set k (s.stands[k].judged (p.loaded v) s.time none) ∧
    Ends [Kind.standUnloaded] s (loadJudgement k (p.loaded v) s) ∧
    (p.loaded v = true → standLoc k ∉ (loadJudgement k (p.loaded v) s).faults[Kind.standUnloaded].active) := by
  unfold loadJudgement
  dsimp only
  cases p.loaded v with
  | true => exact ⟨rfl, rfl, Ends.inactive_of rfl, fun _ => inactive_gone _ _ _⟩
  | false => exact ⟨rfl, rfl, Ends.of_faults (by rfl) _, fun h => absurd h (by decide)⟩

theorem loadJudged_spec (k : Stand) (p : StandParams) (v : Int) (s : State) : LoadJudged k p v s (loadJudged k p v s) := by
  obtain ⟨hframe, hstands, hends, hgone⟩ := loadJudgement_judged k p v s
  unfold loadJudged
  generalize loadJudgement k (p.loaded v) s = u at hframe hstands hends hgone
  have hat : u.stands[k] = s.stands[k].judged (p.loaded v) s.time none := by
    rw [hstands]
    exact setStand_same s k _
  have hcond : (u.stands[k].bite.isSome = true ∧ ¬ u.frozen = true) ↔ (s.stands[k].bite.isSome = true ∧ ¬ s.frozen = true) := by
    rw [hat, State.frozen, State.frozen, show u.trip = s.trip from (congrArg State.trip hframe :)]
    rfl
  cases hth : s.thickness k p v with
  | none =>
    refine ⟨hframe, ?_, hends, hgone⟩
    rw [hth, State.estimated, ite_self]
    exact hstands
  | some h =>
    show LoadJudged k p v s (accumulate k h u)
    unfold accumulate
    dsimp only
    by_cases hc : s.stands[k].bite.isSome = true ∧ ¬ s.frozen = true
    · rw [if_pos (hcond.2 hc)]
      refine ⟨(congrArg (fun x : State => { x with stands := s.stands, faults := s.faults }) hframe :), ?_,
        hends.trans (Ends.of_faults (by rfl) _), hgone⟩
      show u.stands.set k { u.stands[k] with sum := u.stands[k].sum + h, count := u.stands[k].count + 1 } = _
      rw [hth, State.estimated, if_pos hc, hat, hstands]
      exact Vector.set_set _ _
    · rw [if_neg fun hx => hc (hcond.1 hx)]
      refine ⟨hframe, ?_, hends, hgone⟩
      rw [hth, State.estimated, if_neg hc]
      exact hstands

/-- R103 to R105: a FORCE sample that a stand judges. -/
theorem gapForceSample_eq {k : Stand} {p : StandParams} {v : Int} {s : State} (hp : s.stands[k].params = some p)
    (hj : judgesLoad s k = true) : gapForceSample k v s =
      (fun u : State => if u.stands[k].mode = .gauge then gaugeEvaluation k p v (s.thickness k p v) u else u) (loadJudged k p v s) := by
  have hheld : ∀ b, (loadJudgement k b s).heldOf (.gapPos k) = s.heldOf (.gapPos k) := fun b => by
    have hch : (loadJudgement k b s).channels = s.channels := by cases b <;> rfl
    unfold State.heldOf State.entryOf
    rw [hch]
  unfold gapForceSample loadJudged State.thickness
  by_cases hl : p.loaded v = true
  · cases hh : s.heldOf (.gapPos k) <;>
      simp only [hp, hj, hheld, hl, hh, if_true, Option.map_none, Option.map_some, Option.elim_none, Option.elim_some]
  · simp only [hp, hj, if_true, if_neg hl, Option.elim_none]

theorem gapForceSample_idle {k : Stand} {v : Int} {s : State} (hj : judgesLoad s k = false) : gapForceSample k v s = s := by
  unfold gapForceSample
  cases s.stands[k].params with
  | none => rfl
  | some p => exact if_neg (by rw [hj]; decide)

theorem gapForceSample_bare {k : Stand} {v : Int} {s : State} (hp : s.stands[k].params = none) : gapForceSample k v s = s := by
  simp only [gapForceSample, hp]

/-! ### The evaluation at a force sample (R105) -/

theorem gaugeEvaluation_cases (k : Stand) (p : StandParams) (f : Int) (hgm : Option Int) (s : State) :
    gaugeEvaluation k p f hgm s = s ∨ ∃ e, Evaluated k e s (gaugeEvaluation k p f hgm s) := by
  unfold gaugeEvaluation
  split
  next => exact .inl rfl
  next =>
    split
    next => exact .inr ⟨_, finishEvaluation_evaluated _ _ _ _ _ _ _ rfl⟩
    next => exact .inl rfl

/-- What a FORCE sample of value v may write at its stand. -/
structure ForceTaken (k : Stand) (v : Int) (s t : State) : Prop where
  frame : { t with
    stands := s.stands, actuators := s.actuators, faults := s.faults, sent := s.sent, heldFrom := s.heldFrom } = s
  others : ∀ j : Stand, j ≠ k → t.stands[j] = s.stands[j] ∧ t.actuators[j] = s.actuators[j]
  mode : t.stands[k].mode = s.stands[k].mode
  bite : t.stands[k].bite = s.stands[k].bite
  trim : t.stands[k].trim = s.stands[k].trim
  params : t.stands[k].params = s.stands[k].params
  ends : Ends [Kind.standUnloaded, Kind.positioningTimeout] s t
  idle : judgesLoad s k = false → t.stands = s.stands ∧ t.actuators = s.actuators ∧ t.faults = s.faults ∧ t.sent = s.sent
  unload : ∀ p, s.stands[k].params = some p → judgesLoad s k = true →
    t.stands[k].unload = unloadNext (p.loaded v) s.time s.stands[k].unload
  gone : ∀ p, s.stands[k].params = some p → judgesLoad s k = true → p.loaded v = true →
    standLoc k ∉ t.faults[Kind.standUnloaded].active
  estimate : ∀ p, s.stands[k].params = some p → judgesLoad s k = true →
    t.stands[k].sum = (s.estimated k (s.thickness k p v)).elim s.stands[k].sum (s.stands[k].sum + ·) ∧
    t.stands[k].count = (s.estimated k (s.thickness k p v)).elim s.stands[k].count fun _ => s.stands[k].count + 1

theorem ForceTaken.refl {k : Stand} {v : Int} {s : State} (h : judgesLoad s k = false ∨ s.stands[k].params = none) :
    ForceTaken k v s s := by
  have hno : ∀ p, s.stands[k].params = some p → judgesLoad s k = true → False := fun p hp hj => by
    rcases h with h | h
    · exact absurd (h.symm.trans hj) (by decide)
    · exact absurd (h.symm.trans hp) (by simp)
  exact ⟨rfl, fun _ _ => ⟨rfl, rfl⟩, rfl, rfl, rfl, rfl, Ends.refl _ s, fun _ => ⟨rfl, rfl, rfl, rfl⟩,
    fun p hp hj => (hno p hp hj).elim, fun p hp hj => (hno p hp hj).elim, fun p hp hj => (hno p hp hj).elim⟩

/-- R103, R104: the load judgement and the estimate alone. -/
theorem LoadJudged.taken {k : Stand} {p : StandParams} {v : Int} {s t : State} (h : LoadJudged k p v s t)
    (hp : s.stands[k].params = some p) (hj : judgesLoad s k = true) : ForceTaken k v s t := by
  have hat : t.stands[k] = s.stands[k].judged (p.loaded v) s.time (s.estimated k (s.thickness k p v)) := by
    rw [h.stands]
    exact setStand_same s k _
  have hacts : t.actuators = s.actuators := (congrArg State.actuators h.frame :)
  refine ⟨(congrArg (fun x : State => { x with actuators := s.actuators, sent := s.sent, heldFrom := s.heldFrom }) h.frame :),
    fun j hj => ⟨?_, by rw [hacts]⟩, by rw [hat]; rfl, by rw [hat]; rfl, by rw [hat]; rfl, by rw [hat]; rfl,
    h.ends.mono (by simp), fun hn => absurd (hj.symm.trans hn) (by decide), fun q hq _ => ?_, fun q hq _ hl => ?_, fun q hq _ => ?_⟩
  · rw [h.stands]
    exact (stands_set_at s k j _).trans (if_neg hj)
  · rw [hat, ← Option.some.inj (hp.symm.trans hq)]
    rfl
  · rw [← Option.some.inj (hp.symm.trans hq)] at hl
    exact h.gone hl
  · rw [hat, ← Option.some.inj (hp.symm.trans hq)]
    exact ⟨rfl, rfl⟩

/-- An evaluation after what a sample has written so far. -/
theorem ForceTaken.evaluated {k : Stand} {v : Int} {e : Evaluation} {s u t : State} (h : ForceTaken k v s u) (he : Evaluated k e u t)
    (hj : judgesLoad s k = true) : ForceTaken k v s t := by
  obtain ⟨hd, hstands, -⟩ := he.stand
  have hat : t.stands[k] = { u.stands[k].evaluated e with holds := hd } := by
    rw [hstands]
    exact setStand_same u k _
  refine ⟨(congrArg (fun x : State => { x with
      stands := s.stands, actuators := s.actuators, faults := s.faults, sent := s.sent, heldFrom := s.heldFrom }) he.frame :).trans
      h.frame,
    fun j hjk => ⟨?_, ?_⟩, by rw [hat]; exact h.mode, by rw [hat]; exact h.bite, by rw [hat]; exact h.trim,
    by rw [hat]; exact h.params, h.ends.trans (he.ends.mono (by simp)), fun hn => absurd (hj.symm.trans hn) (by decide),
    fun p hp hj => ?_, fun p hp hj hl => ?_, fun p hp hj => ?_⟩
  · rw [hstands]
    exact ((stands_set_at u k j _).trans (if_neg hjk)).trans (h.others j hjk).1
  · rw [he.actuators]
    cases e.send with
    | none => exact (h.others j hjk).2
    | some r => exact ((actuators_set_at u k j _).trans (if_neg hjk)).trans (h.others j hjk).2
  · rw [hat]
    exact h.unload p hp hj
  · rw [he.ends.others _ (by decide)]
    exact h.gone p hp hj hl
  · rw [hat]
    exact h.estimate p hp hj

theorem gapForceSample_taken (k : Stand) (v : Int) (s : State) : ForceTaken k v s (gapForceSample k v s) := by
  cases hj : judgesLoad s k with
  | false =>
    rw [gapForceSample_idle hj]
    exact ForceTaken.refl (.inl hj)
  | true =>
    cases hp : s.stands[k].params with
    | none =>
      rw [gapForceSample_bare hp]
      exact ForceTaken.refl (.inr hp)
    | some p =>
      rw [gapForceSample_eq hp hj]
      have hl := (loadJudged_spec k p v s).taken hp hj
      generalize loadJudged k p v s = u at hl
      dsimp only
      split
      next =>
        rcases gaugeEvaluation_cases k p v (s.thickness k p v) u with heq | ⟨e, he⟩
        · rw [heq]
          exact hl
        · exact hl.evaluated he hj
      next => exact hl

/-! ### The mode in which a sample is taken (R124, R131) -/

/-- The state in which a stand that its actuator's report has taken to HOLD takes a sample in the mode m it came from. -/
def State.takenIn (s : State) (k : Stand) (m : StandMode) : State :=
  (s.setStand k { s.stands[k] with mode := m }).setHeldFrom k none

/-- A stand goes back to HOLD after such a sample. -/
def State.heldAgain (s : State) (k : Stand) : State := s.setStand k { s.stands[k] with mode := .hold }

theorem takeSample_plain {k : Stand} {before : Bool} {f : State → State} {s : State} (h : earlierMode k before s = none) :
    takeSample k before f s = f s := by simp only [takeSample, h]

theorem takeSample_earlier {k : Stand} {before : Bool} {f : State → State} {s : State} {m : StandMode}
    (h : earlierMode k before s = some m) : takeSample k before f s = (f (s.takenIn k m)).heldAgain k := by
  simp only [takeSample, h]
  rfl

theorem earlierMode_some {k : Stand} {before : Bool} {s : State} {m : StandMode} : earlierMode k before s = some m ↔
    before = true ∧ s.stands[k].mode = .hold ∧ s.heldFrom[k] = some m ∧ (m = .gauge ∨ m = .position) := by
  unfold earlierMode
  by_cases h : before = true ∧ s.stands[k].mode = .hold
  · rw [if_pos h, Option.filter_eq_some_iff]
    have h2 := h.2
    simp only [h.1, h2, true_and, Bool.or_eq_true, beq_iff_eq]
  · rw [if_neg h]
    refine ⟨fun hx => absurd hx (by simp), fun hx => absurd ⟨hx.1, hx.2.1⟩ h⟩

theorem earlierMode_none {k : Stand} {before : Bool} {s : State} (h : s.stands[k].mode ≠ .hold) : earlierMode k before s = none :=
  if_neg fun hx => h hx.2

/-- A sample taken in an earlier mode writes what one taken in HOLD may write. -/
theorem ForceTaken.earlier {k : Stand} {v : Int} {s t : State} {m : StandMode} (h : ForceTaken k v (s.takenIn k m) t)
    (hold : s.stands[k].mode = .hold) (hm : m = .gauge ∨ m = .position) : ForceTaken k v s (t.heldAgain k) := by
  have hin : (s.takenIn k m).stands[k] = { s.stands[k] with mode := m } := setStand_same s k _
  have hother : ∀ j : Stand, j ≠ k → (s.takenIn k m).stands[j] = s.stands[j] := fun j hj =>
    (stands_set_at s k j _).trans (if_neg hj)
  have hjudge : judgesLoad (s.takenIn k m) k = judgesLoad s k := by
    unfold judgesLoad
    rw [hin, hold]
    rcases hm with rfl | rfl <;> rfl
  have hbite := congrArg StandCtl.bite hin
  have hparams := congrArg StandCtl.params hin
  have hth : ∀ p, (s.takenIn k m).estimated k ((s.takenIn k m).thickness k p v) = s.estimated k (s.thickness k p v) := fun p => by
    unfold State.estimated
    rw [hin]
    rfl
  have hat : (t.heldAgain k).stands[k] = { t.stands[k] with mode := .hold } := setStand_same t k _
  have hothers : ∀ j : Stand, j ≠ k → (t.heldAgain k).stands[j] = t.stands[j] := fun j hj =>
    (stands_set_at t k j _).trans (if_neg hj)
  refine ⟨(congrArg (fun x : State => { x with stands := s.stands, heldFrom := s.heldFrom }) h.frame :),
    fun j hj => ⟨(hothers j hj).trans ((h.others j hj).1.trans (hother j hj)), (h.others j hj).2⟩, by rw [hat]; exact hold.symm,
    by rw [hat]; exact h.bite.trans hbite, by rw [hat]; exact h.trim.trans (congrArg StandCtl.trim hin :),
    by rw [hat]; exact h.params.trans hparams, ?_, fun hj => ?_, fun p hp hj => ?_, fun p hp hj => ?_, fun p hp hj => ?_⟩
  · exact (Ends.of_faults (s := s) (t := s.takenIn k m) rfl _).trans (h.ends.trans (Ends.of_faults (by rfl) _))
  · obtain ⟨hstands, hacts, hfaults, hsent⟩ := h.idle (hjudge.trans hj)
    refine ⟨Vector.ext fun i hi => ?_, hacts, hfaults, hsent⟩
    by_cases hik : (⟨i, hi⟩ : Stand) = k
    · have heq : t.stands[k] = { s.stands[k] with mode := m } := by rw [hstands]; exact hin
      have hk : (t.heldAgain k).stands[k] = s.stands[k] := by
        rw [hat, heq, ← hold]
      subst hik
      exact hk
    · have hk := (hothers _ hik).trans ((h.others _ hik).1.trans (hother _ hik))
      exact hk
  · rw [hat]
    exact (h.unload p (hparams.trans hp) (hjudge.trans hj)).trans (by rw [hin]; rfl)
  · exact h.gone p (hparams.trans hp) (hjudge.trans hj)
  · obtain ⟨hsum, hcount⟩ := h.estimate p (hparams.trans hp) (hjudge.trans hj)
    rw [hat]
    refine ⟨hsum.trans ?_, hcount.trans ?_⟩
    · rw [hth, hin]
    · rw [hth, hin]

/-- R103 to R105, R124: a FORCE sample as its stand takes it. -/
theorem forceSample_taken (k : Stand) (before : Bool) (v : Int) (s : State) :
    ForceTaken k v s (takeSample k before (gapForceSample k v) s) := by
  cases h : earlierMode k before s with
  | none =>
    rw [takeSample_plain h]
    exact gapForceSample_taken k v s
  | some m =>
    rw [takeSample_earlier h]
    obtain ⟨-, hold, -, hm⟩ := earlierMode_some.1 h
    exact (gapForceSample_taken k v (s.takenIn k m)).earlier hold hm

end Sys2Proof.Machine

/-! SUPPORT. A FORCE sample as the Protection Unit judges it (R140), and its three readers in any order (R39). -/

namespace Sys2Proof.Machine

/-! ### What no event changes at a stand -/

theorem take_stand (k : Kind) (loc : Nat) (s : State) (j : Stand) :
    (take k loc s).stands[j].params = s.stands[j].params ∧ ((take k loc s).mode = s.mode ∨ (take k loc s).mode = .tripped) := by
  obtain ⟨v, hv, ht⟩ := take_forms k loc s
  have hbase : v.stands[j].params = s.stands[j].params ∧ (v.mode = s.mode ∨ v.mode = .tripped) := by
    rcases hv with rfl | rfl
    · exact ⟨rfl, .inl rfl⟩
    · have hstart := tripStart_spec k loc (recordTake k loc s)
      generalize tripStart k loc (recordTake k loc s) = t at hstart
      exact ⟨by rw [hstart.stands j]; rfl, .inr hstart.outputs.1⟩
  rcases ht with ht | ht <;> rw [ht]
  · exact hbase
  · have hframe := enterHardStop_frame v
    generalize enterHardStop v = t at hframe
    have hst : t.stands = v.stands := (congrArg State.stands hframe :)
    have hm : t.mode = v.mode := (congrArg State.mode hframe :)
    rw [hst, hm]
    exact hbase

theorem raiseAll_stand (cs : List (Kind × Nat)) (s : State) (j : Stand) :
    (raiseAll cs s).stands[j].params = s.stands[j].params ∧ ((raiseAll cs s).mode = s.mode ∨ (raiseAll cs s).mode = .tripped) := by
  have hfold : ∀ (L : List (Kind × Nat)) (u : State), (L.foldl (fun s c => take c.1 c.2 s) u).stands[j].params = u.stands[j].params ∧
      ((L.foldl (fun s c => take c.1 c.2 s) u).mode = u.mode ∨ (L.foldl (fun s c => take c.1 c.2 s) u).mode = .tripped) := by
    intro L
    induction L with
    | nil => exact fun u => ⟨rfl, .inl rfl⟩
    | cons c L ih =>
      intro u
      rw [List.foldl_cons]
      obtain ⟨hp, hm⟩ := ih (take c.1 c.2 u)
      obtain ⟨hp', hm'⟩ := take_stand c.1 c.2 u j
      exact ⟨hp.trans hp', hm.elim (fun h => by rw [h]; exact hm') .inr⟩
  obtain ⟨hp, hm⟩ := hfold (markFresh cs s).1 (markFresh cs s).2
  have hframe := (markFresh_spec cs s).1
  have hst : (markFresh cs s).2.stands = s.stands := (congrArg State.stands hframe :)
  have hmode : (markFresh cs s).2.mode = s.mode := (congrArg State.mode hframe :)
  rw [hst] at hp
  rw [hmode] at hm
  exact ⟨hp, hm⟩

/-! ### Trips of the first of several conditions (R137, R149) -/

theorem take_tripsBy {k : Kind} {loc : Nat} {s u : State} (hlog : u.logTime = s.logTime) (hmode : u.mode = s.mode)
    (hs : startsTrip u k = true) : TripsBy s (take k loc u) k loc := by
  rw [take_starts loc hs]
  have h := tripStart_spec k loc (recordTake k loc u)
  generalize tripStart k loc (recordTake k loc u) = t at h
  exact {
    mode := h.outputs.1
    trip := h.trip.1
    millStop := h.outputs.2.1
    standTrip := h.outputs.2.2
    firstOut := by
      rw [h.trip.2.2, ← hlog, ← hmode]
      rfl
    latched := by
      rw [h.faults.latched, recordTake_at, if_pos rfl]
      rfl
    stands := fun j => by rw [h.stands j]; exact ⟨rfl, rfl⟩
    actuators := fun j => by
      refine ⟨by rw [h.actuators j]; rfl, by rw [h.actuators j]; rfl, ?_⟩
      rw [h.sent, List.map_append, List.map_map]
      exact List.mem_append_right _ (List.mem_map.2 ⟨j, List.mem_finRange j, rfl⟩)
    marked := fun g hg => by
      rw [h.ring] at hg
      obtain ⟨x, -, rfl⟩ := List.mem_map.1 hg
      rfl
    run := h.run
    breaks := h.breaks }

/-- A condition that does not trip, taken while a trip stands. -/
theorem TripsBy.take {s t : State} {k d : Kind} {loc x : Nat} (h : TripsBy s t k loc) (hd : t.trips d = false)
    (ho : d ≠ Kind.openTimeout) (hne : d ≠ k) : TripsBy s (take d x t) k loc := by
  have hsub : isSubsequent t d = false := by rw [isSubsequent, hd]; rfl
  rw [take_quiet x ho (startsTrip_of_trips hd)]
  refine ⟨h.mode, h.trip, h.millStop, h.standTrip, ?_, ?_, h.stands, h.actuators, h.marked, h.run, h.breaks⟩
  · show (if isSubsequent t d then _ else t.firstOut) = _
    rw [hsub]
    exact h.firstOut
  · rw [recordTake_at, if_neg (Ne.symm hne)]
    exact h.latched

/-- R137, R149: the first of several conditions starts the trip, the others being of kinds that do not. -/
theorem raiseAll_tripsBy {k : Kind} {loc : Nat} {cs : List (Kind × Nat)} {s u : State} (hlog : u.logTime = s.logTime)
    (hmode : u.mode = s.mode) (hfresh : loc ∉ u.faults[k].active) (hs : startsTrip u k = true)
    (hcs : ∀ c ∈ cs, u.trips c.1 = false ∧ c.1 ≠ Kind.openTimeout ∧ c.1 ≠ k) : TripsBy s (raiseAll ((k, loc) :: cs) u) k loc := by
  obtain ⟨hframe, -, -, -, hmem⟩ := markFresh_spec cs (u.markActive k loc)
  have heq : raiseAll ((k, loc) :: cs) u = (markFresh cs (u.markActive k loc)).1.foldl (fun s c => take c.1 c.2 s)
      (take k loc (markFresh cs (u.markActive k loc)).2) := by
    unfold raiseAll
    rw [markFresh, if_neg hfresh, List.foldl_cons]
  rw [heq]
  generalize (markFresh cs (u.markActive k loc)).2 = w at hframe
  have hpolicy : w.policy = u.policy := (congrArg State.policy hframe :)
  have hw : startsTrip w k = true :=
    (startsTrip_congr hpolicy (congrArg State.trip hframe :) (congrArg State.mode hframe :) k).trans hs
  have hstart := take_tripsBy (k := k) (loc := loc) (s := s) (u := w) ((congrArg State.logTime hframe :).trans hlog)
    ((congrArg State.mode hframe :).trans hmode) hw
  have htp : (take k loc w).policy = u.policy := (congrArg State.policy (take_untake k loc w u) :).trans hpolicy
  have hL : ∀ c ∈ (markFresh cs (u.markActive k loc)).1, c ∈ cs := fun c hc => ((hmem c).1 hc).1
  generalize take k loc w = t at hstart htp
  revert t
  generalize (markFresh cs (u.markActive k loc)).1 = L at hL
  induction L with
  | nil => exact fun t ht _ => ht
  | cons c L ih =>
    intro t ht htp
    obtain ⟨h1, h2, h3⟩ := hcs c (hL c List.mem_cons_self)
    rw [List.foldl_cons]
    exact ih (fun x hx => hL x (List.mem_cons_of_mem _ hx)) _
      (ht.take (by rw [trips_congr htp]; exact h1) h2 h3) ((congrArg State.policy (take_untake c.1 c.2 t u) :).trans htp)

/-! ### The force limits (R140) -/

/-- The conditions that a FORCE sample raises. -/
def limitEvents (p : StandParams) (v : Int) (k : Stand) : List (Kind × Nat) :=
  (if p.forceLimit ≤ v then [(Kind.forceLimit, standLoc k)] else []) ++
    (if p.nearLevel ≤ v then [(Kind.forceNearLimit, standLoc k)] else [])

/-- The state in which they are raised: the conditions below their levels have ended. -/
def limitsEnded (p : StandParams) (v : Int) (k : Stand) (s : State) : State :=
  (fun u : State => if v < p.nearLevel then u.inactive Kind.forceNearLimit (standLoc k) else u)
    (if v < p.forceLimit then s.inactive Kind.forceLimit (standLoc k) else s)

theorem judgeForceLimits_eq {k : Stand} {v : Int} {s : State} {p : StandParams} (hp : s.stands[k].params = some p) :
    judgeForceLimits k v s = raiseAll (limitEvents p v k) (limitsEnded p v k s) := by
  simp only [judgeForceLimits, hp]
  rfl

theorem limitsEnded_spec (p : StandParams) (v : Int) (k : Stand) (s : State) :
    { limitsEnded p v k s with faults := s.faults } = s ∧
    Ends [Kind.forceLimit, Kind.forceNearLimit] s (limitsEnded p v k s) ∧
    (v < p.forceLimit → standLoc k ∉ (limitsEnded p v k s).faults[Kind.forceLimit].active) ∧
    (v < p.nearLevel → standLoc k ∉ (limitsEnded p v k s).faults[Kind.forceNearLimit].active) ∧
    (p.forceLimit ≤ v → (limitsEnded p v k s).faults[Kind.forceLimit] = s.faults[Kind.forceLimit]) := by
  have hends : Ends [Kind.forceLimit, Kind.forceNearLimit] s
      (if v < p.forceLimit then s.inactive Kind.forceLimit (standLoc k) else s) := by
    split
    · exact (inactive_ends s _ _).mono (by simp)
    · exact Ends.refl _ s
  have hgone : v < p.forceLimit → standLoc k ∉
      (if v < p.forceLimit then s.inactive Kind.forceLimit (standLoc k) else s).faults[Kind.forceLimit].active := fun h => by
    rw [if_pos h]
    exact inactive_gone _ _ _
  have hkept : p.forceLimit ≤ v → (if v < p.forceLimit then s.inactive Kind.forceLimit (standLoc k) else s) = s := fun h =>
    if_neg (not_lt.2 h)
  have hframe : { (if v < p.forceLimit then s.inactive Kind.forceLimit (standLoc k) else s) with faults := s.faults } = s := by
    split <;> rfl
  unfold limitsEnded
  generalize (if v < p.forceLimit then s.inactive Kind.forceLimit (standLoc k) else s) = u at hends hgone hkept hframe
  dsimp only
  by_cases h : v < p.nearLevel
  · rw [if_pos h]
    have hrow : ∀ d : Kind, d ≠ Kind.forceNearLimit →
        (u.inactive Kind.forceNearLimit (standLoc k)).faults[d] = u.faults[d] := fun d hd =>
      (inactive_ends u _ _).others d (by simpa using hd)
    refine ⟨hframe, hends.trans ((inactive_ends u _ _).mono (by simp)), fun hl => ?_, fun _ => inactive_gone _ _ _, fun hl => ?_⟩
    · rw [hrow _ (by decide)]
      exact hgone hl
    · rw [hrow _ (by decide), hkept hl]
  · rw [if_neg h]
    exact ⟨hframe, hends, hgone, fun hn => absurd hn h, fun hl => by rw [hkept hl]⟩

theorem mem_limitEvents {p : StandParams} {v : Int} {k : Stand} {d : Kind} {loc : Nat} : (d, loc) ∈ limitEvents p v k ↔
    (d = Kind.forceLimit ∧ loc = standLoc k ∧ p.forceLimit ≤ v) ∨ (d = Kind.forceNearLimit ∧ loc = standLoc k ∧ p.nearLevel ≤ v) := by
  unfold limitEvents
  rw [List.mem_append]
  split <;> split <;> simp_all

/-- R140: the two conditions at and above their levels, whatever they start. -/
theorem judgeForceLimits_active {k : Stand} {v : Int} {s : State} {p : StandParams} (hp : s.stands[k].params = some p) :
    (standLoc k ∈ (judgeForceLimits k v s).faults[Kind.forceLimit].active ↔ p.forceLimit ≤ v) ∧
    (standLoc k ∈ (judgeForceLimits k v s).faults[Kind.forceNearLimit].active ↔ p.nearLevel ≤ v) := by
  obtain ⟨-, -, hlim, hnear, -⟩ := limitsEnded_spec p v k s
  rw [judgeForceLimits_eq hp, raiseAll_mem _ _ (by decide), raiseAll_mem _ _ (by decide), mem_limitEvents, mem_limitEvents]
  have hne : ¬ Kind.forceLimit = Kind.forceNearLimit := by decide
  have hne' : ¬ Kind.forceNearLimit = Kind.forceLimit := by decide
  refine ⟨⟨fun h => ?_, fun h => .inr (.inl ⟨rfl, rfl, h⟩)⟩, ⟨fun h => ?_, fun h => .inr (.inr ⟨rfl, rfl, h⟩)⟩⟩
  · by_contra hlt
    rcases h with h | ⟨-, -, h⟩ | ⟨h, -⟩
    · exact hlim (not_le.1 hlt) h
    · exact hlt h
    · exact hne h
  · by_contra hlt
    rcases h with h | ⟨h, -⟩ | ⟨-, -, h⟩
    · exact hnear (not_le.1 hlt) h
    · exact hne' h
    · exact hlt h

/-- What a judgement of the force limits that starts no trip writes. -/
structure LimitsQuiet (s t : State) : Prop where
  recorded : Recorded s t
  others : ∀ d : Kind, d ∉ [Kind.forceLimit, Kind.forceNearLimit] → t.faults[d] = s.faults[d]

theorem LimitsQuiet.refl (s : State) : LimitsQuiet s s := ⟨rfl, fun _ _ => rfl⟩

theorem judgeForceLimits_quiet {k : Stand} {v : Int} {s : State} (h : ∀ p, s.stands[k].params = some p → ∀ c ∈ limitEvents p v k,
    startsTrip s c.1 = false) : LimitsQuiet s (judgeForceLimits k v s) := by
  cases hp : s.stands[k].params with
  | none =>
    have heq : judgeForceLimits k v s = s := by simp only [judgeForceLimits, hp]
    rw [heq]
    exact LimitsQuiet.refl s
  | some p =>
    obtain ⟨hframe, hends, -⟩ := limitsEnded_spec p v k s
    rw [judgeForceLimits_eq hp]
    generalize limitsEnded p v k s = u at hframe hends
    have hr := raiseAll_quiet (s := u) fun c hc => ⟨(startsTrip_congr (congrArg State.policy hframe :) (congrArg State.trip hframe :)
      (congrArg State.mode hframe :) c.1).trans (h p hp c hc), by
        rcases mem_limitEvents.1 (show (c.1, c.2) ∈ _ from hc) with ⟨hk, -⟩ | ⟨hk, -⟩ <;> rw [hk] <;> decide⟩
    refine ⟨(Recorded.of_faults hframe).trans hr.recorded, fun d hd => (hr.others d fun c hc => ?_).trans (hends.others d hd)⟩
    rintro rfl
    rcases mem_limitEvents.1 (show (c.1, c.2) ∈ _ from hc) with ⟨hk, -⟩ | ⟨hk, -⟩ <;> exact hd (by rw [hk]; decide)

theorem judgeForceLimits_kept (k : Stand) (v : Int) (s : State) : (judgeForceLimits k v s).points = s.points ∧
    (judgeForceLimits k v s).stands[k].params = s.stands[k].params ∧
    ((judgeForceLimits k v s).mode = s.mode ∨ (judgeForceLimits k v s).mode = .tripped) := by
  cases hp : s.stands[k].params with
  | none =>
    have heq : judgeForceLimits k v s = s := by simp only [judgeForceLimits, hp]
    rw [heq]
    exact ⟨rfl, hp, .inl rfl⟩
  | some p =>
    obtain ⟨hframe, -⟩ := limitsEnded_spec p v k s
    rw [judgeForceLimits_eq hp]
    generalize limitsEnded p v k s = u at hframe
    have hun := raiseAll_untake (limitEvents p v k) u u
    obtain ⟨hparams, hmode⟩ := raiseAll_stand (limitEvents p v k) u k
    have hst : u.stands = s.stands := (congrArg State.stands hframe :)
    have hm : u.mode = s.mode := (congrArg State.mode hframe :)
    rw [hst] at hparams
    rw [hm] at hmode
    exact ⟨(congrArg State.points hun :).trans (congrArg State.points hframe :), hparams.trans hp, hmode⟩

end Sys2Proof.Machine

/-! SUPPORT. The three readers of a FORCE sample in any order (R39), where the sample starts no point: the statements on load
judgement and force conditions (R103, R104, R140). -/

namespace Sys2Proof.Machine

/-! ### Orders of the readers -/

/-- The sample changes no point. -/
def StartsNone (k : Stand) (v : Int) (s : State) : Prop :=
  ∀ u : State, u.points = s.points → u.stands[k].params = s.stands[k].params → (u.mode = s.mode ∨ u.mode = .tripped) →
    trackForceSample k v u = u

theorem startsNone_started {k : Stand} {v : Int} {s : State} {p : StandParams} (hp : s.stands[k].params = some p)
    (h : p.loaded v = true → s.points[bitePoint k].started = true) : StartsNone k v s := by
  intro u hu hparams _
  simp only [trackForceSample, hparams, hp]
  split
  next hl => exact startingEvent_off (.inr (.inr (by rw [hu]; exact h hl)))
  next => rfl

theorem startsNone_mode {k : Stand} {v : Int} {s : State} (h : s.tracking = false) : StartsNone k v s := by
  intro u _ _ hm
  have htrack : u.tracking = false := by
    rcases hm with hm | hm
    · rw [State.tracking, hm]
      exact h
    · rw [State.tracking, hm]
      rfl
  unfold trackForceSample
  split
  next =>
    split
    next => exact startingEvent_off (.inl htrack)
    next => rfl
  next => rfl

/-- R39: where no point starts, the stand takes the sample before its force limits are judged, or after it. -/
theorem deliverForce_orders {k : Stand} {v : Int} {o : ForceOrder} {before : Bool} {s : State} (h : StartsNone k v s) :
    deliverForce k v o before s = judgeForceLimits k v (takeSample k before (gapForceSample k v) s) ∨
    deliverForce k v o before s = takeSample k before (gapForceSample k v) (judgeForceLimits k v s) := by
  have hg := forceSample_taken k before v
  have hgs : ∀ u, (takeSample k before (gapForceSample k v) u).points = u.points ∧
      (takeSample k before (gapForceSample k v) u).mode = u.mode := fun u =>
    ⟨(congrArg State.points (hg u).frame :), (congrArg State.mode (hg u).frame :)⟩
  have hj := judgeForceLimits_kept k v
  have hts : trackForceSample k v s = s := h s rfl rfl (.inl rfl)
  have htg : trackForceSample k v (takeSample k before (gapForceSample k v) s) = takeSample k before (gapForceSample k v) s :=
    h _ (hgs s).1 (hg s).params (.inl (hgs s).2)
  have htj : trackForceSample k v (judgeForceLimits k v s) = judgeForceLimits k v s := h _ (hj s).1 (hj s).2.1 (hj s).2.2
  have htgj : trackForceSample k v (takeSample k before (gapForceSample k v) (judgeForceLimits k v s)) =
      takeSample k before (gapForceSample k v) (judgeForceLimits k v s) :=
    h _ ((hgs _).1.trans (hj s).1) ((hg _).params.trans (hj s).2.1) (by rw [(hgs _).2]; exact (hj s).2.2)
  have htjg : trackForceSample k v (judgeForceLimits k v (takeSample k before (gapForceSample k v) s)) =
      judgeForceLimits k v (takeSample k before (gapForceSample k v) s) :=
    h _ ((hj _).1.trans (hgs s).1) ((hj _).2.1.trans (hg s).params) (by
      rw [← (hgs s).2]
      exact (hj _).2.2)
  cases o with
  | gtp => exact .inl (by simp only [deliverForce, htg])
  | gpt => exact .inl (by simp only [deliverForce, htjg])
  | tgp => exact .inl (by simp only [deliverForce, hts])
  | tpg => exact .inr (by simp only [deliverForce, hts])
  | pgt => exact .inr (by simp only [deliverForce, htgj])
  | ptg => exact .inr (by simp only [deliverForce, htj])

/-- R140: the judgement of the force limits starts no trip. -/
def LimitsCalm (k : Stand) (v : Int) (s : State) : Prop :=
  ∀ p, s.stands[k].params = some p → ∀ c ∈ limitEvents p v k, startsTrip s c.1 = false

/-- R39: where the sample starts neither a point nor a trip, its stand takes it between two quiet judgements. -/
theorem deliverForce_quiet {k : Stand} {v : Int} {o : ForceOrder} {before : Bool} {s : State} (h : StartsNone k v s)
    (hcalm : LimitsCalm k v s) : ∃ u, LimitsQuiet s u ∧
      LimitsQuiet (takeSample k before (gapForceSample k v) u) (deliverForce k v o before s) := by
  rcases deliverForce_orders (o := o) (before := before) h with heq | heq
  · refine ⟨s, LimitsQuiet.refl s, ?_⟩
    rw [heq]
    have hg := forceSample_taken k before v s
    generalize takeSample k before (gapForceSample k v) s = w at hg
    refine judgeForceLimits_quiet fun p hp c hc => ?_
    exact (startsTrip_congr (congrArg State.policy hg.frame :) (congrArg State.trip hg.frame :) (congrArg State.mode hg.frame :)
      c.1).trans (hcalm p (hg.params.symm.trans hp) c hc)
  · refine ⟨judgeForceLimits k v s, judgeForceLimits_quiet hcalm, ?_⟩
    rw [heq]
    exact LimitsQuiet.refl _

/-! ### FORCE samples (R96, R103, R104, R140) -/

theorem loaded_iff (p : StandParams) (v : Int) : p.loaded v = true ↔ p.zeroForce + p.bite < v := by
  exact decide_eq_true_iff

theorem limitsCalm_below {k : Stand} {v : Int} {s : State} {p : StandParams} (hp : s.stands[k].params = some p)
    (hnear : s.trips Kind.forceNearLimit = false) (hv : v < p.forceLimit ∨ s.mode = .config) : LimitsCalm k v s := by
  intro q hq c hc
  rw [← Option.some.inj (hp.symm.trans hq)] at hc
  rcases mem_limitEvents.1 (show (c.1, c.2) ∈ _ from hc) with ⟨hk, -, hle⟩ | ⟨hk, -, -⟩
  · exact startsTrip_config (hv.resolve_left (not_lt.2 hle)) c.1
  · rw [hk]
    exact startsTrip_of_trips hnear

theorem judgesLoad_true {s : State} {k : Stand} (hm : s.mode = .thread ∨ s.mode = .run)
    (hst : s.stands[k].mode = .position ∨ s.stands[k].mode = .hold ∨ s.stands[k].mode = .gauge) : judgesLoad s k = true := by
  unfold judgesLoad
  rw [tracking_true hm]
  rcases hst with h | h | h <;> rw [h] <;> rfl

theorem judgesLoad_false {s : State} {k : Stand} (h : s.tracking = false ∨ s.stands[k].mode = .off ∨ s.stands[k].mode = .opened) :
    judgesLoad s k = false := by
  unfold judgesLoad
  rcases h with h | h | h
  · rw [h]
    rfl
  · rw [h, Bool.and_false]
  · rw [h, Bool.and_false]

theorem judgesLoad_congr {s t : State} {k : Stand} (hm : t.mode = s.mode) (hst : t.stands = s.stands) :
    judgesLoad t k = judgesLoad s k := by
  unfold judgesLoad State.tracking
  rw [hm, hst]

theorem tracking_false {s : State} (h : s.mode = .config ∨ s.mode = .ready ∨ s.mode = .tripped) : s.tracking = false := by
  rcases h with h | h | h <;> simp [State.tracking, h]

theorem brings_force {s : State} {l : LinkNo} {f : SensorFields} (o : ReaderOrder) {e : EntryNo} {k : Stand} {v : Int}
    (h : Brings s l f e (.force k) v) : exec (.sensorFrame l (sensorFrameBytes f) o) s =
      .next (deliverForce k v o.force o.beforeReport (s.sampled l f e v)) := brings_exec o h (by simp) rfl

/-- R103, R104: the load judgement of a sample that starts neither a point nor a trip. -/
theorem forceSample_judged {k : Stand} {v : Int} {p : StandParams} {s t u : State} (hp : s.stands[k].params = some p)
    (hj : judgesLoad s k = true) (hu : LimitsQuiet s u) (hg : ForceTaken k v u t) :
    t.stands[k].unload = unloadNext (p.loaded v) s.time s.stands[k].unload ∧
    (p.loaded v = true → standLoc k ∉ t.faults[Kind.standUnloaded].active) ∧
    t.stands[k].sum = (s.estimated k (s.thickness k p v)).elim s.stands[k].sum (s.stands[k].sum + ·) ∧
    t.stands[k].count = (s.estimated k (s.thickness k p v)).elim s.stands[k].count (fun _ => s.stands[k].count + 1) ∧
    t.stands[k].mode = s.stands[k].mode ∧ ∀ j : Stand, j ≠ k → t.stands[j] = s.stands[j] := by
  have hst : u.stands = s.stands := (congrArg State.stands hu.recorded :)
  have hm : u.mode = s.mode := (congrArg State.mode hu.recorded :)
  have htime : u.time = s.time := (congrArg State.time hu.recorded :)
  have hch : u.channels = s.channels := (congrArg State.channels hu.recorded :)
  have htrip : u.trip = s.trip := (congrArg State.trip hu.recorded :)
  have hpu : u.stands[k].params = some p := by rw [hst]; exact hp
  have hju : judgesLoad u k = true := (judgesLoad_congr hm hst).trans hj
  have hth : u.estimated k (u.thickness k p v) = s.estimated k (s.thickness k p v) := by
    unfold State.estimated State.thickness State.frozen State.heldOf State.entryOf
    rw [hst, hch, htrip]
  obtain ⟨hsum, hcount⟩ := hg.estimate p hpu hju
  have hun := hg.unload p hpu hju
  rw [hth, hst] at hsum hcount
  rw [htime, hst] at hun
  exact ⟨hun, hg.gone p hpu hju, hsum, hcount, by rw [hg.mode, hst], fun j hj => by rw [(hg.others j hj).1, hst]⟩

/-- Settles O47, the part on the force limits: they are judged in every mode, and FORCE_LIMIT starts the trip. -/
theorem forceLimits_judged {k : Stand} {v : Int} {p : StandParams} {s b t : State} {o : ForceOrder} {before : Bool}
    (hp : s.stands[k].params = some p) (hnear : s.trips Kind.forceNearLimit = false)
    (hstart : p.loaded v = true → s.points[bitePoint k].started = true)
    (hb : { b with links := s.links, channels := s.channels } = s.stepStart) (ht : t = deliverForce k v o before b) :
    ((k.val + 1) ∈ t.faults[Kind.forceLimit].active ↔ p.forceLimit ≤ v) ∧
    ((k.val + 1) ∈ t.faults[Kind.forceNearLimit].active ↔ p.nearLevel ≤ v) ∧
    (p.forceLimit ≤ v → s.trips Kind.forceLimit = true → (k.val + 1) ∉ s.faults[Kind.forceLimit].active →
      s.trip = .normal → (s.mode = .ready ∨ s.mode = .thread ∨ s.mode = .run) → TripsBy s t Kind.forceLimit (k.val + 1)) := by
  have hbst : b.stands = s.stands := (congrArg State.stands hb :)
  have hbp : b.stands[k].params = some p := by rw [hbst]; exact hp
  have hbpoints : b.points = s.points := (congrArg State.points hb :)
  have hbrows : b.faults = s.faults := (congrArg State.faults hb :)
  have hnone : StartsNone k v b := startsNone_started hbp fun hl => by rw [hbpoints]; exact hstart hl
  have htrip : ∀ u : State, u.stands[k].params = some p → u.policy = s.policy → u.trip = s.trip → u.mode = s.mode →
      u.logTime = s.logTime → u.faults[Kind.forceLimit] = s.faults[Kind.forceLimit] → p.forceLimit ≤ v →
      s.trips Kind.forceLimit = true → (k.val + 1) ∉ s.faults[Kind.forceLimit].active → s.trip = .normal →
      (s.mode = .ready ∨ s.mode = .thread ∨ s.mode = .run) →
      TripsBy s (judgeForceLimits k v u) Kind.forceLimit (k.val + 1) := by
    intro u hup hpol htr hmode hlog hrow hle htrips hfresh hnormal hm
    obtain ⟨hframe, -, -, -, hkept⟩ := limitsEnded_spec p v k u
    have hrow' := (hkept hle).trans hrow
    rw [judgeForceLimits_eq hup]
    generalize limitsEnded p v k u = w at hframe hrow'
    unfold limitEvents
    rw [if_pos hle]
    have hwpol : w.policy = s.policy := (congrArg State.policy hframe :).trans hpol
    refine raiseAll_tripsBy ((congrArg State.logTime hframe :).trans hlog) ((congrArg State.mode hframe :).trans hmode) ?_ ?_ ?_
    · rw [hrow']
      exact hfresh
    · rw [startsTrip_congr (s := s) hwpol ((congrArg State.trip hframe :).trans htr) ((congrArg State.mode hframe :).trans hmode)]
      exact (startsTrip_iff _ _).2 ⟨htrips, hnormal, hm⟩
    · intro c hc
      split at hc
      · rw [List.mem_singleton.1 hc, trips_congr hwpol]
        exact ⟨hnear, show Kind.forceNearLimit ≠ Kind.openTimeout by decide,
          show Kind.forceNearLimit ≠ Kind.forceLimit by decide⟩
      · exact absurd hc List.not_mem_nil
  have hg := forceSample_taken k before v
  rcases deliverForce_orders (o := o) (before := before) hnone with heq | heq
  · rw [heq] at ht
    have hgb := hg b
    generalize takeSample k before (gapForceSample k v) b = u at ht hgb
    have hup : u.stands[k].params = some p := hgb.params.trans hbp
    obtain ⟨h3, h4⟩ := judgeForceLimits_active (v := v) hup
    rw [ht]
    refine ⟨h3, h4, htrip u hup ?_ ?_ ?_ ?_ ?_⟩
    · exact (congrArg State.policy hgb.frame :).trans (congrArg State.policy hb :)
    · exact (congrArg State.trip hgb.frame :).trans (congrArg State.trip hb :)
    · exact (congrArg State.mode hgb.frame :).trans (congrArg State.mode hb :)
    · exact (congrArg State.logTime hgb.frame :).trans (congrArg State.logTime hb :)
    · rw [hgb.ends.others _ (by decide), hbrows]
  · rw [heq] at ht
    obtain ⟨h3, h4⟩ := judgeForceLimits_active (v := v) hbp
    have hby := htrip b hbp (congrArg State.policy hb :) (congrArg State.trip hb :) (congrArg State.mode hb :)
      (congrArg State.logTime hb :) (by rw [hbrows])
    generalize judgeForceLimits k v b = w at ht h3 h4 hby
    have hgw := hg w
    rw [← ht] at hgw
    rw [hgw.ends.others _ (by decide), hgw.ends.others _ (by decide)]
    refine ⟨h3, h4, fun hle htrips hfresh hnormal hm => ?_⟩
    have htripped := hby hle htrips hfresh hnormal hm
    have hopen : w.stands[k].mode = .opened := (htripped.stands k).1
    have hsame : t = w := by
      rw [ht, takeSample_plain (earlierMode_none (by rw [hopen]; decide)),
        gapForceSample_idle (judgesLoad_false (.inr (.inr hopen)))]
    rw [hsame]
    exact htripped

/-- R104: the thickness that enters the estimate of a stand with a segment in its bite. -/
theorem estimated_some {s : State} {k : Stand} {p : StandParams} {v gap : Int} (ht : s.trip = .normal) (hl : p.loaded v = true)
    (hgap : s.heldOf (.gapPos k) = some gap) (hb : s.stands[k].bite.isSome = true) : s.estimated k (s.thickness k p v) =
      some (clampInt (gap + roundDiv ((v - p.zeroForce) * 1000) p.modulus + p.offset) 0 100000) := by
  have hf : ¬ s.frozen = true := by rw [frozen_false ht]; decide
  rw [State.estimated, if_pos ⟨hb, hf⟩, State.thickness, if_pos hl, hgap]
  rfl

theorem estimated_none {s : State} {k : Stand} {p : StandParams} {v : Int}
    (h : p.loaded v = false ∨ s.heldOf (.gapPos k) = none ∨ s.stands[k].bite = none) : s.estimated k (s.thickness k p v) = none := by
  unfold State.estimated State.thickness
  rcases h with h | h | h
  · rw [if_neg (c := p.loaded v = true) (by rw [h]; decide), ite_self]
  · rw [h, Option.map_none, ite_self, ite_self]
  · refine if_neg fun hx => ?_
    rw [h] at hx
    exact absurd hx.1 (by decide)

/-- Settles O47: a FORCE sample judged. -/
theorem forceSamplesJudged : Obligations.ForceSamplesJudged := by
  intro l f o e k v p s started loaded hb hp hnear hloaded hstarted
  have hexec := brings_force o hb
  have hbase : { s.sampled l f e v with links := s.links, channels := s.channels } = s.stepStart := rfl
  have hpl : p.loaded v = loaded := by
    rw [hloaded, Bool.eq_iff_iff, loaded_iff, decide_eq_true_iff]
  have hheld : (s.sampled l f e v).heldOf (.gapPos k) = s.heldOf (.gapPos k) := hb.heldOf_other (by simp)
  refine ⟨fun hm ht hv hls hst => ?_, fun hcase hv => ?_, fun hls => ?_⟩
  · have hnone : StartsNone k v (s.sampled l f e v) := startsNone_started (p := p) hp fun hl => by
      show s.points[bitePoint k].started = true
      rw [← hstarted]
      exact hls (hpl ▸ hl)
    obtain ⟨u, hu, hq⟩ := deliverForce_quiet (o := o.force) (before := o.beforeReport) hnone
      (limitsCalm_below (p := p) hp hnear (.inl hv))
    have hg := forceSample_taken k o.beforeReport v u
    generalize takeSample k o.beforeReport (gapForceSample k v) u = w at hq hg
    generalize deliverForce k v o.force o.beforeReport (s.sampled l f e v) = t at hexec hq
    obtain ⟨hun, hgone, hsum, hcount, hmode, hothers⟩ := forceSample_judged (p := p) (s := s.sampled l f e v) hp
      (judgesLoad_true hm hst) hu hg
    have hstands : t.stands = w.stands := (congrArg State.stands hq.recorded :)
    rw [hpl] at hun hgone
    refine ⟨t, hexec, ?_, fun hl => ?_, fun gap hl hgap hbite => ?_, fun hno => ?_, ?_, fun j hj => ?_⟩
    · rw [hstands, hun]
      show unloadNext loaded s.time s.stands[k].unload = _
      generalize s.stands[k].unload = x
      cases x <;> cases loaded <;> rfl
    · rw [hq.others _ (by decide)]
      exact hgone hl
    · rw [estimated_some (s := s.sampled l f e v) ht (hpl.trans hl) (hheld.trans hgap) hbite] at hsum hcount
      rw [hstands]
      exact ⟨hsum, hcount⟩
    · rw [estimated_none (s := s.sampled l f e v) (by rw [hpl, hheld]; exact hno)] at hsum hcount
      rw [hstands]
      exact ⟨hsum, hcount⟩
    · rw [hstands]
      exact hmode
    · rw [hstands]
      exact hothers j hj
  · have hidle : judgesLoad (s.sampled l f e v) k = false := by
      rcases hcase with h | h | h | ⟨h, -⟩
      · exact judgesLoad_false (.inl (tracking_false (.inl h)))
      · exact judgesLoad_false (.inl (tracking_false (.inr (.inl h))))
      · exact judgesLoad_false (.inl (tracking_false (.inr (.inr h))))
      · exact judgesLoad_false (.inr h)
    have hnone : StartsNone k v (s.sampled l f e v) := by
      rcases hcase with h | h | h | ⟨-, h⟩
      · exact startsNone_mode (tracking_false (.inl h))
      · exact startsNone_mode (tracking_false (.inr (.inl h)))
      · exact startsNone_mode (tracking_false (.inr (.inr h)))
      · refine startsNone_started (p := p) hp fun hl => ?_
        show s.points[bitePoint k].started = true
        rw [← hstarted]
        exact h (hpl ▸ hl)
    obtain ⟨u, hu, hq⟩ := deliverForce_quiet (o := o.force) (before := o.beforeReport) hnone
      (limitsCalm_below (p := p) hp hnear hv)
    have hg := forceSample_taken k o.beforeReport v u
    generalize takeSample k o.beforeReport (gapForceSample k v) u = w at hq hg
    generalize deliverForce k v o.force o.beforeReport (s.sampled l f e v) = t at hexec hq
    obtain ⟨hstands, hacts, -, hsent⟩ := hg.idle
      ((judgesLoad_congr (congrArg State.mode hu.recorded :) (congrArg State.stands hu.recorded :)).trans hidle)
    refine ⟨t, hexec, ?_, ?_, ?_, ?_, ?_, ?_⟩
    · exact (congrArg State.stands hq.recorded :).trans (hstands.trans (congrArg State.stands hu.recorded :))
    · exact (congrArg State.actuators hq.recorded :).trans (hacts.trans (congrArg State.actuators hu.recorded :))
    · exact (congrArg State.points hq.recorded :).trans ((congrArg State.points hg.frame :).trans
        (congrArg State.points hu.recorded :))
    · exact (congrArg State.sent hq.recorded :).trans (hsent.trans (congrArg State.sent hu.recorded :))
    · exact (congrArg State.mode hq.recorded :).trans ((congrArg State.mode hg.frame :).trans (congrArg State.mode hu.recorded :))
    · exact (congrArg State.trip hq.recorded :).trans ((congrArg State.trip hg.frame :).trans (congrArg State.trip hu.recorded :))
  · obtain ⟨h3, h4, htrip⟩ := forceLimits_judged hp hnear (fun hl => by rw [← hstarted]; exact hls (hpl ▸ hl)) hbase rfl
    exact ⟨_, hexec, h3, h4, htrip⟩

end Sys2Proof.Machine

/-! SUPPORT. The evaluation of a stand in GAUGE at a FORCE sample (R105 to R112, R124). -/

namespace Sys2Proof.Machine

/-! ### What an evaluation leaves for the step to show -/

/-- In going from s to t stand k has made one evaluation, and its actuator has taken the reference. -/
structure ReferenceTaken (k : Stand) (p : StandParams) (x : StandTargets) (force : Option Int) (last raw : Int) (s t : State) :
    Prop where
  evaluates : Evaluates s t k p x force last raw
  moves : ∀ r : Int, t.sent = [⟨k, .gapSet r, commandFrameBytes (.gapSet r)⟩] →
    t.actuators[k] = s.actuators[k].moved r s.time (inBand s k r) ∧
    (s.actuators[k].mode = .following → inBand s k r = false →
      standLoc k ∉ t.faults[Kind.positioningTimeout].active ∧ t.stands[k].holds.posTimeout = false)
  still : s.actuators[k].follows = false → t.actuators = s.actuators
  others : ∀ j : Stand, j ≠ k → t.actuators[j] = s.actuators[j]

theorem Evaluated.referenceTaken {k : Stand} {p : StandParams} {x : StandTargets} {force : Option Int} {last raw : Int} {s t : State}
    (h : Evaluated k (guards p (some last) x.smin x.smax force raw) s t) (hlast : s.stands[k].lastSent = some last) (hsent : s.sent = []) :
    ReferenceTaken k p x force last raw s t := by
  have hev := h.evaluates hlast hsent
  generalize guards p (some last) x.smin x.smax force raw = e at h
  obtain ⟨hd, hstands, -, hclear⟩ := h.stand
  have hat : t.stands[k] = { s.stands[k].evaluated e with holds := hd } := by
    rw [hstands]
    exact setStand_same s k _
  have hts := h.sent
  rw [hsent, List.nil_append] at hts
  refine ⟨hev, fun r hr => ?_, fun hoff => ?_, fun j hj => ?_⟩
  · cases hs : e.send with
    | none =>
      rw [hs, hr] at hts
      exact absurd hts (by simp)
    | some r' =>
      rw [hs, hr] at hts
      have hrr : r' = r := by
        by_cases hf : s.actuators[k].follows = true
        · have hcons : [(⟨k, .gapSet r, commandFrameBytes (.gapSet r)⟩ : Sent)] = [⟨k, .gapSet r', commandFrameBytes (.gapSet r')⟩] :=
            hts.trans (if_pos hf)
          injection hcons with h1
          injection h1 with _ h2
          injection h2 with h3
          exact h3.symm
        · exact absurd (hts.trans (if_neg hf)) (by simp)
      subst hrr
      refine ⟨?_, fun hm hn => ⟨h.gone r' hs hm hn, ?_⟩⟩
      · rw [h.actuators, hs]
        exact setActuator_same s k _
      · rw [hat]
        exact hclear r' hs hm hn
  · rw [h.actuators]
    cases e.send with
    | none => rfl
    | some r =>
      show s.actuators.set k _ = _
      rw [moved_off hoff]
      exact Vector.set_getElem_self _
  · rw [h.actuators]
    cases e.send with
    | none => rfl
    | some r => exact (actuators_set_at s k j _).trans (if_neg hj)

/-- What is spoken of agrees in the states before. -/
structure SameBefore (k : Stand) (s s' : State) : Prop where
  counters : s'.stands[k].counters = s.stands[k].counters
  params : s'.stands[k].params = s.stands[k].params
  actuators : s'.actuators = s.actuators
  time : s'.time = s.time
  held : s'.heldOf (.gapPos k) = s.heldOf (.gapPos k)

/-- What is spoken of agrees in the states after. -/
structure SameAfter (k : Stand) (t t' : State) : Prop where
  counters : t'.stands[k].counters = t.stands[k].counters
  lastSent : t'.stands[k].lastSent = t.stands[k].lastSent
  holds : t'.stands[k].holds = t.stands[k].holds
  actuators : t'.actuators = t.actuators
  sent : t'.sent = t.sent
  row : t'.faults[Kind.positioningTimeout] = t.faults[Kind.positioningTimeout]

theorem ReferenceTaken.congr {k : Stand} {p : StandParams} {x : StandTargets} {force : Option Int} {last raw : Int} {s s' t t' : State}
    (h : ReferenceTaken k p x force last raw s' t) (hs : SameBefore k s s') (ht : SameAfter k t t') :
    ReferenceTaken k p x force last raw s t' := by
  have hband : ∀ r, inBand s' k r = inBand s k r := fun r => by
    unfold inBand
    rw [hs.held, hs.params]
  refine ⟨⟨fun c l r near blocked sent hc hl hnear hr hb hsent => ?_⟩, fun r hr => ?_, fun hoff => ?_, fun j hj => ?_⟩
  · obtain ⟨h1, h2, h3, h4⟩ := h.evaluates.result c l r near blocked sent hc hl hnear hr hb hsent
    rw [hs.counters] at h2
    rw [hs.actuators] at h3 h4
    rw [ht.lastSent, ht.counters, ht.actuators, ht.sent]
    exact ⟨h1, h2, h3, h4⟩
  · obtain ⟨h1, h2⟩ := h.moves r (by rw [← ht.sent]; exact hr)
    rw [hs.actuators, hs.time, hband] at h1
    rw [hs.actuators, hband] at h2
    rw [ht.actuators, ht.row, ht.holds]
    exact ⟨h1, h2⟩
  · rw [ht.actuators, h.still (by rw [hs.actuators]; exact hoff), hs.actuators]
  · rw [ht.actuators, h.others j hj, hs.actuators]

/-! ### Samples taken in a mode that the stand has left (R124, R131) -/

/-- The stand takes the sample in mode m, in a state that differs in no more than that mode. -/
theorem takeSample_in {k : Stand} {before : Bool} {f : State → State} {s : State} {m : StandMode} (hm : m = .gauge ∨ m = .position)
    (h : s.stands[k].mode = m ∨ (s.stands[k].mode = .hold ∧ s.heldFrom[k] = some m ∧ before = true)) :
    ∃ w : State, { w with stands := s.stands, heldFrom := s.heldFrom } = s ∧ w.stands[k] = { s.stands[k] with mode := m } ∧
      SameBefore k s w ∧ SameAfter k (f w) (takeSample k before f s) := by
  rcases h with h | ⟨h, hheld, hb⟩
  · refine ⟨s, rfl, by rw [← h], ⟨rfl, rfl, rfl, rfl, rfl⟩, ?_⟩
    rw [takeSample_plain (earlierMode_none (by rw [h]; rcases hm with rfl | rfl <;> decide))]
    exact ⟨rfl, rfl, rfl, rfl, rfl, rfl⟩
  · have hat : (s.takenIn k m).stands[k] = { s.stands[k] with mode := m } := setStand_same s k _
    refine ⟨s.takenIn k m, rfl, hat, ⟨by rw [hat], by rw [hat], rfl, rfl, rfl⟩, ?_⟩
    rw [takeSample_earlier (earlierMode_some.2 ⟨hb, h, hheld, hm⟩)]
    generalize f (s.takenIn k m) = t
    have hag : (t.heldAgain k).stands[k] = { t.stands[k] with mode := .hold } := setStand_same t k _
    exact ⟨by rw [hag], by rw [hag], by rw [hag], rfl, rfl, rfl⟩

/-! ### The gauge evaluation (R105 to R107) -/

/-- R105: the raw reference of a gauge evaluation. -/
def gaugeRaw (k : Stand) (p : StandParams) (g : Segment) (x : InForce) (n : SegNo) (trim : Int) (hgm : Option Int) : Int :=
  x.effS n k + trim + (hgm.elim 0 fun h => feedback p x.sched.stands[k].q (h - x.effH n k)) +
    ((hgm.bind fun _ => incoming g k).elim 0 fun hin => feedforward p x.sched.stands[k].q (hin - x.effBefore n k))

theorem gaugeEvaluation_eq {k : Stand} {p : StandParams} {v : Int} {hgm : Option Int} {s : State} {n : SegNo} {g : Segment}
    {x : InForce} (hb : s.stands[k].bite = some n) (hg : s.segment n = some g) (hx : s.inForce g.tag = some x) :
    gaugeEvaluation k p v hgm s =
      finishEvaluation k p x.sched.stands[k] (some v) (gaugeRaw k p g x n s.stands[k].trim hgm) s := by
  have hsch : s.scheduleOf n = some x := by simp only [State.scheduleOf, hg, hx]
  simp only [gaugeEvaluation, hb, hg, hsch, gaugeRaw]
  cases hgm with
  | none => rfl
  | some h => cases incoming g k <;> rfl

/-- R105, R109 to R112: the evaluation that a stand in GAUGE makes at a FORCE sample. -/
theorem gaugeSample_taken {k : Stand} {p : StandParams} {v last : Int} {s : State} {n : SegNo} {g : Segment} {x : InForce}
    (hp : s.stands[k].params = some p) (hm : s.mode = .thread ∨ s.mode = .run) (hmode : s.stands[k].mode = .gauge)
    (hb : s.stands[k].bite = some n) (hg : s.segment n = some g) (hx : s.inForce g.tag = some x)
    (hlast : s.stands[k].lastSent = some last) (hsent : s.sent = []) : ReferenceTaken k p x.sched.stands[k] (some v) last
      (gaugeRaw k p g x n s.stands[k].trim (s.thickness k p v)) s (gapForceSample k v s) := by
  rw [gapForceSample_eq hp (judgesLoad_true hm (.inr (.inr hmode)))]
  have hl := loadJudged_spec k p v s
  generalize loadJudged k p v s = u at hl
  have hat : u.stands[k] = s.stands[k].judged (p.loaded v) s.time (s.estimated k (s.thickness k p v)) := by
    rw [hl.stands]
    exact setStand_same s k _
  have hring : u.ring = s.ring := (congrArg State.ring hl.frame :)
  have htable : u.table = s.table := (congrArg State.table hl.frame :)
  have hch : u.channels = s.channels := (congrArg State.channels hl.frame :)
  have hsame : SameBefore k s u := by
    refine ⟨by rw [hat]; rfl, by rw [hat]; rfl, (congrArg State.actuators hl.frame :), (congrArg State.time hl.frame :), ?_⟩
    unfold State.heldOf State.entryOf
    rw [hch]
  have hev : gaugeEvaluation k p v (s.thickness k p v) u =
      finishEvaluation k p x.sched.stands[k] (some v) (gaugeRaw k p g x n u.stands[k].trim (s.thickness k p v)) u := by
    refine gaugeEvaluation_eq ?_ ?_ ?_
    · rw [hat]
      exact hb
    · rw [State.segment, hring]
      exact hg
    · rw [State.inForce, htable]
      exact hx
  have htrim : u.stands[k].trim = s.stands[k].trim := by rw [hat]; rfl
  rw [htrim] at hev
  dsimp only
  rw [if_pos (by rw [hat]; exact hmode), hev]
  have hlast' : u.stands[k].lastSent = some last := by rw [hat]; exact hlast
  exact ((finishEvaluation_evaluated k p x.sched.stands[k] (some v) _ u _ (by rw [hlast'])).referenceTaken hlast'
    ((congrArg State.sent hl.frame :).trans hsent)).congr hsame ⟨rfl, rfl, rfl, rfl, rfl, rfl⟩

theorem incoming_eq {g : Segment} {k : Stand} {hin : Option Int} (h0 : k.val = 0 → hin = g.entry.map (·.1))
    (h1 : k.val = 1 → hin = (match g.x1 with
      | some m => some m.1
      | none => (g.estimates.find? (·.stand.val == 0)).bind (·.mean)))
    (h2 : 2 ≤ k.val → hin = (g.estimates.find? (·.stand.val + 1 == k.val)).bind (·.mean)) : incoming g k = hin := by
  have hest : ∀ j, estimateMean g j = (g.estimates.find? (·.stand.val == j)).bind (·.mean) := fun j => by
    unfold estimateMean
    cases g.estimates.find? (·.stand.val == j) <;> rfl
  obtain ⟨i, hi⟩ := k
  match i, hi with
  | 0, _ => exact (h0 rfl).symm
  | 1, _ =>
    rw [h1 rfl, ← hest]
    rfl
  | j + 2, _ =>
    rw [h2 (Nat.le_add_left 2 j)]
    refine (hest (j + 1)).trans ?_
    congr 1
    refine congrArg (List.find? · g.estimates) (funext fun e => ?_)
    rw [Bool.eq_iff_iff, beq_iff_eq, beq_iff_eq]
    exact ⟨fun h => congrArg (· + 1) h, fun h => Nat.succ.inj h⟩

/-! ### What the actuator makes of the reference (R124) -/

theorem inBand_true {s : State} {k : Stand} {r d : Int} {p : StandParams} (hp : s.stands[k].params = some p)
    (hd : s.heldOf (.gapPos k) = some d) (h : |r - d| ≤ p.moveBand) : inBand s k r = true := by
  simp only [inBand, hd, hp, decide_eq_true_eq]
  exact h

theorem inBand_false {s : State} {k : Stand} {r : Int} {p : StandParams} (hp : s.stands[k].params = some p)
    (h : ∀ d, s.heldOf (.gapPos k) = some d → p.moveBand < |r - d|) : inBand s k r = false := by
  cases hd : s.heldOf (.gapPos k) with
  | none => simp only [inBand, hd]
  | some d =>
    simp only [inBand, hd, hp, decide_eq_false_iff_not, not_le]
    exact h d hd

theorem ReferenceTaken.near {k : Stand} {p q : StandParams} {x : StandTargets} {force : Option Int} {last raw r d : Int} {s t : State}
    (h : ReferenceTaken k q x force last raw s t) (hp : s.stands[k].params = some p)
    (hr : t.sent = [⟨k, .gapSet r, commandFrameBytes (.gapSet r)⟩])
    (hm : s.actuators[k].mode = .idle ∨ s.actuators[k].mode = .following) (hd : s.heldOf (.gapPos k) = some d)
    (hn : |r - d| ≤ p.moveBand) : t.actuators[k].mode = .following ∧ t.actuators[k].posTimer = s.actuators[k].posTimer := by
  obtain ⟨hact, -⟩ := h.moves r hr
  rw [hact, inBand_true hp hd hn, moved_near hm]
  exact ⟨rfl, rfl⟩

theorem ReferenceTaken.far {k : Stand} {p q : StandParams} {x : StandTargets} {force : Option Int} {last raw r : Int} {s t : State}
    (h : ReferenceTaken k q x force last raw s t) (hp : s.stands[k].params = some p)
    (hr : t.sent = [⟨k, .gapSet r, commandFrameBytes (.gapSet r)⟩])
    (hm : s.actuators[k].mode = .idle ∨ s.actuators[k].mode = .following)
    (hn : ∀ d, s.heldOf (.gapPos k) = some d → p.moveBand < |r - d|) :
    t.actuators[k].mode = .moving ∧ t.actuators[k].posTimer = some s.time ∧
    (s.actuators[k].mode = .following →
      (k.val + 1) ∉ t.faults[Kind.positioningTimeout].active ∧ t.stands[k].holds.posTimeout = false) := by
  obtain ⟨hact, hends⟩ := h.moves r hr
  have hb := inBand_false hp hn
  rw [hact, hb, moved_far hm]
  exact ⟨rfl, rfl, fun hf => hends hf hb⟩

theorem ReferenceTaken.moving {k : Stand} {q : StandParams} {x : StandTargets} {force : Option Int} {last raw r : Int} {s t : State}
    (h : ReferenceTaken k q x force last raw s t) (hr : t.sent = [⟨k, .gapSet r, commandFrameBytes (.gapSet r)⟩])
    (hm : s.actuators[k].mode = .moving) :
    t.actuators[k].mode = .moving ∧ t.actuators[k].posTimer = s.actuators[k].posTimer := by
  obtain ⟨hact, -⟩ := h.moves r hr
  rw [hact, moved_moving hm]
  exact ⟨hm, rfl⟩

theorem follows_false {a : Actuator} (h : a.mode = .unlinked ∨ a.mode = .faulted ∨ a.mode = .opening ∨ a.mode = .opened) :
    a.follows = false := by
  unfold Actuator.follows
  rcases h with h | h | h | h <;> rw [h] <;> rfl

/-! ### The statement -/

/-- R105, R124: the readers of a FORCE sample that a stand takes in GAUGE, where it starts neither a point nor a trip. -/
theorem deliverForce_evaluates {k : Stand} {p : StandParams} {v last : Int} {o : ReaderOrder} {s : State} {n : SegNo} {g : Segment}
    {x : InForce} (hp : s.stands[k].params = some p) (hm : s.mode = .thread ∨ s.mode = .run) (hstart : StartsNone k v s)
    (hcalm : LimitsCalm k v s) (htakes : TakesIn s k o .gauge) (hb : s.stands[k].bite = some n) (hg : s.segment n = some g)
    (hx : s.inForce g.tag = some x) (hlast : s.stands[k].lastSent = some last) (hsent : s.sent = []) :
    ReferenceTaken k p x.sched.stands[k] (some v) last (gaugeRaw k p g x n s.stands[k].trim (s.thickness k p v)) s
      (deliverForce k v o.force o.beforeReport s) := by
  obtain ⟨u, hu, hq⟩ := deliverForce_quiet (o := o.force) (before := o.beforeReport) hstart hcalm
  have hst : u.stands = s.stands := (congrArg State.stands hu.recorded :)
  have hch : u.channels = s.channels := (congrArg State.channels hu.recorded :)
  have hheld : u.heldOf (.gapPos k) = s.heldOf (.gapPos k) := by
    unfold State.heldOf State.entryOf
    rw [hch]
  have hfrom : u.heldFrom = s.heldFrom := (congrArg State.heldFrom hu.recorded :)
  obtain ⟨w, hframe, hat, hbefore, hafter⟩ := takeSample_in (k := k) (before := o.beforeReport) (f := gapForceSample k v) (s := u)
    (.inl rfl) (by rw [hst, hfrom]; exact htakes)
  have hthick : w.thickness k p v = s.thickness k p v := by
    unfold State.thickness
    rw [hbefore.held, hheld]
  have hwring : w.ring = s.ring := (congrArg State.ring hframe :).trans (congrArg State.ring hu.recorded :)
  have hwtable : w.table = s.table := (congrArg State.table hframe :).trans (congrArg State.table hu.recorded :)
  have hwmode : w.mode = s.mode := (congrArg State.mode hframe :).trans (congrArg State.mode hu.recorded :)
  have hwsent : w.sent = s.sent := (congrArg State.sent hframe :).trans (congrArg State.sent hu.recorded :)
  rw [hst] at hat
  have hr := gaugeSample_taken (k := k) (p := p) (v := v) (last := last) (s := w) (n := n) (g := g) (x := x)
    (by rw [hat]; exact hp) (by rw [hwmode]; exact hm) (by rw [hat]) (by rw [hat]; exact hb)
    (by rw [State.segment, hwring]; exact hg) (by rw [State.inForce, hwtable]; exact hx) (by rw [hat]; exact hlast)
    (hwsent.trans hsent)
  have htrim : w.stands[k].trim = s.stands[k].trim := by rw [hat]
  rw [hthick, htrim] at hr
  have hsame : SameBefore k s u := ⟨by rw [hst], by rw [hst], (congrArg State.actuators hu.recorded :),
    (congrArg State.time hu.recorded :), hheld⟩
  have hts := congrArg State.stands hq.recorded
  generalize deliverForce k v o.force o.beforeReport s = t at hq hts ⊢
  have hstands : t.stands = (takeSample k o.beforeReport (gapForceSample k v) u).stands := hts
  have hdone : SameAfter k (takeSample k o.beforeReport (gapForceSample k v) u) t :=
    ⟨by rw [hstands], by rw [hstands], by rw [hstands], (congrArg State.actuators hq.recorded :),
      (congrArg State.sent hq.recorded :), hq.others _ (by decide)⟩
  exact ((hr.congr hbefore hafter).congr hsame hdone)

/-- Settles O48: the evaluation of a stand in GAUGE at a FORCE sample. -/
theorem gaugeEvaluations : Obligations.GaugeEvaluations := by
  intro l f o e k v last p s g x n gap hin fb ff hbr hp hnear hm htrip hv hls htakes hb hg hx hlast hgap h0 h1 h2 hfb hff
  have hheld : (s.sampled l f e v).heldOf (.gapPos k) = s.heldOf (.gapPos k) := hbr.heldOf_other (by simp)
  have hstart : StartsNone k v (s.sampled l f e v) := startsNone_started (p := p) hp fun hl => hls ((loaded_iff p v).1 hl)
  have hcalm : LimitsCalm k v (s.sampled l f e v) := limitsCalm_below (p := p) hp hnear (.inl hv)
  have hr := deliverForce_evaluates (p := p) (last := last) (o := o) (s := s.sampled l f e v) (n := n) (g := g) (x := x) hp hm
    hstart hcalm htakes hb hg hx hlast rfl
  obtain ⟨u, hu, hq⟩ := deliverForce_quiet (o := o.force) (before := o.beforeReport) hstart hcalm
  have hfs := forceSample_taken k o.beforeReport v u
  have hthick : (s.sampled l f e v).thickness k p v = gap.map (gaugemeter p v) := by
    unfold State.thickness
    rw [hheld, hgap]
    by_cases hl : p.zeroForce + p.bite < v
    · rw [if_pos hl, if_pos ((loaded_iff p v).2 hl)]
    · rw [if_neg hl, if_neg fun hx => hl ((loaded_iff p v).1 hx)]
      rfl
  have hraw : gaugeRaw k p g x n s.stands[k].trim ((s.sampled l f e v).thickness k p v) =
      x.effS n k + s.stands[k].trim + fb + ff := by
    rw [hthick, gaugeRaw, incoming_eq h0 h1 h2, hfb, hff]
    cases gap with
    | none => rfl
    | some d => cases hin <;> rfl
  have hr' := hr.congr (s := s) (t' := deliverForce k v o.force o.beforeReport (s.sampled l f e v))
    ⟨rfl, rfl, rfl, rfl, hheld⟩ ⟨rfl, rfl, rfl, rfl, rfl, rfl⟩
  have htrimeq : (s.sampled l f e v).stands[k].trim = s.stands[k].trim := rfl
  rw [htrimeq, hraw] at hr'
  have hexec := brings_force o hbr
  generalize takeSample k o.beforeReport (gapForceSample k v) u = w at hq hfs
  generalize deliverForce k v o.force o.beforeReport (s.sampled l f e v) = t at hexec hr' hq
  have hts : t.stands = w.stands := (congrArg State.stands hq.recorded :)
  have hus : u.stands = s.stands := (congrArg State.stands hu.recorded :)
  refine ⟨t, hexec, hr'.evaluates, fun r hs => ⟨fun hmode => ⟨fun ⟨d, hd, hn⟩ => hr'.near hp hs hmode hd hn, fun hn =>
    hr'.far hp hs hmode hn⟩, fun hmode => hr'.moving hs hmode⟩, fun hoff => hr'.still (follows_false hoff), hr'.others, ?_, ?_, ?_,
    ?_, ?_⟩
  · rw [hts, hfs.trim, hus]
  · rw [hts, hfs.mode, hus]
  · exact (congrArg State.ring hq.recorded :).trans ((congrArg State.ring hfs.frame :).trans (congrArg State.ring hu.recorded :))
  · exact (congrArg State.points hq.recorded :).trans ((congrArg State.points hfs.frame :).trans
      (congrArg State.points hu.recorded :))
  · exact (congrArg State.table hq.recorded :).trans ((congrArg State.table hfs.frame :).trans (congrArg State.table hu.recorded :))

end Sys2Proof.Machine

/-! SUPPORT. A GAP_POS sample as the actuator's supervisor judges it (R125, R128), and as its stand takes it (R102, R108). -/

namespace Sys2Proof.Machine

/-! ### The actuator judged (R125, R126, R128) -/

/-- R125: a gap position within the move band of the actuator's target. -/
def Actuator.within (a : Actuator) (p : StandParams) (v : Int) : Bool := a.target.elim false fun d => decide (|v - d| ≤ p.moveBand)

/-- What the judgement of a GAP_POS sample makes of the actuator, and of what follows it. -/
structure GapActs (k : Stand) (p : StandParams) (v : Int) (s t : State) : Prop where
  arrives : s.actuators[k].mode = .moving → s.actuators[k].within p v = true →
    t.actuators = s.actuators.set k { s.actuators[k] with mode := .following, posTimer := none }
  opens : s.actuators[k].mode = .opening → p.openGap - p.moveBand ≤ v →
    t.actuators = s.actuators.set k { s.actuators[k] with mode := .opened, openTimer := none } ∧
    standLoc k ∉ t.faults[Kind.openTimeout].active ∧ (s.trip = .opening → t.opened = s.opened.set k true ∧
      t.trip = if s.opened.set k true = Vector.replicate 6 true then .safe else .opening)
  still : s.actuators[k].mode ≠ .opening ∨ v < p.openGap - p.moveBand → t.opened = s.opened ∧ t.trip = s.trip ∧
    (s.actuators[k].mode ≠ .moving ∨ s.actuators[k].within p v = false → t.actuators = s.actuators)
  settles : s.actuators[k].mode = .following → s.actuators[k].within p v = true →
    standLoc k ∈ s.faults[Kind.positioningTimeout].active →
    standLoc k ∉ t.faults[Kind.positioningTimeout].active ∧ t.stands[k].holds.posTimeout = false
  row : s.actuators[k].mode ≠ .following ∨ s.actuators[k].within p v = false →
    t.faults[Kind.positioningTimeout] = s.faults[Kind.positioningTimeout]

/-- What the judgement of a GAP_POS sample writes. -/
structure GapJudged (k : Stand) (p : StandParams) (v : Int) (s t : State) : Prop where
  acts : GapActs k p v s t
  frame : { t with
    actuators := s.actuators, stands := s.stands, faults := s.faults, trip := s.trip, opened := s.opened, logs := s.logs
    port := s.port } = s
  stands : ∃ h, t.stands = s.stands.set k { s.stands[k] with holds := h } ∧
    (h = s.stands[k].holds ∨ h = s.stands[k].holds.put .positioningTimeout false)
  ends : Ends [Kind.positioningTimeout, Kind.openTimeout] s t
  target : t.actuators[k].target = s.actuators[k].target ∧ t.actuators[k].follows = s.actuators[k].follows
  others : ∀ j : Stand, j ≠ k → t.actuators[j] = s.actuators[j]

theorem judgeGapSample_eq {k : Stand} {p : StandParams} {v : Int} {s : State} (hp : s.stands[k].params = some p) :
    judgeGapSample k v s =
      if s.actuators[k].mode = .moving ∧ s.actuators[k].within p v = true then setActMode k .following s
      else if s.actuators[k].mode = .following ∧ s.actuators[k].within p v = true ∧
        standLoc k ∈ s.faults[Kind.positioningTimeout].active then
        endsWithCause .positioningTimeout Kind.positioningTimeout k s
      else if s.actuators[k].mode = .opening ∧ p.openGap - p.moveBand ≤ v then setActMode k .opened s
      else s := by
  unfold judgeGapSample Actuator.within
  simp only [hp]
  generalize s.actuators[k].target = target
  cases s.actuators[k].mode with
  | moving => cases target <;> simp
  | following => cases target <;> simp [endsWithCause]
  | opening => simp
  | unlinked => simp
  | idle => simp
  | opened => simp
  | faulted => simp

theorem reachedOpen_frame (k : Stand) (s : State) :
    { reachedOpen k s with trip := s.trip, opened := s.opened, logs := s.logs, port := s.port } = s := by
  unfold reachedOpen
  dsimp only
  by_cases hn : s.trip = .normal
  · rw [if_pos hn]
    split
    next =>
      split <;> rfl
    next => rfl
  · rw [if_neg hn]
    split
    next =>
      split <;> rfl
    next => rfl

theorem gapJudged_arrives {k : Stand} {p : StandParams} {v : Int} {s : State} (hm : s.actuators[k].mode = .moving)
    (hw : s.actuators[k].within p v = true) : GapJudged k p v s (setActMode k .following s) := by
  have heq : setActMode k .following s = s.setActuator k { s.actuators[k] with mode := .following, posTimer := none } := by
    rw [setActMode_change (by rw [hm]; decide), into_kept (by decide), if_pos hm, hm]
    rfl
  have hfol : s.actuators[k].follows = true := (follows_iff _).2 (.inr (.inr hm))
  have hat : (setActMode k .following s).actuators[k] = { s.actuators[k] with mode := .following, posTimer := none } := by
    rw [heq]
    exact setActuator_same s k _
  refine ⟨⟨fun _ _ => by rw [heq]; rfl, fun ho => absurd (hm.symm.trans ho) (by decide),
    fun _ => ⟨by rw [heq]; rfl, by rw [heq]; rfl, fun hn => ?_⟩, fun hf => absurd (hm.symm.trans hf) (by decide),
    fun _ => by rw [heq]; rfl⟩, by rw [heq]; rfl, ⟨_, by rw [heq]; exact stands_self s k, .inl rfl⟩,
    Ends.of_faults (by rw [heq]; rfl) _, ⟨by rw [hat], by rw [hat, hfol]; rfl⟩, fun j hj => ?_⟩
  · rcases hn with hn | hn
    · exact absurd hm hn
    · exact absurd (hw.symm.trans hn) (by decide)
  · rw [heq]
    exact (actuators_set_at s k j _).trans (if_neg hj)

theorem gapJudged_settles {k : Stand} {p : StandParams} {v : Int} {s : State} (hm : s.actuators[k].mode = .following)
    (hw : s.actuators[k].within p v = true) :
    GapJudged k p v s (endsWithCause .positioningTimeout Kind.positioningTimeout k s) := by
  refine ⟨⟨fun ha => absurd (hm.symm.trans ha) (by decide), fun ho => absurd (hm.symm.trans ho) (by decide),
    fun _ => ⟨rfl, rfl, fun _ => rfl⟩, fun _ _ _ => ⟨endsWithCause_gone _ _ _ _, ?_⟩, fun hn => ?_⟩, rfl, ⟨_, rfl, .inr rfl⟩,
    (endsWithCause_ends _ _ _ _).mono (by simp), ⟨rfl, rfl⟩, fun _ _ => rfl⟩
  · rw [endsWithCause_stand, if_pos rfl]
    rfl
  · rcases hn with hn | hn
    · exact absurd hm hn
    · exact absurd (hw.symm.trans hn) (by decide)

theorem gapJudged_opens {k : Stand} {p : StandParams} {v : Int} {s : State} (hm : s.actuators[k].mode = .opening)
    (hv : p.openGap - p.moveBand ≤ v) : GapJudged k p v s (setActMode k .opened s) := by
  have hnm : s.actuators[k].mode ≠ .moving := by rw [hm]; decide
  obtain ⟨-, htrip⟩ := setActMode_opened (k := k) (s := s) (by rw [hm]; decide) hnm
  have heq : setActMode k .opened s = reachedOpen k
      ((s.setActuator k { s.actuators[k] with mode := .opened, openTimer := none }).inactive Kind.openTimeout (standLoc k)) := by
    rw [setActMode_change (by rw [hm]; decide), Actuator.into, if_neg hnm, if_pos rfl, hm]
    rfl
  have hends := (Ends.of_faults (s := s) (t := s.setActuator k { s.actuators[k] with mode := .opened, openTimer := none }) rfl
    [Kind.openTimeout]).trans (inactive_ends _ Kind.openTimeout (standLoc k))
  have hgone := inactive_gone (s.setActuator k { s.actuators[k] with mode := .opened, openTimer := none }) Kind.openTimeout (standLoc k)
  rw [heq] at htrip ⊢
  have hfol : s.actuators[k].follows = false := follows_false (.inr (.inr (.inl hm)))
  have hframe := reachedOpen_frame k
    ((s.setActuator k { s.actuators[k] with mode := .opened, openTimer := none }).inactive Kind.openTimeout (standLoc k))
  generalize reachedOpen k
    ((s.setActuator k { s.actuators[k] with mode := .opened, openTimer := none }).inactive Kind.openTimeout (standLoc k)) = t
    at htrip hframe
  have hacts : t.actuators = s.actuators.set k { s.actuators[k] with mode := .opened, openTimer := none } :=
    (congrArg State.actuators hframe :)
  have hfaults : t.faults = ((s.setActuator k { s.actuators[k] with mode := .opened, openTimer := none }).inactive
    Kind.openTimeout (standLoc k)).faults := (congrArg State.faults hframe :)
  have hat : t.actuators[k] = { s.actuators[k] with mode := .opened, openTimer := none } := by
    rw [hacts]
    exact setActuator_same s k _
  refine ⟨⟨fun ha => absurd ha hnm, fun _ _ => ⟨hacts, by rw [hfaults]; exact hgone, htrip⟩, fun hn => ?_,
    fun hf => absurd (hm.symm.trans hf) (by decide), fun _ => ?_⟩, ?_,
    ⟨_, (congrArg State.stands hframe :).trans (stands_self s k), .inl rfl⟩,
    (hends.mono (by simp)).trans (Ends.of_faults hfaults _), ⟨by rw [hat], by rw [hat, hfol]; rfl⟩, fun j hj => ?_⟩
  · rcases hn with hn | hn
    · exact absurd hm hn
    · exact absurd hv (not_le.2 hn)
  · rw [hfaults]
    exact hends.others _ (by decide)
  · exact (congrArg (fun x : State => { x with
      actuators := s.actuators, stands := s.stands, faults := s.faults, trip := s.trip, opened := s.opened, logs := s.logs
      port := s.port }) hframe :)
  · rw [hacts]
    exact (actuators_set_at s k j _).trans (if_neg hj)

/-- R125, R126, R128: what the judgement of a GAP_POS sample does. -/
theorem judgeGapSample_judged {k : Stand} {p : StandParams} {s : State} (v : Int) (hp : s.stands[k].params = some p) :
    GapJudged k p v s (judgeGapSample k v s) := by
  rw [judgeGapSample_eq hp]
  split
  next h => exact gapJudged_arrives h.1 h.2
  next ha =>
    split
    next h => exact gapJudged_settles h.1 h.2.1
    next hs =>
      split
      next h => exact gapJudged_opens h.1 h.2
      next ho =>
        exact ⟨⟨fun h hw => absurd ⟨h, hw⟩ ha, fun h hv => absurd ⟨h, hv⟩ ho, fun _ => ⟨rfl, rfl, fun _ => rfl⟩,
          fun h hw hx => absurd ⟨h, hw, hx⟩ hs, fun _ => rfl⟩, rfl, ⟨_, stands_self s k, .inl rfl⟩, Ends.refl _ s, ⟨rfl, rfl⟩,
          fun _ _ => rfl⟩

/-! ### The stand's own taking of the sample (R102, R108) -/

/-- Stand k has at most another mode than before. -/
structure ModeAlone (k : Stand) (s t : State) : Prop where
  frame : { t with stands := s.stands, heldFrom := s.heldFrom } = s
  stands : ∃ m, t.stands = s.stands.set k { s.stands[k] with mode := m }

theorem ModeAlone.refl (k : Stand) (s : State) : ModeAlone k s s := ⟨rfl, _, stands_self s k⟩

theorem ModeAlone.trans {k : Stand} {s t u : State} (h : ModeAlone k s t) (h' : ModeAlone k t u) : ModeAlone k s u := by
  obtain ⟨m, hm⟩ := h.stands
  obtain ⟨m', hm'⟩ := h'.stands
  refine ⟨(congrArg (fun x : State => { x with stands := s.stands, heldFrom := s.heldFrom }) h'.frame :).trans h.frame, m', ?_⟩
  have hat : t.stands[k] = { s.stands[k] with mode := m } := by
    rw [hm]
    exact setStand_same s k _
  rw [hm', hat, hm]
  exact Vector.set_set _ _

theorem returnPoint_modeAlone (k : Stand) (s : State) : ModeAlone k s (returnPoint k s) := ⟨rfl, _, rfl⟩

theorem gapPosSample_modeAlone {k : Stand} {s : State} (h : s.tracking = false ∨ s.stands[k].mode ≠ .position) :
    ModeAlone k s (gapPosSample k s) := by
  have hn : ¬ (s.tracking = true ∧ s.stands[k].mode = .position) := fun hx => by
    rcases h with h | h
    · exact absurd (h.symm.trans hx.1) (by decide)
    · exact h hx.2
  unfold gapPosSample
  rw [if_neg hn]
  dsimp only
  split
  next => exact returnPoint_modeAlone k s
  next => exact ModeAlone.refl k s

theorem takeGapPos_modeAlone {k : Stand} {before : Bool} {s : State} (h : s.tracking = false ∨
    ¬ (s.stands[k].mode = .position ∨ (s.stands[k].mode = .hold ∧ s.heldFrom[k] = some .position ∧ before = true))) :
    ModeAlone k s (takeSample k before (gapPosSample k) s) := by
  cases he : earlierMode k before s with
  | none =>
    rw [takeSample_plain he]
    exact gapPosSample_modeAlone (h.imp_right fun hn hm => hn (.inl hm))
  | some m =>
    rw [takeSample_earlier he]
    obtain ⟨hb, hold, hheld, -⟩ := earlierMode_some.1 he
    have hin : ModeAlone k s (s.takenIn k m) := ⟨rfl, m, rfl⟩
    have hat : (s.takenIn k m).stands[k].mode = m := by
      have := setStand_same s k { s.stands[k] with mode := m }
      exact congrArg StandCtl.mode this
    have hs : ModeAlone k (s.takenIn k m) (gapPosSample k (s.takenIn k m)) := by
      refine gapPosSample_modeAlone (h.imp (fun ht => ht) fun hn hm => hn (.inr ⟨hold, ?_, hb⟩))
      rw [hheld, ← hat, hm]
    exact (hin.trans hs).trans ⟨rfl, .hold, rfl⟩

/-! ### The position evaluation (R108) -/

theorem positionEvaluation_eq {k : Stand} {p : StandParams} {s : State} {x : InForce} {base : Int}
    (hp : s.stands[k].params = some p) (hnone : s.stands[k].bite = none → s.entrySchedule = some x ∧ base = x.sched.stands[k].sset)
    (hsome : ∀ n, s.stands[k].bite = some n → s.scheduleOf n = some x ∧ base = x.effS n k) : positionEvaluation k s =
      finishEvaluation k p x.sched.stands[k] (s.heldOf (.force k)) (base + s.stands[k].trim) s := by
  cases hb : s.stands[k].bite with
  | none =>
    obtain ⟨hx, rfl⟩ := hnone hb
    simp only [positionEvaluation, hp, State.governing, hb, hx]
  | some n =>
    obtain ⟨hx, rfl⟩ := hsome n hb
    simp only [positionEvaluation, hp, State.governing, hb, hx]

/-- R108: the evaluation that a stand in POSITION makes at a GAP_POS sample. -/
theorem gapPosSample_evaluates {k : Stand} {p : StandParams} {last base : Int} {s : State} {x : InForce}
    (hp : s.stands[k].params = some p) (hm : s.tracking = true) (hmode : s.stands[k].mode = .position)
    (hnone : s.stands[k].bite = none → s.entrySchedule = some x ∧ base = x.sched.stands[k].sset)
    (hsome : ∀ n, s.stands[k].bite = some n → s.scheduleOf n = some x ∧ base = x.effS n k)
    (hlast : s.stands[k].lastSent = some last) (hsent : s.sent = []) :
    ReferenceTaken k p x.sched.stands[k] (s.heldOf (.force k)) last (base + s.stands[k].trim) s (gapPosSample k s) := by
  unfold gapPosSample
  rw [if_pos (c := s.tracking = true ∧ s.stands[k].mode = .position) ⟨hm, hmode⟩, positionEvaluation_eq hp hnone hsome]
  have hr := (finishEvaluation_evaluated k p x.sched.stands[k] (s.heldOf (.force k)) (base + s.stands[k].trim) s _
    (by rw [hlast])).referenceTaken hlast hsent
  generalize finishEvaluation k p x.sched.stands[k] (s.heldOf (.force k)) (base + s.stands[k].trim) s = t at hr
  dsimp only
  split
  next =>
    have hat : (returnPoint k t).stands[k] = { t.stands[k] with mode := returnMode t k } := setStand_same t k _
    exact hr.congr ⟨rfl, rfl, rfl, rfl, rfl⟩ ⟨by rw [hat], by rw [hat], by rw [hat], rfl, rfl, rfl⟩
  next => exact hr

/-- What a GAP_POS sample may write at its stand, whatever its mode. -/
structure GapTaken (k : Stand) (s t : State) : Prop where
  frame : { t with
    stands := s.stands, actuators := s.actuators, faults := s.faults, sent := s.sent, heldFrom := s.heldFrom } = s
  others : ∀ j : Stand, j ≠ k → t.actuators[j] = s.actuators[j]
  params : t.stands[k].params = s.stands[k].params
  trim : t.stands[k].trim = s.stands[k].trim
  gapLost : t.stands[k].holds.gapLost = s.stands[k].holds.gapLost
  ends : Ends [Kind.positioningTimeout] s t

theorem ModeAlone.gapTaken {k : Stand} {s t : State} (h : ModeAlone k s t) : GapTaken k s t := by
  obtain ⟨m, hm⟩ := h.stands
  have hat : t.stands[k] = { s.stands[k] with mode := m } := by
    rw [hm]
    exact setStand_same s k _
  have hacts : t.actuators = s.actuators := (congrArg State.actuators h.frame :)
  have hfaults : t.faults = s.faults := (congrArg State.faults h.frame :)
  exact ⟨(congrArg (fun x : State => { x with actuators := s.actuators, faults := s.faults, sent := s.sent }) h.frame :),
    fun j _ => by rw [hacts], by rw [hat], by rw [hat], by rw [hat], Ends.of_faults hfaults _⟩

theorem GapTaken.trans {k : Stand} {s t u : State} (h : GapTaken k s t) (h' : GapTaken k t u) : GapTaken k s u :=
  ⟨(congrArg (fun x : State => { x with
      stands := s.stands, actuators := s.actuators, faults := s.faults, sent := s.sent, heldFrom := s.heldFrom }) h'.frame :).trans
      h.frame,
    fun j hj => (h'.others j hj).trans (h.others j hj), h'.params.trans h.params, h'.trim.trans h.trim,
    h'.gapLost.trans h.gapLost, h.ends.trans h'.ends⟩

theorem Evaluated.gapTaken {k : Stand} {e : Evaluation} {s t : State} (h : Evaluated k e s t) : GapTaken k s t := by
  obtain ⟨hd, hstands, hkept, -⟩ := h.stand
  have hat : t.stands[k] = { s.stands[k].evaluated e with holds := hd } := by
    rw [hstands]
    exact setStand_same s k _
  refine ⟨(congrArg (fun x : State => { x with heldFrom := s.heldFrom }) h.frame :), fun j hj => ?_, by rw [hat]; rfl,
    by rw [hat]; rfl, ?_, h.ends⟩
  · rw [h.actuators]
    cases e.send with
    | none => rfl
    | some r => exact (actuators_set_at s k j _).trans (if_neg hj)
  · rw [hat]
    rcases hkept with rfl | rfl <;> rfl

theorem positionEvaluation_taken (k : Stand) (s : State) : GapTaken k s (positionEvaluation k s) := by
  unfold positionEvaluation
  split
  next => exact (finishEvaluation_evaluated _ _ _ _ _ _ _ rfl).gapTaken
  next => exact (ModeAlone.refl k s).gapTaken

theorem gapPosSample_taken (k : Stand) (s : State) : GapTaken k s (gapPosSample k s) := by
  have hev : GapTaken k s (if s.tracking ∧ s.stands[k].mode = .position then positionEvaluation k s else s) := by
    split
    next => exact positionEvaluation_taken k s
    next => exact (ModeAlone.refl k s).gapTaken
  unfold gapPosSample
  generalize (if s.tracking ∧ s.stands[k].mode = .position then positionEvaluation k s else s) = t at hev
  dsimp only
  split
  next => exact hev.trans (returnPoint_modeAlone k t).gapTaken
  next => exact hev

/-- R102, R108, R124: a GAP_POS sample as its stand takes it. -/
theorem takeGapPos_taken (k : Stand) (before : Bool) (s : State) : GapTaken k s (takeSample k before (gapPosSample k) s) := by
  cases he : earlierMode k before s with
  | none =>
    rw [takeSample_plain he]
    exact gapPosSample_taken k s
  | some m =>
    rw [takeSample_earlier he]
    have hin : ModeAlone k s (s.takenIn k m) := ⟨rfl, m, rfl⟩
    have hout : ModeAlone k (gapPosSample k (s.takenIn k m)) ((gapPosSample k (s.takenIn k m)).heldAgain k) := ⟨rfl, .hold, rfl⟩
    exact (hin.gapTaken.trans (gapPosSample_taken k _)).trans hout.gapTaken

/-! ### Both readers in either order (R39) -/

theorem GapJudged.gapTaken {k : Stand} {p : StandParams} {v : Int} {s t : State} (h : GapJudged k p v s t) :
    t.stands[k].params = s.stands[k].params ∧ t.stands[k].trim = s.stands[k].trim ∧ t.stands[k].mode = s.stands[k].mode ∧
    t.stands[k].lastSent = s.stands[k].lastSent ∧ t.stands[k].counters = s.stands[k].counters ∧
    t.stands[k].bite = s.stands[k].bite ∧ t.stands[k].holds.gapLost = s.stands[k].holds.gapLost := by
  obtain ⟨hd, hstands, hkept⟩ := h.stands
  have hat : t.stands[k] = { s.stands[k] with holds := hd } := by
    rw [hstands]
    exact setStand_same s k _
  rw [hat]
  refine ⟨rfl, rfl, rfl, rfl, rfl, rfl, ?_⟩
  rcases hkept with rfl | rfl <;> rfl

/-- The judgement speaks of nothing that another mode of the stand changes. -/
theorem GapActs.congr {k : Stand} {p : StandParams} {v : Int} {s s' t t' : State} (h : GapActs k p v s' t) (hs : ModeAlone k s s')
    (ht : ModeAlone k t t') : GapActs k p v s t' := by
  have hacts : s'.actuators = s.actuators := (congrArg State.actuators hs.frame :)
  have hfaults : s'.faults = s.faults := (congrArg State.faults hs.frame :)
  have htrip : s'.trip = s.trip := (congrArg State.trip hs.frame :)
  have hopened : s'.opened = s.opened := (congrArg State.opened hs.frame :)
  have hacts' : t'.actuators = t.actuators := (congrArg State.actuators ht.frame :)
  have hfaults' : t'.faults = t.faults := (congrArg State.faults ht.frame :)
  have htrip' : t'.trip = t.trip := (congrArg State.trip ht.frame :)
  have hopened' : t'.opened = t.opened := (congrArg State.opened ht.frame :)
  obtain ⟨m, hm⟩ := ht.stands
  have hat : t'.stands[k] = { t.stands[k] with mode := m } := by
    rw [hm]
    exact setStand_same t k _
  obtain ⟨h1, h2, h3, h4, h5⟩ := h
  rw [hacts] at h1 h2 h3 h4 h5
  rw [hopened, htrip] at h2 h3
  rw [hfaults] at h4 h5
  refine ⟨?_, ?_, ?_, ?_, ?_⟩
  · rw [hacts']
    exact h1
  · rw [hacts', hfaults', hopened', htrip']
    exact h2
  · rw [hacts', hopened', htrip']
    exact h3
  · rw [hfaults', hat]
    exact h4
  · rw [hfaults']
    exact h5

/-- R39, R125: the readers of a GAP_POS sample at which the stand makes no reference. -/
theorem deliverGap_acts {k : Stand} {p : StandParams} {v : Int} {strip : Bool} {o : ReaderOrder} {s : State}
    (hp : s.stands[k].params = some p) (h : s.tracking = false ∨ ¬ TakesIn s k o .position) :
    GapActs k p v s (deliver (.gapPos k) v strip o s) ∧ (deliver (.gapPos k) v strip o s).sent = s.sent := by
  cases ho : o.actuatorFirst with
  | true =>
    have heq : deliver (.gapPos k) v strip o s = takeSample k o.beforeReport (gapPosSample k) (judgeGapSample k v s) :=
      if_pos ho
    have hj := judgeGapSample_judged v hp
    obtain ⟨-, -, hmode, -⟩ := hj.gapTaken
    rw [heq]
    generalize judgeGapSample k v s = u at hj hmode
    have hm := takeGapPos_modeAlone (k := k) (before := o.beforeReport) (s := u) (by
      have hum : u.mode = s.mode := (congrArg State.mode hj.frame :)
      have huh : u.heldFrom = s.heldFrom := (congrArg State.heldFrom hj.frame :)
      rw [State.tracking, hum, hmode, huh]
      exact h)
    exact ⟨hj.acts.congr (ModeAlone.refl k s) hm, (congrArg State.sent hm.frame :).trans (congrArg State.sent hj.frame :)⟩
  | false =>
    have heq : deliver (.gapPos k) v strip o s = judgeGapSample k v (takeSample k o.beforeReport (gapPosSample k) s) :=
      if_neg (by rw [ho]; decide)
    have hm := takeGapPos_modeAlone (k := k) (before := o.beforeReport) (s := s) h
    have htk := takeGapPos_taken k o.beforeReport s
    rw [heq]
    generalize takeSample k o.beforeReport (gapPosSample k) s = u at hm htk
    have hj := judgeGapSample_judged (p := p) v (htk.params.trans hp)
    exact ⟨hj.acts.congr hm (ModeAlone.refl k _), (congrArg State.sent hj.frame :).trans (congrArg State.sent hm.frame :)⟩

end Sys2Proof.Machine

/-! SUPPORT. A GAP_POS sample that the stand takes in POSITION, or at which it returns there (R102, R108, R124), and the
statement on GAP_POS samples. -/

namespace Sys2Proof.Machine

/-! ### A sample taken in POSITION (R108, R124) -/

theorem follows_false_iff (a : Actuator) : a.follows = false ↔
    a.mode = .unlinked ∨ a.mode = .faulted ∨ a.mode = .opening ∨ a.mode = .opened := by
  unfold Actuator.follows
  cases a.mode <;> simp

/-- An evaluation speaks of the counters, of the last sent reference, of the command sent and of the actuator's target. -/
theorem Evaluates.congr {k : Stand} {p : StandParams} {x : StandTargets} {force : Option Int} {last raw : Int} {s s' t t' : State}
    (h : Evaluates s' t k p x force last raw) (hc : s'.stands[k].counters = s.stands[k].counters)
    (ht : s'.actuators[k].target = s.actuators[k].target) (hf : s'.actuators[k].follows = s.actuators[k].follows)
    (hl : t'.stands[k].lastSent = t.stands[k].lastSent) (hn : t'.stands[k].counters = t.stands[k].counters)
    (hg : t'.actuators[k].target = t.actuators[k].target) (hs : t'.sent = t.sent) : Evaluates s t' k p x force last raw := by
  refine ⟨fun c l r near blocked sent h1 h2 h3 h4 h5 h6 => ?_⟩
  obtain ⟨h7, h8, h9, h10⟩ := h.result c l r near blocked sent h1 h2 h3 h4 h5 h6
  rw [hc] at h8
  rw [hl, hn, hg, hs]
  refine ⟨h7, h8, fun htrue hm => h9 htrue ?_, fun hoff => ?_⟩
  · rw [← follows_iff, hf, follows_iff]
    exact hm
  · rw [← ht]
    refine h10 (hoff.imp_right fun hm => ?_)
    rw [← follows_false_iff, hf, follows_false_iff]
    exact hm

theorem takeGapPos_evaluates {k : Stand} {p : StandParams} {last base : Int} {before : Bool} {s : State} {x : InForce}
    (hp : s.stands[k].params = some p) (hm : s.tracking = true)
    (hmode : s.stands[k].mode = .position ∨ (s.stands[k].mode = .hold ∧ s.heldFrom[k] = some .position ∧ before = true))
    (hnone : s.stands[k].bite = none → s.entrySchedule = some x ∧ base = x.sched.stands[k].sset)
    (hsome : ∀ n, s.stands[k].bite = some n → s.scheduleOf n = some x ∧ base = x.effS n k)
    (hlast : s.stands[k].lastSent = some last) (hsent : s.sent = []) :
    ReferenceTaken k p x.sched.stands[k] (s.heldOf (.force k)) last (base + s.stands[k].trim) s
      (takeSample k before (gapPosSample k) s) := by
  obtain ⟨w, hframe, hat, hbefore, hafter⟩ := takeSample_in (k := k) (before := before) (f := gapPosSample k) (s := s) (.inr rfl) hmode
  have hch : w.channels = s.channels := (congrArg State.channels hframe :)
  have htable : w.table = s.table := (congrArg State.table hframe :)
  have hring : w.ring = s.ring := (congrArg State.ring hframe :)
  have hwmode : w.mode = s.mode := (congrArg State.mode hframe :)
  have hwsent : w.sent = s.sent := (congrArg State.sent hframe :)
  have hr := gapPosSample_evaluates (k := k) (p := p) (last := last) (base := base) (s := w) (x := x) (by rw [hat]; exact hp)
    (by rw [State.tracking, hwmode]; exact hm) (by rw [hat])
    (fun hb => by
      rw [hat] at hb
      rw [State.entrySchedule, htable]
      exact hnone hb)
    (fun n hb => by
      rw [hat] at hb
      have := hsome n hb
      unfold State.scheduleOf State.segment State.inForce at this ⊢
      rw [hring, htable]
      exact this)
    (by rw [hat]; exact hlast) (hwsent.trans hsent)
  have hheld : w.heldOf (.force k) = s.heldOf (.force k) := by
    unfold State.heldOf State.entryOf
    rw [hch]
  have htrim : w.stands[k].trim = s.stands[k].trim := by rw [hat]
  rw [hheld, htrim] at hr
  exact hr.congr hbefore hafter

theorem takeGapPos_hold {k : Stand} {before : Bool} {s : State} (hold : s.stands[k].mode = .hold)
    (hm : s.heldFrom[k] = some .position ∧ before = true) : (takeSample k before (gapPosSample k) s).stands[k].mode = .hold := by
  rw [takeSample_earlier (earlierMode_some.2 ⟨hm.2, hold, hm.1, .inr rfl⟩)]
  exact congrArg StandCtl.mode (setStand_same _ _ _)

/-- What the readers of a GAP_POS sample do at a stand that takes it in POSITION. -/
structure GapEvaluated (k : Stand) (p : StandParams) (x : StandTargets) (last raw : Int) (s t : State) : Prop where
  evaluates : Evaluates s t k p x (s.heldOf (.force k)) last raw
  trim : t.stands[k].trim = s.stands[k].trim
  hold : s.stands[k].mode = .hold → t.stands[k].mode = .hold
  others : ∀ j : Stand, j ≠ k → t.actuators[j] = s.actuators[j]
  tracked : t.ring = s.ring ∧ t.points = s.points ∧ t.table = s.table

/-- R39, R108: the readers of a GAP_POS sample that the stand takes in POSITION. -/
theorem deliverGap_evaluates {k : Stand} {p : StandParams} {v last base : Int} {strip : Bool} {o : ReaderOrder} {s : State}
    {x : InForce} (hp : s.stands[k].params = some p) (hm : s.tracking = true) (htakes : TakesIn s k o .position)
    (hnone : s.stands[k].bite = none → s.entrySchedule = some x ∧ base = x.sched.stands[k].sset)
    (hsome : ∀ n, s.stands[k].bite = some n → s.scheduleOf n = some x ∧ base = x.effS n k)
    (hlast : s.stands[k].lastSent = some last) (hsent : s.sent = []) :
    GapEvaluated k p x.sched.stands[k] last (base + s.stands[k].trim) s (deliver (.gapPos k) v strip o s) := by
  have hnp : s.stands[k].mode = .hold → s.heldFrom[k] = some .position ∧ o.beforeReport = true := fun hold =>
    (htakes.resolve_left (by rw [hold]; decide)).2
  cases ho : o.actuatorFirst with
  | true =>
    have heq : deliver (.gapPos k) v strip o s = takeSample k o.beforeReport (gapPosSample k) (judgeGapSample k v s) :=
      if_pos ho
    have hj := judgeGapSample_judged v hp
    rw [heq]
    generalize judgeGapSample k v s = u at hj
    obtain ⟨hparams, htrim, hmode, hls, hcount, hbite, -⟩ := hj.gapTaken
    have huh : u.heldFrom = s.heldFrom := (congrArg State.heldFrom hj.frame :)
    have hum : u.mode = s.mode := (congrArg State.mode hj.frame :)
    have hch : u.channels = s.channels := (congrArg State.channels hj.frame :)
    have htable : u.table = s.table := (congrArg State.table hj.frame :)
    have hring : u.ring = s.ring := (congrArg State.ring hj.frame :)
    have hus : u.sent = s.sent := (congrArg State.sent hj.frame :)
    have hr := takeGapPos_evaluates (k := k) (p := p) (last := last) (base := base) (before := o.beforeReport) (s := u) (x := x)
      (hparams.trans hp) (by rw [State.tracking, hum]; exact hm) (by rw [hmode, huh]; exact htakes)
      (fun hb => by
        rw [State.entrySchedule, htable]
        exact hnone (hbite.symm.trans hb))
      (fun n hb => by
        have := hsome n (hbite.symm.trans hb)
        unfold State.scheduleOf State.segment State.inForce at this ⊢
        rw [hring, htable]
        exact this)
      (hls.trans hlast) (hus.trans hsent)
    have hheld : u.heldOf (.force k) = s.heldOf (.force k) := by
      unfold State.heldOf State.entryOf
      rw [hch]
    rw [hheld, htrim] at hr
    have htk := takeGapPos_taken k o.beforeReport u
    refine ⟨hr.evaluates.congr hcount hj.target.1 hj.target.2 rfl rfl rfl rfl, htk.trim.trans htrim, fun hold => ?_,
      fun j hjk => (htk.others j hjk).trans (hj.others j hjk), (congrArg State.ring htk.frame :).trans hring,
      (congrArg State.points htk.frame :).trans (congrArg State.points hj.frame :), (congrArg State.table htk.frame :).trans htable⟩
    exact takeGapPos_hold (hmode.trans hold) (by rw [huh]; exact hnp hold)
  | false =>
    have heq : deliver (.gapPos k) v strip o s = judgeGapSample k v (takeSample k o.beforeReport (gapPosSample k) s) :=
      if_neg (by rw [ho]; decide)
    have hr := takeGapPos_evaluates (k := k) (p := p) (last := last) (base := base) (before := o.beforeReport) hp hm htakes hnone
      hsome hlast hsent
    have htk := takeGapPos_taken k o.beforeReport s
    have hhold : s.stands[k].mode = .hold → _ := fun h => takeGapPos_hold h (hnp h)
    rw [heq]
    generalize takeSample k o.beforeReport (gapPosSample k) s = u at hr htk hhold
    have hj := judgeGapSample_judged (p := p) v (htk.params.trans hp)
    obtain ⟨-, htrim, hmode, hls, hcount, -, -⟩ := hj.gapTaken
    exact ⟨hr.evaluates.congr rfl rfl rfl hls hcount hj.target.1 (congrArg State.sent hj.frame :), htrim.trans htk.trim,
      fun hold => hmode.trans (hhold hold), fun j hjk => (hj.others j hjk).trans (htk.others j hjk),
      (congrArg State.ring hj.frame :).trans (congrArg State.ring htk.frame :),
      (congrArg State.points hj.frame :).trans (congrArg State.points htk.frame :),
      (congrArg State.table hj.frame :).trans (congrArg State.table htk.frame :)⟩

/-! ### Returning to POSITION (R102) -/

theorem gapPosSample_returns {k : Stand} {s : State} (hm : s.mode = .thread) (hold : s.stands[k].mode = .hold)
    (hb : s.stands[k].bite = none) (hh : s.stands[k].holds = ⟨false, false, false, false⟩) :
    (gapPosSample k s).stands[k] = { s.stands[k] with mode := .position } := by
  have hn : ¬ (s.tracking = true ∧ s.stands[k].mode = .position) := fun hx => absurd (hold.symm.trans hx.2) (by decide)
  have ht : s.tracking = true := tracking_true (.inl hm)
  have hret : returnMode s k = .position := by
    unfold returnMode
    simp only [hm, hold, hh]
    rfl
  unfold gapPosSample
  rw [if_neg hn, if_pos (c := s.tracking = true ∧ s.stands[k].bite.isNone = true) ⟨ht, by rw [hb]; rfl⟩, returnPoint, setStand_same,
    hret]

theorem deliverGap_returns {k : Stand} {p : StandParams} {v : Int} {strip : Bool} {o : ReaderOrder} {s : State}
    (hp : s.stands[k].params = some p) (hm : s.mode = .thread) (hold : s.stands[k].mode = .hold) (hb : s.stands[k].bite = none)
    (hh : s.stands[k].holds = ⟨false, false, false, false⟩) (hfrom : s.heldFrom[k] = none ∨ o.beforeReport = false) :
    (deliver (.gapPos k) v strip o s).stands[k] = { s.stands[k] with mode := .position } := by
  have hplain : ∀ u : State, u.heldFrom = s.heldFrom → takeSample k o.beforeReport (gapPosSample k) u = gapPosSample k u :=
    fun u hu => by
      refine takeSample_plain (Option.eq_none_iff_forall_ne_some.2 fun m he => ?_)
      obtain ⟨hbr, -, hheld, -⟩ := earlierMode_some.1 he
      rw [hu] at hheld
      rcases hfrom with h | h
      · exact absurd (h.symm.trans hheld) (by simp)
      · exact absurd (h.symm.trans hbr) (by decide)
  have hclear : ∀ h : Holds, (h = ⟨false, false, false, false⟩ ∨ h = Holds.put ⟨false, false, false, false⟩ .positioningTimeout false) →
      h = ⟨false, false, false, false⟩ := fun h hx => hx.elim id id
  cases ho : o.actuatorFirst with
  | true =>
    have heq : deliver (.gapPos k) v strip o s = takeSample k o.beforeReport (gapPosSample k) (judgeGapSample k v s) :=
      if_pos ho
    have hj := judgeGapSample_judged v hp
    rw [heq]
    generalize judgeGapSample k v s = u at hj
    obtain ⟨hd, hstands, hkept⟩ := hj.stands
    rw [hh] at hkept
    have hat : u.stands[k] = s.stands[k] := by
      rw [hstands, hclear hd hkept, ← hh]
      exact setStand_same s k _
    have hum : u.mode = s.mode := (congrArg State.mode hj.frame :)
    rw [hplain u (congrArg State.heldFrom hj.frame :), gapPosSample_returns (hum.trans hm) (by rw [hat]; exact hold) (by rw [hat]; exact hb)
        (by rw [hat]; exact hh), hat]
  | false =>
    have heq : deliver (.gapPos k) v strip o s = judgeGapSample k v (takeSample k o.beforeReport (gapPosSample k) s) :=
      if_neg (by rw [ho]; decide)
    rw [heq, hplain s rfl]
    have hret := gapPosSample_returns hm hold hb hh
    generalize gapPosSample k s = u at hret
    have hj := judgeGapSample_judged (p := p) v (s := u) (by rw [hret]; exact hp)
    obtain ⟨hd, hstands, hkept⟩ := hj.stands
    have hholds : u.stands[k].holds = ⟨false, false, false, false⟩ := by rw [hret]; exact hh
    rw [hholds] at hkept
    refine (congrArg (fun x : Vector StandCtl 6 => x[k]) hstands :).trans ((setStand_same u k _).trans ?_)
    rw [hclear hd hkept, ← hholds]
    exact hret

/-! ### The feedback regained (R39, R100) -/

/-- R39: neither reader of a GAP_POS sample writes a channel, the hold cause GAP_LOST or the loss condition. -/
theorem deliverGap_keeps {k : Stand} {p : StandParams} {v : Int} {strip : Bool} {o : ReaderOrder} {s : State}
    (hp : s.stands[k].params = some p) : (deliver (.gapPos k) v strip o s).channels = s.channels ∧
    (deliver (.gapPos k) v strip o s).stands[k].holds.gapLost = s.stands[k].holds.gapLost ∧
    (deliver (.gapPos k) v strip o s).faults[Kind.gapFeedbackLost] = s.faults[Kind.gapFeedbackLost] := by
  cases ho : o.actuatorFirst with
  | true =>
    have heq : deliver (.gapPos k) v strip o s = takeSample k o.beforeReport (gapPosSample k) (judgeGapSample k v s) :=
      if_pos ho
    have hj := judgeGapSample_judged v hp
    rw [heq]
    generalize judgeGapSample k v s = u at hj
    obtain ⟨-, -, -, -, -, -, hlost⟩ := hj.gapTaken
    have htk := takeGapPos_taken k o.beforeReport u
    exact ⟨(congrArg State.channels htk.frame :).trans (congrArg State.channels hj.frame :), htk.gapLost.trans hlost,
      (htk.ends.others _ (by decide)).trans (hj.ends.others _ (by decide))⟩
  | false =>
    have heq : deliver (.gapPos k) v strip o s = judgeGapSample k v (takeSample k o.beforeReport (gapPosSample k) s) :=
      if_neg (by rw [ho]; decide)
    have htk := takeGapPos_taken k o.beforeReport s
    rw [heq]
    generalize takeSample k o.beforeReport (gapPosSample k) s = u at htk
    have hj := judgeGapSample_judged (p := p) v (htk.params.trans hp)
    obtain ⟨-, -, -, -, -, -, hlost⟩ := hj.gapTaken
    exact ⟨(congrArg State.channels hj.frame :).trans (congrArg State.channels htk.frame :), hlost.trans htk.gapLost,
      (hj.ends.others _ (by decide)).trans (htk.ends.others _ (by decide))⟩

/-- R39, R100: an accepted sample of an INVALID gap position. -/
theorem acceptSample_gapRegained {e : EntryNo} {c : ChannelConfig} {v : Int} {k : Stand} {s : State} (hc : c.item = .gapPos k)
    (hi : s.channels[e].state.isInvalid = true) : acceptSample e c v s =
      causeClears .gapLost k ((s.setChannel e (s.channels[e].accepted v s.time)).inactive Kind.gapFeedbackLost (standLoc k)) := by
  unfold acceptSample
  dsimp only
  rw [if_pos (.inl hi), if_pos hi, hc]
  rfl

/-- Settles O49: a GAP_POS sample judged. -/
theorem gapSamplesJudged : Obligations.GapSamplesJudged := by
  intro l f o e k v p s within hp hwithin
  have hw : s.actuators[k].within p v = within := by
    rw [hwithin]
    unfold Actuator.within
    cases s.actuators[k].target <;> rfl
  refine ⟨fun hb => ?_, fun c hup hrx hhead hent hc hci hinv hv hlo hhi => ?_⟩
  · have hexec := brings_exec o hb (by simp) rfl
    have hheld : (s.sampled l f e v).heldOf (.force k) = s.heldOf (.force k) := hb.heldOf_other (by simp)
    refine ⟨fun hnot => ?_, fun x base last hm htakes hlast hnone hsome => ?_, fun hm hold hbite hh hfrom => ?_⟩
    · have hcase : (s.sampled l f e v).tracking = false ∨ ¬ TakesIn (s.sampled l f e v) k o .position := by
        by_cases ht : s.mode = .thread ∨ s.mode = .run
        · exact .inr fun hx => hnot ⟨ht, hx⟩
        · left
          show s.tracking = false
          rw [Bool.eq_false_iff]
          exact fun hx => ht (by simpa [State.tracking] using hx)
      obtain ⟨hacts, hsent⟩ := deliverGap_acts (p := p) (v := v) (strip := f.strip) (o := o) (s := s.sampled l f e v) hp hcase
      obtain ⟨h1, h2, h3, h4, h5⟩ := hacts
      have hwithin' : (s.sampled l f e v).actuators[k].within p v = within := hw
      rw [hwithin'] at h1 h3 h4 h5
      exact ⟨_, hexec, hsent, h1, h2, h3, h4, h5⟩
    · have hev := deliverGap_evaluates (p := p) (v := v) (last := last) (base := base) (strip := f.strip) (o := o)
        (s := s.sampled l f e v) (x := x) hp (tracking_true hm) htakes hnone hsome hlast rfl
      have h1 := hev.evaluates
      rw [hheld] at h1
      exact ⟨_, hexec, h1.congr rfl rfl rfl rfl rfl rfl rfl, hev.trim, hev.hold, hev.others, hev.tracked⟩
    · exact ⟨_, hexec, deliverGap_returns (p := p) (s := s.sampled l f e v) hp hm hold hbite hh hfrom⟩
  · have hrange : (roleRange c.item).1 ≤ v ∧ v ≤ (roleRange c.item).2 := by
      rw [hci]
      exact ⟨hlo, hhi⟩
    have hexec : exec (.sensorFrame l (sensorFrameBytes f) o) s =
        .next (deliver (.gapPos k) v f.strip o (acceptSample e c v (s.counted l f))) := by
      rw [frame_routed hup hrx, routeFrame_value (s := s.counted l f) hent hc hhead (by rw [hci]; simp),
        takeStrip_plain (by rw [hci]; rfl), takeValue_in hv hrange, hci]
    have hat := setStand_same (((s.counted l f).setChannel e ((s.counted l f).channels[e].accepted v s.time)).inactive
      Kind.gapFeedbackLost (standLoc k)) k { s.stands[k] with holds := s.stands[k].holds.put .gapLost false }
    have hgone := inactive_gone ((s.counted l f).setChannel e ((s.counted l f).channels[e].accepted v s.time))
      Kind.gapFeedbackLost (standLoc k)
    have ha := acceptSample_gapRegained (v := v) (s := s.counted l f) hci hinv
    have hkeep := deliverGap_keeps (p := p) (v := v) (strip := f.strip) (o := o) (s := acceptSample e c v (s.counted l f)) (by
      rw [ha]
      exact (congrArg StandCtl.params hat :).trans hp)
    obtain ⟨hch, hlost, hrow⟩ := hkeep
    rw [ha] at hch hlost hrow hexec
    refine ⟨_, hexec, ?_, hch, ?_⟩
    · rw [hlost]
      exact (congrArg (fun st : StandCtl => st.holds.gapLost) hat :)
    · rw [hrow]
      exact hgone

end Sys2Proof.Machine

/-! SUPPORT. Starting events and readings of the thickness roles (R42, R49, R50, R56), whatever becomes of the value. -/

namespace Sys2Proof.Machine

/-! ### What becomes of the value -/

/-- The strip gauges have no reader that regains or loses anything. -/
theorem readers_gauge {i : Item} {p : PointNo} (hg : gaugePoint i = some p) (s : State) :
    readersRegain i s = s ∧ readersLose i s = s := by
  rcases (gaugePoint_cases hg).2 with ⟨rfl, rfl⟩ | ⟨rfl, rfl⟩ | ⟨rfl, rfl⟩ <;> exact ⟨rfl, rfl⟩

theorem lossOf_gauge {i : Item} {p : PointNo} (hg : gaugePoint i = some p) :
    ∃ d, lossOf i = some (d, 0) ∧ d ≠ Kind.trackOverrun := by
  rcases (gaugePoint_cases hg).2 with ⟨rfl, rfl⟩ | ⟨rfl, rfl⟩ | ⟨rfl, rfl⟩
  · exact ⟨_, rfl, by decide⟩
  · exact ⟨_, rfl, by decide⟩
  · exact ⟨_, rfl, by decide⟩

theorem acceptSample_gauge {e : EntryNo} {c : ChannelConfig} {p : PointNo} (v : Int) (s : State)
    (hg : gaugePoint c.item = some p) :
    { acceptSample e c v s with channels := s.channels, faults := s.faults } = s ∧
    (acceptSample e c v s).faults[Kind.trackOverrun] = s.faults[Kind.trackOverrun] := by
  obtain ⟨d, hd, hne⟩ := lossOf_gauge hg
  unfold acceptSample
  dsimp only
  rw [hd, (readers_gauge hg _).1, ite_self]
  split
  next => exact ⟨rfl, (inactive_ends _ d 0).others _ (by simpa using Ne.symm hne)⟩
  next => exact ⟨rfl, rfl⟩

theorem rejectSample_gauge {e : EntryNo} {c : ChannelConfig} {p : PointNo} (s : State) (hc : s.channels[e].config = some c)
    (hg : gaugePoint c.item = some p) : (rejectSample e s).points = s.points ∧
    ∀ loc, loc ∈ (rejectSample e s).faults[Kind.trackOverrun].active ↔ loc ∈ s.faults[Kind.trackOverrun].active := by
  have hlose : ∀ u : State, u.channels[e].config = some c → (loseChannel e .range u).points = u.points ∧
      ∀ loc, loc ∈ (loseChannel e .range u).faults[Kind.trackOverrun].active ↔ loc ∈ u.faults[Kind.trackOverrun].active := by
    intro u hu
    have hm := markInvalid_frame e .range u
    unfold loseChannel
    dsimp only
    generalize markInvalid e .range u = w at hm
    have hpoints : w.points = u.points := (congrArg State.points hm :)
    have hfaults : w.faults = u.faults := (congrArg State.faults hm :)
    rw [hu]
    dsimp only
    split
    next => exact ⟨hpoints, fun loc => hfaults ▸ Iff.rfl⟩
    next =>
      rw [(readers_gauge hg w).2]
      refine ⟨(congrArg State.points (raiseAll_untake _ w w) :).trans hpoints, fun loc => ?_⟩
      rw [raiseAll_mem _ _ (by decide), hfaults]
      refine or_iff_left fun hin => ?_
      obtain ⟨d, hd, hne⟩ := lossOf_gauge hg
      unfold lossCondition at hin
      split at hin
      next => exact absurd hin List.not_mem_nil
      next =>
        rw [hd] at hin
        exact hne (Prod.mk.inj (List.mem_singleton.1 hin)).1.symm
  unfold rejectSample
  dsimp only
  split
  next => exact hlose _ (by rw [setChannel_same]; exact hc)
  next => exact ⟨rfl, fun _ => Iff.rfl⟩

/-- R56: a value of a strip gauge: the reading of an accepted one joins the accumulator of a started point. -/
theorem takeValue_gauge {e : EntryNo} {c : ChannelConfig} {f : SensorFields} {o : ReaderOrder} {v : Int} {p : PointNo} {s : State}
    (hc : s.channels[e].config = some c) (hg : gaugePoint c.item = some p)
    (hv : v = roundDiv (fieldValue f.raw c.start c.length c.signed * c.gain) 65536 + c.offset) :
    (takeValue e c f o s).points =
      (if (0 ≤ v ∧ v ≤ 100000) ∧ f.strip = true ∧ s.points[p].started = true ∧ s.trip = .normal then
        s.points.set p { s.points[p] with sum := s.points[p].sum + v, count := s.points[p].count + 1 } else s.points) ∧
    ∀ loc, loc ∈ (takeValue e c f o s).faults[Kind.trackOverrun].active ↔ loc ∈ s.faults[Kind.trackOverrun].active := by
  have hrange : roleRange c.item = (0, 100000) := by
    rcases (gaugePoint_cases hg).2 with ⟨hi, -⟩ | ⟨hi, -⟩ | ⟨hi, -⟩ <;> rw [hi] <;> rfl
  by_cases hr : 0 ≤ v ∧ v ≤ 100000
  · rw [takeValue_in hv (by rw [hrange]; exact hr), deliver_gauge hg]
    obtain ⟨hframe, hrow⟩ := acceptSample_gauge (e := e) v s hg
    generalize acceptSample e c v s = u at hframe hrow
    have hpoints : u.points = s.points := (congrArg State.points hframe :)
    have htrip : u.trip = s.trip := (congrArg State.trip hframe :)
    by_cases hs : f.strip = true
    · rw [if_pos hs, ← hpoints, ← htrip]
      by_cases hon : u.points[p].started = true ∧ u.trip = .normal
      · have hon' : u.points[p].started = true ∧ ¬ u.frozen = true := ⟨hon.1, by rw [frozen_iff, not_not]; exact hon.2⟩
        rw [if_pos ⟨hr, hs, hon⟩, gaugeReading, if_pos hon']
        exact ⟨rfl, fun loc => by rw [← hrow]; rfl⟩
      · have hoff : ¬ (u.points[p].started = true ∧ ¬ u.frozen = true) := fun hx => hon ⟨hx.1, by
          by_contra hn
          exact hx.2 ((frozen_iff u).2 hn)⟩
        rw [if_neg fun hx => hon hx.2.2, gaugeReading, if_neg hoff]
        exact ⟨rfl, fun loc => by rw [← hrow]⟩
    · rw [if_neg hs, if_neg fun hx => hs hx.2.1]
      exact ⟨hpoints, fun loc => by rw [← hrow]⟩
  · have hout : v < (roleRange c.item).1 ∨ (roleRange c.item).2 < v := by
      rw [hrange]
      rcases not_and_or.1 hr with h | h
      · exact .inl (not_le.1 h)
      · exact .inr (not_le.1 h)
    rw [takeValue_out hv hout, if_neg fun hx => hr hx.1]
    exact rejectSample_gauge s hc hg

/-! ### A frame of a strip gauge -/

/-- What a frame of a strip gauge needs to be taken for its entry, whatever its value. -/
structure GaugeFrame (s : State) (l : LinkNo) (f : SensorFields) (e : EntryNo) (c : ChannelConfig) (v : Int) : Prop where
  up : s.links[l].mode = .up
  receiver : s.links[l].rx = []
  headClear : f.headFault = false
  routed : s.entryAt l f.slot = some e
  config : s.channels[e].config = some c
  scaled : v = roundDiv (fieldValue f.raw c.start c.length c.signed * c.gain) 65536 + c.offset

/-- R31: the state in which the strip-present flag has been recorded. -/
def State.flagged (s : State) (l : LinkNo) (f : SensorFields) (e : EntryNo) : State :=
  (s.counted l f).setChannel e { s.channels[e] with strip := some f.strip }

theorem flagged_frame (s : State) (l : LinkNo) (f : SensorFields) (e : EntryNo) :
    { s.flagged l f e with links := s.links, channels := s.channels } = s.stepStart := rfl

theorem flagged_config {s : State} {l : LinkNo} {f : SensorFields} {e : EntryNo} {c : ChannelConfig}
    (hc : s.channels[e].config = some c) : (s.flagged l f e).channels[e].config = some c := by
  unfold State.flagged
  rw [setChannel_same]
  exact hc

theorem GaugeFrame.taken {s : State} {l : LinkNo} {f : SensorFields} {e : EntryNo} {c : ChannelConfig} {v : Int} {p : PointNo}
    (h : GaugeFrame s l f e c v) (o : ReaderOrder) (hg : gaugePoint c.item = some p) :
    exec (.sensorFrame l (sensorFrameBytes f) o) s = .next (takeValue e c f o
      (if f.strip = true ∧ p ≠ PointNo.x0 then startingEvent p s.time (s.flagged l f e) else s.flagged l f e)) := by
  have hlen : c.item ≠ .entryLength := fun hi => by
    rw [hi] at hg
    exact absurd hg (by simp [gaugePoint])
  rw [frame_routed h.up h.receiver, routeFrame_value (s := s.counted l f) h.routed h.config h.headClear hlen, takeStrip_gauge hg]
  rfl

/-- R49, R56: the flag starts X1 or X6, and the frame's own accepted reading is the first in the accumulator. -/
theorem gaugeFrame_starts {s : State} {l : LinkNo} {f : SensorFields} {e : EntryNo} {c : ChannelConfig} {v : Int} {p u : PointNo}
    {g : Segment} {rest : List Segment} (h : GaugeFrame s l f e c v) (o : ReaderOrder) (hg : gaugePoint c.item = some p)
    (hb : biteOf p = none) (hx0 : p ≠ PointNo.x0) (hu : u.val + 1 = p.val) (hm : s.mode = .thread ∨ s.mode = .run)
    (ht : s.trip = .normal) (hp : s.points[p].started = false) (hstrip : f.strip = true) (hup : s.points[u].started = true)
    (hr : s.ring = g :: rest) : ∃ t, exec (.sensorFrame l (sensorFrameBytes f) o) s = .next t ∧
      t.points[p] = { s.points[p] with
        started := true, cursor := g.number, travelled := 0, advanced := some s.time
        sum := if 0 ≤ v ∧ v ≤ 100000 then v else 0, count := if 0 ≤ v ∧ v ≤ 100000 then 1 else 0 } ∧
      (∀ q : PointNo, q ≠ p → t.points[q] = if q.val = p.val + 1 then { s.points[q] with early := false } else s.points[q]) ∧
      (∀ q : PointNo, q.val = p.val + 1 → s.points[q].early = true → q.val ∉ t.faults[Kind.trackOverrun].active) := by
  have hstart : startingEvent p s.time (s.flagged l f e) =
      scheduleArrival p g.number (startedAt p g.number s.time (s.flagged l f e)) := by
    rw [startingEvent_on (s := s.flagged l f e) hu (tracking_true hm) (frozen_false ht) hp]
    exact (if_pos hup).trans (startPoint_gauge hb hr)
  have hsp := startedAt_spec p g.number s.time (s.flagged l f e)
  have hcfg := flagged_config (l := l) (f := f) h.config
  have hexec := h.taken o hg
  rw [if_pos ⟨hstrip, hx0⟩, hstart] at hexec
  generalize startedAt p g.number s.time (s.flagged l f e) = w at hexec hsp
  have ha := scheduleArrival_frame p g.number w
  generalize scheduleArrival p g.number w = x at hexec ha
  have hwch : w.channels = (s.flagged l f e).channels := (congrArg State.channels hsp.frame :)
  have hxch : x.channels = w.channels := (congrArg State.channels ha :)
  have hxp : x.points = w.points := (congrArg State.points ha :)
  have hxf : x.faults = w.faults := (congrArg State.faults ha :)
  have hxt : x.trip = .normal := ((congrArg State.trip ha :).trans (congrArg State.trip hsp.frame :)).trans ht
  obtain ⟨hpts, hrow⟩ := takeValue_gauge (o := o) (f := f) (s := x) (by rw [hxch, hwch]; exact hcfg) hg h.scaled
  have hon : w.points[p].started = true := by rw [hsp.point]; rfl
  rw [hxp] at hpts
  refine ⟨_, hexec, ?_, fun q hq => ?_, fun q hq hearly hin => hsp.gone q hq hearly (hxf ▸ (hrow _).1 hin)⟩
  · rw [hpts]
    by_cases hv : 0 ≤ v ∧ v ≤ 100000
    · rw [if_pos ⟨hv, hstrip, hon, hxt⟩, if_pos hv, if_pos hv, points_set_at, if_pos rfl, hsp.point]
      simp only [Point.startedOn, Int.zero_add, Nat.zero_add]
      rfl
    · rw [if_neg fun hx => hv hx.1, if_neg hv, if_neg hv, hsp.point]
      rfl
  · have hne : (if (0 ≤ v ∧ v ≤ 100000) ∧ f.strip = true ∧ w.points[p].started = true ∧ x.trip = .normal then
        w.points.set p { w.points[p] with sum := w.points[p].sum + v, count := w.points[p].count + 1 } else w.points)[q] =
        w.points[q] := by
      split
      next => exact (points_set_at _ _ _ _).trans (if_neg hq)
      next => rfl
    rw [hpts, hne]
    exact hsp.others q hq

/-- R50: the first flag that finds the neighbour upstream unstarted, where its kind does not trip. -/
theorem gaugeFrame_early {s : State} {l : LinkNo} {f : SensorFields} {e : EntryNo} {c : ChannelConfig} {v : Int} {p u : PointNo}
    (h : GaugeFrame s l f e c v) (o : ReaderOrder) (hg : gaugePoint c.item = some p) (hx0 : p ≠ PointNo.x0)
    (hu : u.val + 1 = p.val) (hm : s.mode = .thread ∨ s.mode = .run) (ht : s.trip = .normal) (hp : s.points[p].started = false)
    (hstrip : f.strip = true) (hup : s.points[u].started = false) (hearly : s.points[p].early = false)
    (htrips : s.trips Kind.trackOverrun = false) : ∃ t, exec (.sensorFrame l (sensorFrameBytes f) o) s = .next t ∧
      t.points = s.points.set p { s.points[p] with early := true } ∧ p.val ∈ t.faults[Kind.trackOverrun].active := by
  have hstart : startingEvent p s.time (s.flagged l f e) =
      raise Kind.trackOverrun p.val ((s.flagged l f e).setPoint p { s.points[p] with early := true }) := by
    rw [startingEvent_on (s := s.flagged l f e) hu (tracking_true hm) (frozen_false ht) hp]
    exact (if_neg (Bool.eq_false_iff.1 hup)).trans (earlyStart_first hearly)
  have hcfg := flagged_config (l := l) (f := f) h.config
  have hexec := h.taken o hg
  rw [if_pos ⟨hstrip, hx0⟩, hstart] at hexec
  have hq := raise_quiet (k := Kind.trackOverrun) p.val (s := (s.flagged l f e).setPoint p { s.points[p] with early := true })
    (by decide) (startsTrip_of_trips htrips)
  generalize raise Kind.trackOverrun p.val ((s.flagged l f e).setPoint p { s.points[p] with early := true }) = x at hexec hq
  have hxch : x.channels = (s.flagged l f e).channels := (congrArg State.channels hq.recorded :)
  have hxp : x.points = s.points.set p { s.points[p] with early := true } := (congrArg State.points hq.recorded :)
  obtain ⟨hpts, hrow⟩ := takeValue_gauge (o := o) (f := f) (s := x) (by rw [hxch]; exact hcfg) hg h.scaled
  have hoff : ¬ x.points[p].started = true := by
    rw [hxp, points_set_at, if_pos rfl]
    exact Bool.eq_false_iff.1 hp
  rw [if_neg fun hx => hoff hx.2.2.1] at hpts
  exact ⟨_, hexec, hpts.trans hxp, (hrow _).2 hq.on⟩

/-- R42, R56: a frame that starts nothing: the reading alone joins the accumulator. -/
theorem gaugeFrame_reads {s : State} {l : LinkNo} {f : SensorFields} {e : EntryNo} {c : ChannelConfig} {v : Int} {p : PointNo}
    (h : GaugeFrame s l f e c v) (o : ReaderOrder) (hg : gaugePoint c.item = some p)
    (hstart : f.strip = true ∧ p ≠ PointNo.x0 → startingEvent p s.time (s.flagged l f e) = s.flagged l f e) :
    ∃ t, exec (.sensorFrame l (sensorFrameBytes f) o) s = .next t ∧ t.points =
      if (0 ≤ v ∧ v ≤ 100000) ∧ f.strip = true ∧ s.points[p].started = true ∧ s.trip = .normal then
        s.points.set p { s.points[p] with sum := s.points[p].sum + v, count := s.points[p].count + 1 } else s.points := by
  have hexec := h.taken o hg
  have hsame : (if f.strip = true ∧ p ≠ PointNo.x0 then startingEvent p s.time (s.flagged l f e) else s.flagged l f e) =
      s.flagged l f e := ite_eq_right_iff.2 hstart
  rw [hsame] at hexec
  exact ⟨_, hexec, (takeValue_gauge (o := o) (f := f) (s := s.flagged l f e) (flagged_config h.config) hg h.scaled).1⟩

/-- R56: an accepted reading of a usable strip gauge, exactly. -/
theorem gaugeFrame_exact {s : State} {l : LinkNo} {f : SensorFields} {e : EntryNo} {i : Item} {v : Int} {p : PointNo}
    (hb : Brings s l f e i v) (o : ReaderOrder) (hg : gaugePoint i = some p)
    (hstart : f.strip = true ∧ p ≠ PointNo.x0 → startingEvent p s.time (s.flagged l f e) = s.flagged l f e) :
    exec (.sensorFrame l (sensorFrameBytes f) o) s = .next ((fun u : State =>
      if f.strip = true ∧ s.points[p].started = true ∧ s.trip = .normal then
        u.setPoint p { s.points[p] with sum := s.points[p].sum + v, count := s.points[p].count + 1 } else u)
      ((s.sampled l f e v).setChannel e { s.channels[e] with
        state := .valid, held := some (v, s.time), consecutive := 0, strip := some f.strip })) := by
  obtain ⟨c, -, -, hexec⟩ := brings_gauge o hb hg
  have hstrip : takeStrip e i f.strip (s.counted l f) = s.flagged l f e := by
    rw [takeStrip_gauge hg]
    exact ite_eq_right_iff.2 hstart
  have haccept : acceptSample e c v (s.flagged l f e) = (s.sampled l f e v).setChannel e { s.channels[e] with
      state := .valid, held := some (v, s.time), consecutive := 0, strip := some f.strip } := by
    have hat : (s.flagged l f e).channels[e] = { s.channels[e] with strip := some f.strip } := setChannel_same _ _ _
    rw [acceptSample_usable (by rw [hat]; exact hb.usable), hat]
    unfold State.flagged State.sampled
    simp only [State.setChannel, Vector.set_set]
    rfl
  rw [hexec, hstrip, haccept, deliver_gauge hg]
  refine congrArg Host.Outcome.next ?_
  generalize hu : (s.sampled l f e v).setChannel e { s.channels[e] with
    state := .valid, held := some (v, s.time), consecutive := 0, strip := some f.strip } = u
  have hpoints : u.points = s.points := by rw [← hu]; rfl
  have htrip : u.trip = s.trip := by rw [← hu]; rfl
  unfold gaugeReading
  dsimp only
  rw [hpoints]
  by_cases hs : f.strip = true
  · rw [if_pos hs]
    refine if_congr ?_ rfl rfl
    rw [frozen_iff, not_not, htrip]
    exact ⟨fun hx => ⟨hs, hx⟩, fun hx => hx.2⟩
  · rw [if_neg hs, if_neg fun hx => hs hx.1]

end Sys2Proof.Machine

/-! SUPPORT. Starting events of FORCE samples (R49, R50, R102), the other readers of the sample going before or after. -/

namespace Sys2Proof.Machine

/-! ### What the start reads and writes, and the other readers do not -/

/-- In going from s to t the readers that start no point have written nothing that a start of B_k reads. -/
structure Prepared (k : Stand) (s t : State) : Prop where
  frame : { t with
    stands := s.stands, actuators := s.actuators, faults := s.faults, logs := s.logs, port := s.port, firstOut := s.firstOut
    sent := s.sent, heldFrom := s.heldFrom } = s
  params : t.stands[k].params = s.stands[k].params
  bite : t.stands[k].bite = s.stands[k].bite
  mode : t.stands[k].mode = s.stands[k].mode
  bare : s.stands[k].bite = none → t.stands[k].holds = s.stands[k].holds ∧ t.actuators = s.actuators
  row : t.faults[Kind.trackOverrun] = s.faults[Kind.trackOverrun]

theorem Prepared.refl (k : Stand) (s : State) : Prepared k s s := ⟨rfl, rfl, rfl, rfl, fun _ => ⟨rfl, rfl⟩, rfl⟩

theorem Prepared.trans {k : Stand} {s t u : State} (h : Prepared k s t) (h' : Prepared k t u) : Prepared k s u :=
  ⟨(congrArg (fun x : State => { x with
      stands := s.stands, actuators := s.actuators, faults := s.faults, logs := s.logs, port := s.port, firstOut := s.firstOut
      sent := s.sent, heldFrom := s.heldFrom }) h'.frame :).trans h.frame,
    h'.params.trans h.params, h'.bite.trans h.bite, h'.mode.trans h.mode, fun hb =>
    ⟨(h'.bare (h.bite.trans hb)).1.trans (h.bare hb).1, (h'.bare (h.bite.trans hb)).2.trans (h.bare hb).2⟩, h'.row.trans h.row⟩

theorem LimitsQuiet.prepared {s t : State} (h : LimitsQuiet s t) (k : Stand) : Prepared k s t := by
  have hst : t.stands = s.stands := (congrArg State.stands h.recorded :)
  have hacts : t.actuators = s.actuators := (congrArg State.actuators h.recorded :)
  exact ⟨(congrArg (fun x : State => { x with
      stands := s.stands, actuators := s.actuators, sent := s.sent, heldFrom := s.heldFrom }) h.recorded :),
    by rw [hst], by rw [hst], by rw [hst], fun _ => ⟨by rw [hst], hacts⟩, h.others _ (by decide)⟩

/-- R105: without a segment in the bite a FORCE sample makes no evaluation. -/
theorem gapForceSample_bare_bite {k : Stand} {v : Int} {s : State} (hb : s.stands[k].bite = none) :
    (gapForceSample k v s).stands[k].holds = s.stands[k].holds ∧ (gapForceSample k v s).actuators = s.actuators := by
  cases hj : judgesLoad s k with
  | false =>
    rw [gapForceSample_idle hj]
    exact ⟨rfl, rfl⟩
  | true =>
    cases hp : s.stands[k].params with
    | none =>
      rw [gapForceSample_bare hp]
      exact ⟨rfl, rfl⟩
    | some p =>
      rw [gapForceSample_eq hp hj]
      have hl := loadJudged_spec k p v s
      generalize loadJudged k p v s = u at hl
      have hat : u.stands[k] = s.stands[k].judged (p.loaded v) s.time (s.estimated k (s.thickness k p v)) := by
        rw [hl.stands]
        exact setStand_same s k _
      have hno : gaugeEvaluation k p v (s.thickness k p v) u = u := by
        have hub : u.stands[k].bite = none := by rw [hat]; exact hb
        simp only [gaugeEvaluation, hub]
      dsimp only
      rw [hno, ite_self, hat]
      exact ⟨rfl, (congrArg State.actuators hl.frame :)⟩

theorem forceSample_prepared (k : Stand) (before : Bool) (v : Int) (s : State) :
    Prepared k s (takeSample k before (gapForceSample k v) s) := by
  have h := forceSample_taken k before v s
  refine ⟨(congrArg (fun x : State => { x with logs := s.logs, port := s.port, firstOut := s.firstOut }) h.frame :), h.params,
    h.bite, h.mode, fun hb => ?_, h.ends.others _ (by decide)⟩
  cases he : earlierMode k before s with
  | none =>
    rw [takeSample_plain he]
    exact gapForceSample_bare_bite hb
  | some m =>
    rw [takeSample_earlier he]
    have hin : (s.takenIn k m).stands[k] = { s.stands[k] with mode := m } := setStand_same s k _
    obtain ⟨hholds, hacts⟩ := gapForceSample_bare_bite (k := k) (v := v) (s := s.takenIn k m) (by rw [hin]; exact hb)
    rw [hin] at hholds
    generalize gapForceSample k v (s.takenIn k m) = t at hholds hacts
    have hat : (t.heldAgain k).stands[k] = { t.stands[k] with mode := .hold } := setStand_same t k _
    exact ⟨by rw [hat]; exact hholds, hacts⟩

theorem LimitsCalm.congr {k : Stand} {v : Int} {s t : State} (h : LimitsCalm k v s) (hp : t.stands[k].params = s.stands[k].params)
    (hpol : t.policy = s.policy) (ht : t.trip = s.trip) (hm : t.mode = s.mode) : LimitsCalm k v t := fun p hpar c hc =>
  (startsTrip_congr hpol ht hm c.1).trans (h p (hp.symm.trans hpar) c hc)

theorem Prepared.calm {k : Stand} {v : Int} {s t : State} (h : Prepared k s t) (hc : LimitsCalm k v s) : LimitsCalm k v t :=
  hc.congr h.params (congrArg State.policy h.frame :) (congrArg State.trip h.frame :) (congrArg State.mode h.frame :)

/-- R39: in whatever order the readers take a FORCE sample, the start comes between readers that start nothing. -/
theorem deliverForce_prepared {k : Stand} {v : Int} {o : ForceOrder} {before : Bool} {s : State} (hcalm : LimitsCalm k v s)
    (hstart : ∀ u, Prepared k s u → LimitsCalm k v (trackForceSample k v u)) :
    ∃ u, Prepared k s u ∧ Prepared k (trackForceSample k v u) (deliverForce k v o before s) := by
  have hG := forceSample_prepared k before v
  have hP : ∀ u, LimitsCalm k v u → Prepared k u (judgeForceLimits k v u) := fun u hu =>
    (judgeForceLimits_quiet hu).prepared k
  have hR := Prepared.refl k s
  cases o with
  | gtp => exact ⟨_, hG s, hP _ (hstart _ (hG s))⟩
  | gpt =>
    have h1 := (hG s).trans (hP _ ((hG s).calm hcalm))
    exact ⟨_, h1, Prepared.refl k _⟩
  | tgp => exact ⟨_, hR, (hG _).trans (hP _ ((hG _).calm (hstart _ hR)))⟩
  | tpg => exact ⟨_, hR, (hP _ (hstart _ hR)).trans (hG _)⟩
  | pgt => exact ⟨_, (hP _ hcalm).trans (hG _), Prepared.refl k _⟩
  | ptg => exact ⟨_, hP _ hcalm, hG _⟩

/-! ### The return point at a start (R102) -/

theorem isEmpty_iff (h : Holds) : h.isEmpty = true ↔ h = ⟨false, false, false, false⟩ := by
  obtain ⟨a, b, c, d⟩ := h
  simp [Holds.isEmpty, and_assoc]

theorem returnMode_eq {s : State} {k : Stand} (hm : s.mode = .thread ∨ s.mode = .run) : returnMode s k = returnedMode s k := by
  unfold returnMode returnedMode
  dsimp only
  simp only [← isEmpty_iff, ← gaugeFit_iff]
  cases s.stands[k].holds.isEmpty with
  | false =>
    rw [if_neg (by simp)]
    rcases hm with hm | hm <;> rw [hm] <;> cases s.stands[k].mode <;> rfl
  | true =>
    rcases hm with hm | hm <;> rw [hm] <;> cases s.stands[k].mode <;> simp

/-- A return point asks for no more than the mode, the stand's mode and hold causes, and whether it is fit for GAUGE. -/
theorem returnedMode_congr {s t : State} {k : Stand} (hm : t.mode = s.mode) (hst : t.stands[k].mode = s.stands[k].mode)
    (hh : t.stands[k].holds = s.stands[k].holds) (hu : ∀ i, t.usable i = s.usable i)
    (ha : t.actuators[k].mode = s.actuators[k].mode) : returnedMode t k = returnedMode s k := by
  unfold returnedMode
  rw [hm, hst, hh, hu, hu, ha]

/-- A state with what a start of a bite point writes put back to what it was. -/
def State.unbite (s t : State) : State :=
  { t with
    points := s.points, stands := s.stands, faults := s.faults, transitions := s.transitions, logs := s.logs, port := s.port }

/-- What the start of B_k on segment n writes, its arrival and the return point of stand k included. -/
structure BiteStarted (k : Stand) (n : SegNo) (s t : State) : Prop where
  frame : s.unbite t = s
  point : t.points[bitePoint k] = s.points[bitePoint k].startedOn n s.time
  others : ∀ q : PointNo, q ≠ bitePoint k →
    t.points[q] = if q.val = (bitePoint k).val + 1 then { s.points[q] with early := false } else s.points[q]
  gone : ∀ q : PointNo, q.val = (bitePoint k).val + 1 → s.points[q].early = true → q.val ∉ t.faults[Kind.trackOverrun].active
  stand : t.stands[k] = { s.stands[k] with bite := some n, sum := 0, count := 0, mode := returnedMode s k }

theorem startPoint_biteStarted {k : Stand} {s : State} {g : Segment} {rest : List Segment} (hm : s.mode = .thread ∨ s.mode = .run)
    (hr : s.ring = g :: rest) : BiteStarted k g.number s (startPoint (bitePoint k) s.time s) := by
  rw [startPoint_bite (biteOf_bitePoint k) hr]
  have hsp := startedAt_spec (bitePoint k) g.number s.time s
  generalize startedAt (bitePoint k) g.number s.time s = u at hsp
  have hust : u.stands = s.stands := (congrArg State.stands hsp.frame :)
  have hat : (biteArrives k g.number u).stands[k] = { s.stands[k] with bite := some g.number, sum := 0, count := 0 } :=
    (setStand_same u k _).trans (by rw [hust])
  have hbf : { biteArrives k g.number u with points := s.points, stands := s.stands, faults := s.faults } = s :=
    (congrArg (fun x : State => { x with stands := s.stands }) hsp.frame :)
  have hbp : (biteArrives k g.number u).points = u.points := rfl
  have hbr : (biteArrives k g.number u).faults = u.faults := rfl
  generalize biteArrives k g.number u = w at hat hbf hbp hbr
  have ha := scheduleArrival_frame (bitePoint k) g.number w
  generalize scheduleArrival (bitePoint k) g.number w = x at ha
  have hxst : x.stands = w.stands := (congrArg State.stands ha :)
  have hxp : x.points = u.points := (congrArg State.points ha :).trans hbp
  have hxf : x.faults = u.faults := (congrArg State.faults ha :).trans hbr
  have hxm : x.mode = s.mode := (congrArg State.mode ha :).trans (congrArg State.mode hbf :)
  have hxc : x.channels = s.channels := (congrArg State.channels ha :).trans (congrArg State.channels hbf :)
  have hxa : x.actuators = s.actuators := (congrArg State.actuators ha :).trans (congrArg State.actuators hbf :)
  have hret : returnMode x k = returnedMode s k := by
    rw [returnMode_eq (by rw [hxm]; exact hm)]
    refine returnedMode_congr hxm (by rw [hxst, hat]) (by rw [hxst, hat]) (fun i => usable_congr (fun y => by rw [hxc]) fun y _ => by rw [hxc]) (by rw [hxa])
  have hxat : (returnPoint k x).stands[k] = { x.stands[k] with mode := returnMode x k } := setStand_same x k _
  refine ⟨?_, (congrArg (fun v : Vector Point 9 => v[bitePoint k]) hxp).trans hsp.point, fun q hq =>
    (congrArg (fun v : Vector Point 9 => v[q]) hxp).trans (hsp.others q hq), fun q hq he => ?_, ?_⟩
  · exact (congrArg s.unbite ha :).trans (congrArg s.unbite hbf :)
  · have hrow : (returnPoint k x).faults = u.faults := hxf
    rw [hrow]
    exact hsp.gone q hq he
  · rw [hxat, hret, hxst, hat]

/-! ### FORCE samples above the loaded level -/

theorem trackForceSample_loaded {k : Stand} {p : StandParams} {v : Int} {q : PointNo} {s : State} (hp : s.stands[k].params = some p)
    (hl : p.loaded v = true) (hq : q.val + 1 = (bitePoint k).val) (hm : s.mode = .thread ∨ s.mode = .run) (ht : s.trip = .normal)
    (hs : s.points[bitePoint k].started = false) : trackForceSample k v s =
      if s.points[q].started = true then startPoint (bitePoint k) s.time s else earlyStart (bitePoint k) s := by
  simp only [trackForceSample, hp, hl, if_true]
  exact startingEvent_on hq (tracking_true hm) (frozen_false ht) hs

/-- What stands before the start of B_k at a FORCE sample: the readers that started nothing have gone before. -/
structure ForceStarts (k : Stand) (p : StandParams) (v : Int) (q : PointNo) (s : State) : Prop where
  params : s.stands[k].params = some p
  loaded : p.loaded v = true
  upstream : q.val + 1 = (bitePoint k).val
  running : s.mode = .thread ∨ s.mode = .run
  normal : s.trip = .normal
  unstarted : s.points[bitePoint k].started = false
  calm : LimitsCalm k v s

theorem ForceStarts.prepared {k : Stand} {p : StandParams} {v : Int} {q : PointNo} {s u : State} (h : ForceStarts k p v q s)
    (hu : Prepared k s u) : trackForceSample k v u =
      if s.points[q].started = true then startPoint (bitePoint k) s.time u else earlyStart (bitePoint k) u := by
  have hpts : u.points = s.points := (congrArg State.points hu.frame :)
  have hmode : u.mode = s.mode := (congrArg State.mode hu.frame :)
  have htrip : u.trip = s.trip := (congrArg State.trip hu.frame :)
  have htime : u.time = s.time := (congrArg State.time hu.frame :)
  rw [trackForceSample_loaded (hu.params.trans h.params) h.loaded h.upstream (by rw [hmode]; exact h.running)
    (htrip.trans h.normal) (by rw [hpts]; exact h.unstarted), hpts, htime]

/-- R49, R102: the start of a bite point at a FORCE sample. -/
theorem deliverForce_starts {k : Stand} {p : StandParams} {v : Int} {q : PointNo} {s t : State} {g : Segment} {rest : List Segment}
    {o : ForceOrder} {before : Bool} (h : ForceStarts k p v q s) (hq : s.points[q].started = true)
    (hb : s.stands[k].bite = none) (hr : s.ring = g :: rest) (ht : t = deliverForce k v o before s) :
    t.points[bitePoint k] = s.points[bitePoint k].startedOn g.number s.time ∧
    (∀ x : PointNo, x ≠ bitePoint k →
      t.points[x] = if x.val = (bitePoint k).val + 1 then { s.points[x] with early := false } else s.points[x]) ∧
    (∀ x : PointNo, x.val = (bitePoint k).val + 1 → s.points[x].early = true → x.val ∉ t.faults[Kind.trackOverrun].active) ∧
    t.stands[k].bite = some g.number ∧ t.stands[k].mode = returnedMode s k ∧ t.ring = s.ring ∧ t.mode = s.mode := by
  have hT : ∀ u, Prepared k s u → BiteStarted k g.number u (trackForceSample k v u) := fun u hu => by
    have hur : u.ring = g :: rest := (congrArg State.ring hu.frame :).trans hr
    have hmode : u.mode = s.mode := (congrArg State.mode hu.frame :)
    have htime : u.time = s.time := (congrArg State.time hu.frame :)
    rw [h.prepared hu, if_pos hq, ← htime]
    exact startPoint_biteStarted (by rw [hmode]; exact h.running) hur
  obtain ⟨u, hu, hdone⟩ := deliverForce_prepared (o := o) (before := before) h.calm fun u hu =>
    (hu.calm h.calm).congr (by rw [(hT u hu).stand]) (congrArg State.policy (hT u hu).frame :)
      (congrArg State.trip (hT u hu).frame :) (congrArg State.mode (hT u hu).frame :)
  have hs := hT u hu
  rw [← ht] at hdone
  generalize trackForceSample k v u = w at hdone hs
  have hup : u.points = s.points := (congrArg State.points hu.frame :)
  have hut : u.time = s.time := (congrArg State.time hu.frame :)
  have huc : u.channels = s.channels := (congrArg State.channels hu.frame :)
  obtain ⟨hholds, hacts⟩ := hu.bare hb
  have hret : returnedMode u k = returnedMode s k :=
    returnedMode_congr (congrArg State.mode hu.frame :) hu.mode hholds
      (fun i => usable_congr (fun y => by rw [huc]) fun y _ => by rw [huc]) (by rw [hacts])
  have htp : t.points = w.points := (congrArg State.points hdone.frame :)
  have hwb : w.stands[k].bite = some g.number := by rw [hs.stand]
  have hwm : w.stands[k].mode = returnedMode u k := by rw [hs.stand]
  obtain ⟨hsf, hpoint, hothers, hgone, -⟩ := hs
  rw [hup] at hothers hgone hpoint
  rw [hut] at hpoint
  refine ⟨?_, fun x hx => ?_, fun x hx he => ?_, hdone.bite.trans hwb, hdone.mode.trans (hwm.trans hret), ?_, ?_⟩
  · rw [htp]
    exact hpoint
  · rw [htp]
    exact hothers x hx
  · rw [hdone.row]
    exact hgone x hx he
  · exact (congrArg State.ring hdone.frame :).trans ((congrArg State.ring hsf :).trans (congrArg State.ring hu.frame :))
  · exact (congrArg State.mode hdone.frame :).trans ((congrArg State.mode hsf :).trans (congrArg State.mode hu.frame :))

/-- R50: an early start of a bite point, where its kind does not trip: the first marks it, a further one does nothing. -/
theorem deliverForce_early {k : Stand} {p : StandParams} {v : Int} {q : PointNo} {s t : State} {o : ForceOrder} {before : Bool}
    (h : ForceStarts k p v q s) (hq : s.points[q].started = false) (ht : t = deliverForce k v o before s) :
    (s.points[bitePoint k].early = false → s.trips Kind.trackOverrun = false →
      t.points = s.points.set (bitePoint k) { s.points[bitePoint k] with early := true } ∧
      (bitePoint k).val ∈ t.faults[Kind.trackOverrun].active ∧ t.stands[k].bite = s.stands[k].bite) ∧
    (s.points[bitePoint k].early = true →
      t.points = s.points ∧ t.faults[Kind.trackOverrun] = s.faults[Kind.trackOverrun]) := by
  have hT : ∀ u, Prepared k s u → trackForceSample k v u = earlyStart (bitePoint k) u := fun u hu => by
    rw [h.prepared hu, if_neg (by rw [hq]; decide)]
  refine ⟨fun he htrips => ?_, fun he => ?_⟩
  · have hraise : ∀ u, Prepared k s u → Raised [(Kind.trackOverrun, (bitePoint k).val)]
        (u.setPoint (bitePoint k) { s.points[bitePoint k] with early := true }) (trackForceSample k v u) := fun u hu => by
      have hup : u.points = s.points := (congrArg State.points hu.frame :)
      rw [hT u hu, earlyStart_first (by rw [hup]; exact he), hup]
      exact raise_quiet (k := Kind.trackOverrun) (bitePoint k).val
        (s := u.setPoint (bitePoint k) { s.points[bitePoint k] with early := true }) (by decide)
        (startsTrip_of_trips ((trips_congr (congrArg State.policy hu.frame :) _).trans htrips))
    obtain ⟨u, hu, hdone⟩ := deliverForce_prepared (o := o) (before := before) h.calm fun u hu => by
      have hst : (trackForceSample k v u).stands = u.stands := (congrArg State.stands (hraise u hu).recorded :)
      exact (hu.calm h.calm).congr (by rw [hst]) (congrArg State.policy (hraise u hu).recorded :)
        (congrArg State.trip (hraise u hu).recorded :) (congrArg State.mode (hraise u hu).recorded :)
    have hr := hraise u hu
    rw [← ht] at hdone
    generalize trackForceSample k v u = w at hdone hr
    have hup : u.points = s.points := (congrArg State.points hu.frame :)
    have hwp : w.points = u.points.set (bitePoint k) { s.points[bitePoint k] with early := true } :=
      (congrArg State.points hr.recorded :)
    have hws : w.stands = u.stands := (congrArg State.stands hr.recorded :)
    refine ⟨(congrArg State.points hdone.frame :).trans (hwp.trans (by rw [hup])), ?_, ?_⟩
    · rw [hdone.row]
      exact hr.on
    · rw [hdone.bite, hws, hu.bite]
  · have hid : ∀ u, Prepared k s u → trackForceSample k v u = u := fun u hu => by
      have hup : u.points = s.points := (congrArg State.points hu.frame :)
      rw [hT u hu, earlyStart_again (by rw [hup]; exact he)]
    obtain ⟨u, hu, hdone⟩ := deliverForce_prepared (o := o) (before := before) h.calm fun u hu => by
      rw [hid u hu]
      exact hu.calm h.calm
    rw [hid u hu, ← ht] at hdone
    have hall := hu.trans hdone
    exact ⟨(congrArg State.points hall.frame :), hall.row⟩

/-- R67: a FORCE sample that finds its point started, is not above the loaded level, or comes in a trip starts nothing. -/
theorem deliverForce_still {k : Stand} {v : Int} {s : State} {o : ForceOrder} {before : Bool} (hcalm : LimitsCalm k v s)
    (h : ∀ u, Prepared k s u → trackForceSample k v u = u) : (deliverForce k v o before s).points = s.points := by
  obtain ⟨u, hu, hdone⟩ := deliverForce_prepared (o := o) (before := before) hcalm fun u hu => by
    rw [h u hu]
    exact hu.calm hcalm
  rw [h u hu] at hdone
  exact (congrArg State.points (hu.trans hdone).frame :)

theorem trackForceSample_off {k : Stand} {v : Int} {s : State} (h : s.trip ≠ .normal) : trackForceSample k v s = s := by
  unfold trackForceSample
  split
  next =>
    split
    next => exact startingEvent_off (.inr (.inl ((frozen_iff s).2 h)))
    next => rfl
  next => rfl

/-- Settles O42: starting events and readings. -/
theorem pointsStart : Obligations.PointsStart := by
  intro l f o e v s
  refine ⟨fun hm ht => ⟨fun k p q hb hp hv hnear hq => ?_, fun p u i c hi hu hup hrx hhead hent hc hci hps hv => ?_⟩,
    fun p i added hi hadded hcase => ⟨fun c hup hrx hhead hent hc hci hv => ?_, fun u hb hu => ?_⟩, fun k hb htrip => ?_⟩
  · have hexec := brings_force o hb
    have hcalm : LimitsCalm k v (s.sampled l f e v) := limitsCalm_below (p := p) hp hnear (.inl hv)
    refine ⟨fun hl hs => ?_, fun hno => ?_⟩
    · have hst : ForceStarts k p v q (s.sampled l f e v) := ⟨hp, (loaded_iff p v).2 hl, hq, hm, ht, hs, hcalm⟩
      refine ⟨fun g rest hqs hbite hr => ?_, fun hqs he htrips => ?_, fun hqs he => ?_⟩
      · obtain ⟨h1, h2, h3, h4, h5, h6, h7⟩ := deliverForce_starts (o := o.force) (before := o.beforeReport) hst hqs hbite hr rfl
        rw [returnedMode_congr (s := s) (t := s.sampled l f e v) rfl rfl rfl (hb.usable_at ·) rfl] at h5
        exact ⟨_, hexec, h1, h2, h3, h4, h5, h6, h7⟩
      · obtain ⟨h1, h2, h3⟩ := (deliverForce_early (o := o.force) (before := o.beforeReport) hst hqs rfl).1 he htrips
        exact ⟨_, hexec, h1, h2, h3⟩
      · obtain ⟨h1, h2⟩ := (deliverForce_early (o := o.force) (before := o.beforeReport) hst hqs rfl).2 he
        exact ⟨_, hexec, h1, h2⟩
    · refine ⟨_, hexec, deliverForce_still hcalm fun u hu => ?_⟩
      have hup : u.points = s.points := (congrArg State.points hu.frame :)
      have hupar : u.stands[k].params = some p := hu.params.trans hp
      refine startsNone_started hupar (fun hl => ?_) u rfl rfl (.inl rfl)
      rw [hup]
      exact hno.resolve_left (not_le.2 ((loaded_iff p v).1 hl))
  · have hg : gaugePoint c.item = some p := by rcases hi with ⟨rfl, rfl⟩ | ⟨rfl, rfl⟩ <;> rw [hci] <;> rfl
    have hx0 : p ≠ PointNo.x0 := by rcases hi with ⟨-, rfl⟩ | ⟨-, rfl⟩ <;> decide
    have hbn : biteOf p = none := by rcases hi with ⟨-, rfl⟩ | ⟨-, rfl⟩ <;> decide
    have hf : GaugeFrame s l f e c v := ⟨hup, hrx, hhead, hent, hc, hv⟩
    refine ⟨fun g rest hstrip hus hr => gaugeFrame_starts hf o hg hbn hx0 hu hm ht hps hstrip hus hr, fun hstrip hus he htrips =>
      gaugeFrame_early hf o hg hx0 hu hm ht hps hstrip hus he htrips, fun hno => ?_⟩
    obtain ⟨t, hexec, hpts⟩ := gaugeFrame_reads hf o hg fun hx => by
      obtain ⟨hus, he⟩ := hno.resolve_left (by rw [hx.1]; decide)
      rw [startingEvent_on (s := s.flagged l f e) hu (tracking_true hm) (frozen_false ht) hps]
      exact (if_neg (Bool.eq_false_iff.1 hus)).trans (earlyStart_again he)
    exact ⟨t, hexec, hpts.trans (if_neg fun hx => Bool.eq_false_iff.1 hps hx.2.2.1)⟩
  · have hg : gaugePoint c.item = some p := by rcases hi with ⟨rfl, rfl⟩ | ⟨rfl, rfl⟩ | ⟨rfl, rfl⟩ <;> rw [hci] <;> rfl
    obtain ⟨t, hexec, hpts⟩ := gaugeFrame_reads ⟨hup, hrx, hhead, hent, hc, hv⟩ o hg fun _ => startingEvent_off (hcase.elim
      (fun hs => .inr (.inr hs)) fun htr => .inr (.inl ((frozen_iff (s.flagged l f e)).2 htr)))
    refine ⟨t, hexec, fun ha => hpts.trans (if_pos ?_), fun ha => hpts.trans (if_neg fun hx => ?_)⟩
    · rw [hadded] at ha
      simp only [Bool.and_eq_true, decide_eq_true_eq] at ha
      obtain ⟨⟨⟨h1, h2⟩, h3⟩, h4⟩ := ha
      exact ⟨h3, h2, h1, h4⟩
    · rw [hadded] at ha
      obtain ⟨h3, h2, h1, h4⟩ := hx
      rw [h1, h2, decide_eq_true h3, decide_eq_true h4] at ha
      exact absurd ha (by decide)
  · have hg : gaugePoint i = some p := by rcases hi with ⟨rfl, rfl⟩ | ⟨rfl, rfl⟩ | ⟨rfl, rfl⟩ <;> rfl
    have hrange : 0 ≤ v ∧ v ≤ 100000 := by
      have := hb.fits
      rcases hi with ⟨rfl, -⟩ | ⟨rfl, -⟩ | ⟨rfl, -⟩ <;> exact this
    have hexec := gaugeFrame_exact hb o hg fun _ => startingEvent_off (hcase.elim (fun hs => .inr (.inr hs)) fun htr =>
      .inr (.inl ((frozen_iff (s.flagged l f e)).2 htr)))
    rw [← hu] at hexec
    refine ⟨fun ha => hexec.trans (congrArg Host.Outcome.next (if_pos ?_)), fun ha => hexec.trans (congrArg Host.Outcome.next
      (if_neg fun hx => ?_))⟩
    · rw [hadded] at ha
      simp only [Bool.and_eq_true, decide_eq_true_eq] at ha
      obtain ⟨⟨⟨h1, h2⟩, -⟩, h4⟩ := ha
      exact ⟨h2, h1, h4⟩
    · rw [hadded] at ha
      obtain ⟨h2, h1, h4⟩ := hx
      rw [h1, h2, decide_eq_true hrange, decide_eq_true h4] at ha
      exact absurd ha (by decide)
  · refine ⟨_, brings_force o hb, deliverForce_still (fun _ _ c _ => startsTrip_of_trip htrip c.1) fun u hu =>
      trackForceSample_off ?_⟩
    have hut : u.trip = s.trip := (congrArg State.trip hu.frame :)
    rw [hut]
    exact htrip

end Sys2Proof.Machine

/-! SUPPORT. The clearing of tracking (R11 steps 1 to 5, R68): the release of every segment, the closing of every report, the
cancelling of every transition. -/

namespace Sys2Proof.Machine

/-! ### Releasing the whole ring (R59, R160, R166) -/

/-- R80, R81: a table after the references of several segments have been dropped, by their tags. -/
def droppedTable (tags : List Nat) (tbl : List InForce) : List InForce :=
  tags.foldl (fun tb t => (refDropped t tb).filter fun e => e.isEntry || decide (0 < e.refs)) tbl

/-- R166: a report after the segments gs have been accounted as discarded. -/
def CoilReport.discards (c : ReleaseCause) (gs : List Segment) (r : CoilReport) : CoilReport :=
  gs.foldl (fun r g => if r.coil = g.coil then r.account g c none else r) r

/-- What the release of the segments gs in a clearing writes. -/
structure Released (c : ReleaseCause) (gs : List Segment) (s t : State) : Prop where
  frame : { t with
    ring := s.ring, reports := s.reports, runState := s.runState, logs := s.logs, faults := s.faults, table := s.table } = s
  ring : t.ring = s.ring.drop gs.length
  reports : t.reports = s.reports.map (·.discards c gs)
  run : t.runState = s.runState.filter fun r => !gs.any (·.coil == r.coil)
  logs : t.logs = s.logs.set LogNo.defect
    (s.logs[LogNo.defect].afterRun (s.runState.filter fun r => gs.any (·.coil == r.coil)) s.logTime)
  ends : Ends [Kind.offGaugeRun] s t
  table : t.table = droppedTable (gs.map (·.tag)) s.table

theorem discards_cons (c : ReleaseCause) (g : Segment) (gs : List Segment) (r : CoilReport) :
    r.discards c (g :: gs) = (r.discards c [g]).discards c gs := rfl

/-- R59: one segment released in a clearing. -/
theorem releaseSegment_clearing {c : ReleaseCause} (hc : c.clears = true) (g : Segment) (s : State) :
    releaseSegment g c none s = dropRef g.tag (modifyReport g.coil (fun r => r.account g c none)
      (endRunOf g.coil { s with ring := s.ring.drop 1 })) := by
  cases c
  case passed => exact absurd hc (by decide)
  case forced => exact absurd hc (by decide)
  case discardedStop => rfl
  case discardedTrip => rfl

theorem logs_set_self (s : State) (g : LogNo) : s.logs.set g s.logs[g] = s.logs := Vector.set_getElem_self _

/-- R160: the run in progress ends where it is of this coil. -/
theorem endRunOf_cases (c : CoilNo) (s : State) : (∃ r, s.runState = some r ∧ r.coil = c ∧ endRunOf c s = endRun s) ∨
    ((∀ r, s.runState = some r → r.coil ≠ c) ∧ endRunOf c s = s) := by
  unfold endRunOf
  split
  next r hr =>
    by_cases h : r.coil = c
    · rw [if_pos h]
      exact .inl ⟨r, hr, h, rfl⟩
    · rw [if_neg h]
      exact .inr ⟨fun x hx => by rw [← Option.some.inj (hr.symm.trans hx)]; exact h, rfl⟩
  next hr => exact .inr ⟨fun x hx => absurd (hr.symm.trans hx) (by simp), rfl⟩

theorem released_one {c : ReleaseCause} (hc : c.clears = true) (g : Segment) (s : State) :
    Released c [g] s (releaseSegment g c none s) := by
  rw [releaseSegment_clearing hc]
  have hany : ∀ r : RunState, ([g].any (·.coil == r.coil)) = (g.coil == r.coil) := fun r => by simp
  rcases endRunOf_cases g.coil { s with ring := s.ring.drop 1 } with ⟨r, hr, hcoil, heq⟩ | ⟨hno, heq⟩
  · have hsr : s.runState = some r := hr
    have hyes : (g.coil == r.coil) = true := beq_iff_eq.2 hcoil.symm
    have hrun := endRun_some hr
    have hsp := (endRun_spec { s with ring := s.ring.drop 1 }).2.2.1
    rw [heq]
    rw [hrun] at hsp ⊢
    refine ⟨rfl, rfl, rfl, ?_, ?_, Ends.trans (t := { s with ring := s.ring.drop 1 }) (Ends.of_faults (by rfl) _)
      (hsp.trans (Ends.of_faults (by rfl) _)), rfl⟩
    · rw [hsr, Option.filter_some, hany, hyes]
      rfl
    · rw [hsr, Option.filter_some, hany, hyes, if_pos rfl, ← hsr]
      rfl
  · rw [heq]
    have hnone : (s.runState.filter fun r => [g].any (·.coil == r.coil)) = none := by
      refine Option.filter_eq_none_iff.2 fun r hr hx => ?_
      rw [hany] at hx
      exact hno r hr (beq_iff_eq.1 hx).symm
    have hall : (s.runState.filter fun r => !([g].any (·.coil == r.coil))) = s.runState := by
      cases hr : s.runState with
      | none => rfl
      | some r =>
        rw [Option.filter_some, hany, beq_eq_false_iff_ne.2 fun h => hno r hr h.symm]
        rfl
    refine ⟨rfl, rfl, rfl, hall.symm, ?_, Ends.of_faults (by rfl) _, rfl⟩
    rw [hnone]
    exact (logs_set_self s _).symm

/-- R160: a run ends at the first release of its coil. -/
theorem afterRun_filter (g : Log) (r : Option RunState) (t : Millis) (p q : RunState → Bool) :
    (g.afterRun (r.filter p) t).afterRun ((r.filter fun x => !p x).filter q) t = g.afterRun (r.filter fun x => p x || q x) t := by
  cases r with
  | none => rfl
  | some x => cases hp : p x <;> cases hq : q x <;> simp [Option.filter_some, hp, hq, Log.afterRun]

theorem Released.cons {c : ReleaseCause} {g : Segment} {gs : List Segment} {s u t : State} (h : Released c [g] s u)
    (h' : Released c gs u t) : Released c (g :: gs) s t := by
  have htime : u.logTime = s.logTime := (congrArg State.logTime h.frame :)
  refine ⟨(congrArg (fun x : State => { x with
      ring := s.ring, reports := s.reports, runState := s.runState, logs := s.logs, faults := s.faults, table := s.table })
      h'.frame :).trans h.frame, ?_, ?_, ?_, ?_, h.ends.trans h'.ends, ?_⟩
  · rw [h'.ring, h.ring, List.drop_drop]
    congr 1
    simp [Nat.add_comm]
  · rw [h'.reports, h.reports, List.map_map]
    rfl
  · rw [h'.run, h.run, Option.filter_filter]
    refine congrArg (Option.filter · s.runState) (funext fun r => ?_)
    simp
  · rw [h'.logs, h.run, htime, h.logs, logs_set_same, Vector.set_set, afterRun_filter]
    simp only [List.any_cons, List.any_nil, Bool.or_false]
  · rw [h'.table, h.table]
    rfl

theorem Released.refl (c : ReleaseCause) (s : State) : Released c [] s s := by
  refine ⟨rfl, rfl, ?_, ?_, ?_, Ends.refl _ s, rfl⟩
  · exact (List.map_id' s.reports).symm
  · cases s.runState <;> rfl
  · have hnone : (s.runState.filter fun r => ([] : List Segment).any (·.coil == r.coil)) = none := by
      cases s.runState <;> rfl
    rw [hnone]
    exact (logs_set_self s _).symm

theorem releases_released {c : ReleaseCause} (hc : c.clears = true) : ∀ (gs : List Segment) (s : State),
    Released c gs s (gs.foldl (fun s g => releaseSegment g c none s) s)
  | [], s => Released.refl c s
  | g :: gs, s => (released_one hc g s).cons (releases_released hc gs _)

/-- R68: the whole ring released in a clearing. -/
theorem releaseAll_released {c : ReleaseCause} (hc : c.clears = true) (s : State) : Released c s.ring s (releaseAll c s) :=
  releases_released hc s.ring s

/-! ### Closing every report (R168) -/

/-- R168: a report as it closes. -/
def CoilReport.closed (r : CoilReport) (segLen : Nat) (st : ReportState) : CoilReport :=
  { r with offLength := roundDiv (r.offCount * segLen) 1000, state := st }

/-- What closing reports writes, whatever they are. -/
structure Closed (s t : State) : Prop where
  frame : { t with reports := s.reports, logs := s.logs, port := s.port } = s
  others : ∀ g : LogNo, g ≠ LogNo.coil → t.logs[g] = s.logs[g]

theorem Closed.refl (s : State) : Closed s s := ⟨rfl, fun _ _ => rfl⟩

theorem Closed.trans {s t u : State} (h : Closed s t) (h' : Closed t u) : Closed s u :=
  ⟨(congrArg (fun x : State => { x with reports := s.reports, logs := s.logs, port := s.port }) h'.frame :).trans h.frame,
    fun g hg => (h'.others g hg).trans (h.others g hg)⟩

theorem closeReport_some {c : CoilNo} {st : ReportState} {s : State} {r : CoilReport} (h : s.report c = some r) :
    closeReport c st s = { s with
      reports := s.reports.filter (·.coil ≠ c)
      logs := s.logs.set LogNo.coil (s.logs[LogNo.coil].append 16 s.logTime (.coil (r.closed s.line.segLen st)))
      port := s.port.queueNotice (.coilReport (r.closed s.line.segLen st)) } := by
  simp only [closeReport, h]
  rfl

theorem closeReport_none {c : CoilNo} {st : ReportState} {s : State} (h : s.report c = none) : closeReport c st s = s := by
  simp only [closeReport, h]

theorem closeReport_closed (c : CoilNo) (st : ReportState) (s : State) : Closed s (closeReport c st s) := by
  cases h : s.report c with
  | none =>
    rw [closeReport_none h]
    exact Closed.refl s
  | some r =>
    rw [closeReport_some h]
    exact ⟨rfl, fun g hg => logs_set_other s _ hg⟩

theorem closeReports_closed (st : ReportState) : ∀ (rs : List CoilReport) (s : State),
    Closed s (rs.foldl (fun s r => closeReport r.coil st s) s)
  | [], s => Closed.refl s
  | r :: rs, s => (closeReport_closed r.coil st s).trans (closeReports_closed st rs _)

/-- R168: every report closed in its turn, where each coil has one. -/
theorem closeReports_eq (st : ReportState) : ∀ (rs : List CoilReport) (s : State), s.reports = rs → (rs.map (·.coil)).Nodup →
    rs.foldl (fun s r => closeReport r.coil st s) s = { s with
      reports := []
      logs := s.logs.set LogNo.coil (s.logs[LogNo.coil].appendAll 16 s.logTime
        (rs.map fun r => .coil (r.closed s.line.segLen st)))
      port := (rs.map fun r => Notice.coilReport (r.closed s.line.segLen st)).foldl Port.queueNotice s.port }
  | [], s, hs, _ => by
    rw [List.foldl_nil]
    conv_lhs => rw [show s = { s with reports := [] } by rw [← hs]]
    simp [Log.appendAll]
  | r :: rs, s, hs, hn => by
    obtain ⟨hr, hn'⟩ := List.nodup_cons.1 hn
    have hrep : s.report r.coil = some r := by rw [State.report, hs, List.find?_cons, beq_self_eq_true]
    have hrest : s.reports.filter (·.coil ≠ r.coil) = rs := by
      rw [hs, List.filter_cons_of_neg (by simp), List.filter_eq_self]
      intro x hx
      exact decide_eq_true fun hxr => hr (List.mem_map.2 ⟨x, hx, hxr⟩)
    rw [List.foldl_cons, closeReport_some hrep, hrest, closeReports_eq st rs _ rfl hn']
    simp [Log.appendAll]

/-! ### Cancelling every transition (R91) -/

theorem foldl_cancel : ∀ (ts : List Transition) (s : State), ts.foldl (fun s t => cancelTransition t s) s = { s with
    logs := s.logs.set LogNo.schedule (s.logs[LogNo.schedule].appendAll 32 s.logTime (ts.map .cancelled))
    port := (ts.map fun x => Notice.transition .cancelled x none).foldl Port.queueNotice s.port }
  | [], s => by simp [Log.appendAll]
  | t :: ts, s => by
    rw [List.foldl_cons, foldl_cancel ts]
    simp [cancelTransition, State.append, State.setLog, State.notify, Log.appendAll, Config.logCapacity]

theorem cancelTransitions_eq (s : State) : cancelTransitions s = { s with
    transitions := []
    logs := s.logs.set LogNo.schedule (s.logs[LogNo.schedule].appendAll 32 s.logTime ((byWeld s.transitions).map .cancelled))
    port := ((byWeld s.transitions).map fun x => Notice.transition .cancelled x none).foldl Port.queueNotice s.port } := by
  unfold cancelTransitions
  dsimp only
  rw [foldl_cancel]

/-! ### Points, bites and conditions (R68) -/

theorem forStands_biteCleared (s : State) : { forStands biteCleared s with stands := s.stands } = s ∧
    ∀ k : Stand, (forStands biteCleared s).stands[k] = { s.stands[k] with bite := none, sum := 0, count := 0 } := by
  have hP : ∀ (k : Stand) (u : State), { u with stands := s.stands } = s → { biteCleared k u with stands := s.stands } = s :=
    fun k u hu => hu
  refine ⟨forStands_keeps (P := fun u => { u with stands := s.stands } = s) hP rfl, fun k => ?_⟩
  obtain ⟨u, -, hsame, hval⟩ := forStands_at (f := biteCleared) (fun k u => u.stands[k]) hP
    (fun j k u _ hjk => (stands_set_at u k j _).trans (if_neg hjk)) (s := s) rfl k
  rw [hval]
  refine (setStand_same u k _).trans ?_
  rw [hsame]

/-- What unstarting the points writes. -/
structure Unstarted (s t : State) : Prop where
  frame : { t with points := s.points, coilCounter := s.coilCounter, stands := s.stands, faults := s.faults } = s
  points : t.points = Vector.replicate 9 .unstarted
  coil : t.coilCounter = s.coilCounter + 1
  stands : ∀ k : Stand, t.stands[k] = { s.stands[k] with bite := none, sum := 0, count := 0 }
  ends : Ends [Kind.trackOverrun, Kind.trackFull, Kind.offGaugeRun] s t
  gone : ∀ d ∈ [Kind.trackOverrun, Kind.trackFull, Kind.offGaugeRun], t.faults[d].active = []

theorem unstartPoints_unstarted (s : State) : Unstarted s (unstartPoints s) := by
  obtain ⟨hframe, hstands⟩ := forStands_biteCleared
    { s with points := Vector.replicate 9 .unstarted, coilCounter := s.coilCounter + 1 }
  unfold unstartPoints
  dsimp only
  generalize forStands biteCleared { s with points := Vector.replicate 9 .unstarted, coilCounter := s.coilCounter + 1 } = u
    at hframe hstands
  have hfaults : u.faults = s.faults := (congrArg State.faults hframe :)
  refine ⟨(congrArg (fun x : State => { x with points := s.points, coilCounter := s.coilCounter, faults := s.faults }) hframe :),
    (congrArg State.points hframe :), (congrArg State.coilCounter hframe :), hstands, ?_, fun d hd => ?_⟩
  · exact (((Ends.of_faults hfaults _).trans ((allInactive_ends u Kind.trackOverrun).mono (by simp))).trans
      ((allInactive_ends _ Kind.trackFull).mono (by simp))).trans ((allInactive_ends _ Kind.offGaugeRun).mono (by simp))
  · rw [allInactive_at, allInactive_at, allInactive_at]
    simp only [List.mem_cons, List.not_mem_nil, or_false] at hd
    rcases hd with rfl | rfl | rfl <;> simp

end Sys2Proof.Machine

/-! SUPPORT. The clearing of tracking as a whole (R11 steps 1 to 5, R14 step 1, R68): what is left of the state, and what it
records. -/

namespace Sys2Proof.Machine

/-! ### The whole clearing -/

/-- A state with what a clearing of tracking writes put back to what it was. -/
def State.unforget (s t : State) : State :=
  { t with
    ring := s.ring, reports := s.reports, transitions := s.transitions, table := s.table, runState := s.runState, logs := s.logs
    port := s.port, points := s.points, coilCounter := s.coilCounter, stands := s.stands, faults := s.faults }

/-- What a clearing of tracking writes; `left` says what it leaves of the table once the references are dropped. -/
structure Cleared (c : ReleaseCause) (st : ReportState) (left : List InForce → List InForce) (s t : State) : Prop where
  frame : s.unforget t = s
  ring : t.ring = []
  reports : t.reports = []
  transitions : t.transitions = []
  points : t.points = Vector.replicate 9 .unstarted
  coil : t.coilCounter = s.coilCounter + 1
  table : t.table = left (droppedTable (s.ring.map (·.tag)) s.table)
  run : t.runState = s.runState.filter fun r => !s.ring.any (·.coil == r.coil)
  stands : ∀ k : Stand, t.stands[k] = { s.stands[k] with bite := none, sum := 0, count := 0 }
  ends : Ends [Kind.trackOverrun, Kind.trackFull, Kind.offGaugeRun] s t
  gone : ∀ d ∈ [Kind.trackOverrun, Kind.trackFull, Kind.offGaugeRun], t.faults[d].active = []
  defectLog : t.logs[LogNo.defect] = s.logs[LogNo.defect].afterRun
    (s.runState.filter fun r => s.ring.any (·.coil == r.coil)) s.logTime
  scheduleLog : t.logs[LogNo.schedule] = s.logs[LogNo.schedule].appendAll 32 s.logTime ((byWeld s.transitions).map .cancelled)
  otherLogs : ∀ g : LogNo, g ≠ LogNo.coil → g ≠ LogNo.defect → g ≠ LogNo.schedule → t.logs[g] = s.logs[g]
  records : (s.reports.map (·.coil)).Nodup →
    t.logs[LogNo.coil] = s.logs[LogNo.coil].appendAll 16 s.logTime
      (s.reports.map fun r => .coil ((r.discards c s.ring).closed s.line.segLen st)) ∧
    t.port = (s.reports.map (fun r => Notice.coilReport ((r.discards c s.ring).closed s.line.segLen st)) ++
      (byWeld s.transitions).map fun x => Notice.transition .cancelled x none).foldl Port.queueNotice s.port

theorem discards_coil (c : ReleaseCause) : ∀ (gs : List Segment) (r : CoilReport), (r.discards c gs).coil = r.coil
  | [], _ => rfl
  | g :: gs, r => by
    rw [discards_cons, discards_coil c gs]
    unfold CoilReport.discards
    rw [List.foldl_cons, List.foldl_nil]
    split
    next => cases c <;> rfl
    next => rfl

/-- The clearing, whatever `f` does to the table before the points are unstarted. -/
theorem cleared_of {c : ReleaseCause} {st : ReportState} {left : List InForce → List InForce} {f : State → State}
    (hc : c.clears = true) (hf : ∀ u, f u = { u with table := left u.table }) (s : State) :
    Cleared c st left s (unstartPoints (f (cancelTransitions (closeAllReports st (releaseAll c s))))) := by
  have hr := releaseAll_released hc s
  generalize releaseAll c s = s1 at hr
  have hcl := closeReports_closed st s1.reports s1
  have hclx := closeReports_eq st s1.reports s1 rfl
  have hempty := closeAllReports_reports st s1
  have hdef : closeAllReports st s1 = s1.reports.foldl (fun s r => closeReport r.coil st s) s1 := rfl
  rw [← hdef] at hcl hclx
  generalize closeAllReports st s1 = s2 at hcl hclx hempty
  rw [hf, cancelTransitions_eq]
  have hu := unstartPoints_unstarted { s2 with
    transitions := []
    logs := s2.logs.set LogNo.schedule (s2.logs[LogNo.schedule].appendAll 32 s2.logTime ((byWeld s2.transitions).map .cancelled))
    port := ((byWeld s2.transitions).map fun x => Notice.transition .cancelled x none).foldl Port.queueNotice s2.port
    table := left s2.table }
  generalize unstartPoints { s2 with
    transitions := []
    logs := s2.logs.set LogNo.schedule (s2.logs[LogNo.schedule].appendAll 32 s2.logTime ((byWeld s2.transitions).map .cancelled))
    port := ((byWeld s2.transitions).map fun x => Notice.transition .cancelled x none).foldl Port.queueNotice s2.port
    table := left s2.table } = t at hu
  have htr : s2.transitions = s.transitions := (congrArg State.transitions hcl.frame :).trans (congrArg State.transitions hr.frame :)
  have htime : s2.logTime = s.logTime := (congrArg State.logTime hcl.frame :).trans (congrArg State.logTime hr.frame :)
  have hline : s1.line = s.line := (congrArg State.line hr.frame :)
  have htime1 : s1.logTime = s.logTime := (congrArg State.logTime hr.frame :)
  have hport1 : s1.port = s.port := (congrArg State.port hr.frame :)
  have hst : s2.stands = s.stands := (congrArg State.stands hcl.frame :).trans (congrArg State.stands hr.frame :)
  have hlogs : t.logs = s2.logs.set LogNo.schedule (s2.logs[LogNo.schedule].appendAll 32 s2.logTime
    ((byWeld s2.transitions).map .cancelled)) := (congrArg State.logs hu.frame :)
  have hport : t.port = ((byWeld s2.transitions).map fun x => Notice.transition .cancelled x none).foldl Port.queueNotice s2.port :=
    (congrArg State.port hu.frame :)
  have hlog1 : ∀ g : LogNo, g ≠ LogNo.defect → s1.logs[g] = s.logs[g] := fun g hg => by
    rw [hr.logs]
    exact logs_set_other s _ hg
  have hfaults : s2.faults = s1.faults := (congrArg State.faults hcl.frame :)
  have hsch : t.logs[LogNo.schedule] = s2.logs[LogNo.schedule].appendAll 32 s2.logTime ((byWeld s2.transitions).map .cancelled) := by
    rw [hlogs]
    exact logs_set_same s2 _ _
  have hrest : ∀ g : LogNo, g ≠ LogNo.schedule → t.logs[g] = s2.logs[g] := fun g hg => by
    rw [hlogs]
    exact logs_set_other s2 _ hg
  refine ⟨?_, ?_, ?_, (congrArg State.transitions hu.frame :), hu.points, ?_, ?_, ?_, fun k => ?_, ?_, hu.gone, ?_, ?_,
    fun g h1 h2 h3 => ?_, fun hnodup => ?_⟩
  · calc s.unforget t = s.unforget s2 := (congrArg s.unforget hu.frame :)
      _ = s.unforget s1 := (congrArg s.unforget hcl.frame :)
      _ = s := (congrArg s.unforget hr.frame :)
  · refine (congrArg State.ring hu.frame :).trans ((congrArg State.ring hcl.frame :).trans ?_)
    rw [hr.ring, List.drop_length]
  · exact (congrArg State.reports hu.frame :).trans hempty
  · refine hu.coil.trans (congrArg (· + 1) ?_)
    exact (congrArg State.coilCounter hcl.frame :).trans (congrArg State.coilCounter hr.frame :)
  · refine (congrArg State.table hu.frame :).trans (congrArg left ?_)
    exact (congrArg State.table hcl.frame :).trans hr.table
  · exact (congrArg State.runState hu.frame :).trans ((congrArg State.runState hcl.frame :).trans hr.run)
  · rw [hu.stands k]
    show { s2.stands[k] with bite := none, sum := 0, count := 0 } = _
    rw [hst]
  · exact ((hr.ends.mono (by simp)).trans (Ends.of_faults hfaults _)).trans
      ((Ends.of_faults (by rfl) _).trans hu.ends)
  · rw [hrest _ (by decide), hcl.others _ (by decide), hr.logs]
    exact logs_set_same s _ _
  · rw [hsch, htr, htime, hcl.others _ (by decide), hlog1 _ (by decide)]
  · rw [hrest g h3, hcl.others g h1, hlog1 g h2]
  · have hcoils : s1.reports.map (·.coil) = s.reports.map (·.coil) := by
      rw [hr.reports, List.map_map]
      exact List.map_congr_left fun r _ => discards_coil c s.ring r
    have hx := hclx (by rw [hcoils]; exact hnodup)
    have hx1 : s2.logs = s1.logs.set LogNo.coil (s1.logs[LogNo.coil].appendAll 16 s1.logTime
      (s1.reports.map fun r => .coil (r.closed s1.line.segLen st))) := (congrArg State.logs hx :)
    have hx2 : s2.port = (s1.reports.map fun r => Notice.coilReport (r.closed s1.line.segLen st)).foldl Port.queueNotice s1.port :=
      (congrArg State.port hx :)
    rw [hrest _ (by decide), hport, htr, hx1, hx2]
    refine ⟨(logs_set_same s1 _ _).trans ?_, ?_⟩
    · rw [hlog1 _ (by decide), htime1, hline, hr.reports, List.map_map]
      rfl
    · rw [List.foldl_append, hline, hport1, hr.reports, List.map_map]
      rfl

/-- R11 steps 1 to 5: STOP and TRIP_RESET, the table reduced to the entry schedule. -/
theorem clearTracking_cleared {c : ReleaseCause} (hc : c.clears = true) (st : ReportState) (s : State) :
    Cleared c st (fun tbl => (tbl.filter (·.isEntry)).map fun e => { e with base := none }) s (clearTracking c st s) :=
  cleared_of hc (fun _ => rfl) s

/-- R14 step 1: RESTART, the table as the released segments leave it. -/
theorem restartTracking_cleared (s : State) : Cleared .discardedStop .stopped id s (restartTracking s) :=
  cleared_of (f := id) rfl (fun _ => rfl) s

/-! ### The table (R80, R81, R91) -/

theorem refDropped_entries (t : Nat) (tbl : List InForce) :
    ((refDropped t tbl).filter fun e => e.isEntry || decide (0 < e.refs)).filter (·.isEntry) =
      refDropped t (tbl.filter (·.isEntry)) := by
  rw [List.filter_filter]
  unfold refDropped
  rw [List.filter_map]
  refine congrArg (List.map _) (List.filter_congr fun e _ => ?_)
  by_cases h : e.sched.tag = t <;> cases he : e.isEntry <;> simp [h, he]

theorem refDropped_sched (t : Nat) (tbl : List InForce) : (refDropped t tbl).map (·.sched) = tbl.map (·.sched) := by
  unfold refDropped
  rw [List.map_map]
  refine List.map_congr_left fun e _ => ?_
  simp only [Function.comp_apply]
  split <;> rfl

/-- R81: an entry schedule stays in the table, whatever references are dropped. -/
theorem droppedTable_entries : ∀ (tags : List Nat) (tbl : List InForce),
    ((droppedTable tags tbl).filter (·.isEntry)).map (·.sched) = (tbl.filter (·.isEntry)).map (·.sched)
  | [], _ => rfl
  | t :: tags, tbl => by
    refine (droppedTable_entries tags _).trans ?_
    rw [refDropped_entries, refDropped_sched]

/-- R81: the other schedules leave it with the last segment that carries them. -/
theorem droppedTable_rest : ∀ (tags : List Nat) (tbl : List InForce),
    (∀ y ∈ tbl, y.isEntry = true ∨ (0 < y.refs ∧ y.refs = tags.count y.sched.tag)) →
    ∀ y ∈ droppedTable tags tbl, y.isEntry = true
  | [], tbl, h => fun y hy => (h y hy).resolve_right fun hx => by
      obtain ⟨hpos, heq⟩ := hx
      rw [heq] at hpos
      exact absurd hpos (by simp)
  | t :: tags, tbl, h => droppedTable_rest tags _ fun y hy => by
      obtain ⟨hy, hkeep⟩ := List.mem_filter.1 hy
      obtain ⟨x, hx, rfl⟩ := List.mem_map.1 hy
      by_cases htag : x.sched.tag = t
      · rw [if_pos htag] at hkeep ⊢
        rcases h x hx with he | ⟨-, heq⟩
        · exact .inl he
        · rcases Bool.or_eq_true_iff.1 hkeep with he | hpos
          · exact .inl he
          · refine .inr ⟨of_decide_eq_true hpos, ?_⟩
            show x.refs - 1 = tags.count x.sched.tag
            rw [heq, htag, List.count_cons_self]
            rfl
      · rw [if_neg htag] at hkeep ⊢
        refine (h x hx).imp_right fun hxr => ⟨hxr.1, ?_⟩
        rw [hxr.2, List.count_cons_of_ne (Ne.symm htag)]

/-! ### The records in the terms of the rules -/

theorem account_clearing {c : ReleaseCause} (hc : c.clears = true) (r : CoilReport) (g : Segment) : r.account g c none = { r with
    discarded := r.discarded + 1
    manualMarked := r.manualMarked + if g.manual = true then 1 else 0
    tripMarked := r.tripMarked + if g.tripMark = true then 1 else 0 } := by
  cases c
  case passed => exact absurd hc (by decide)
  case forced => exact absurd hc (by decide)
  case discardedStop => cases hm : g.manual <;> cases ht : g.tripMark <;> simp [CoilReport.account, hm, ht]
  case discardedTrip => cases hm : g.manual <;> cases ht : g.tripMark <;> simp [CoilReport.account, hm, ht]

theorem discards_clearing {c : ReleaseCause} (hc : c.clears = true) : ∀ (gs : List Segment) (r : CoilReport),
    r.discards c gs = { r with
      discarded := r.discarded + (gs.filter fun g => g.coil == r.coil).length
      manualMarked := r.manualMarked + (gs.filter fun g => g.coil == r.coil && g.manual).length
      tripMarked := r.tripMarked + (gs.filter fun g => g.coil == r.coil && g.tripMark).length }
  | [], _ => rfl
  | g :: gs, r => by
    rw [discards_cons, discards_clearing hc gs, discards_coil]
    have hone : r.discards c [g] = if r.coil = g.coil then r.account g c none else r := rfl
    rw [hone]
    by_cases h : g.coil = r.coil
    · rw [if_pos h.symm, account_clearing hc]
      simp only [List.filter_cons, h, beq_self_eq_true, Bool.true_and, if_true, List.length_cons]
      cases g.manual <;> cases g.tripMark <;> simp <;> omega
    · rw [if_neg (Ne.symm h)]
      simp [h]

/-- R168: a report as a clearing leaves it in the coil log. -/
theorem discards_closed {c : ReleaseCause} (hc : c.clears = true) (s : State) (st : ReportState) (r : CoilReport) :
    (r.discards c s.ring).closed s.line.segLen st = r.cleared s st := by
  rw [discards_clearing hc]
  rfl

theorem insertByWeld_perm (t : Transition) : ∀ ts : List Transition, List.Perm (insertByWeld t ts) (t :: ts)
  | [] => List.Perm.refl _
  | u :: us => by
    unfold insertByWeld
    split
    next => exact List.Perm.refl _
    next => exact ((insertByWeld_perm t us).cons u).trans (List.Perm.swap t u us)

theorem byWeld_perm : ∀ ts : List Transition, List.Perm (byWeld ts) ts
  | [] => List.Perm.refl _
  | t :: ts => (insertByWeld_perm t (byWeld ts)).trans ((byWeld_perm ts).cons t)

theorem insertByWeld_sorted {t : Transition} : ∀ {ts : List Transition}, ts.Pairwise (fun a b => a.weld.toNat ≤ b.weld.toNat) →
    (insertByWeld t ts).Pairwise fun a b => a.weld.toNat ≤ b.weld.toNat
  | [], _ => List.pairwise_singleton _ _
  | u :: us, h => by
    obtain ⟨hu, hus⟩ := List.pairwise_cons.1 h
    unfold insertByWeld
    split
    next hle =>
      refine List.pairwise_cons.2 ⟨fun x hx => ?_, h⟩
      rcases List.mem_cons.1 hx with rfl | hx
      · exact hle
      · exact hle.trans (hu x hx)
    next hlt =>
      refine List.pairwise_cons.2 ⟨fun x hx => ?_, insertByWeld_sorted hus⟩
      rcases List.mem_cons.1 ((insertByWeld_perm t us).mem_iff.1 hx) with rfl | hx
      · exact (not_le.1 hlt).le
      · exact hu x hx

theorem byWeld_sorted : ∀ ts : List Transition, (byWeld ts).Pairwise fun a b => a.weld.toNat ≤ b.weld.toNat
  | [] => List.Pairwise.nil
  | _ :: ts => insertByWeld_sorted (byWeld_sorted ts)

/-- R91: the cancelling goes through the transitions in weld order. -/
theorem byWeld_eq {ts : List Transition} {s : State} (h : InWeldOrder ts s) : byWeld s.transitions = ts := by
  obtain ⟨hperm, hsorted⟩ := h
  have hp : List.Perm (byWeld s.transitions) ts := (byWeld_perm _).trans hperm.symm
  refine hp.eq_of_pairwise (le := fun a b => a.weld.toNat ≤ b.weld.toNat) (fun a b ha hb hab hba => ?_) (byWeld_sorted _)
    (hsorted.imp fun hlt => hlt.le)
  have hne : ts.Pairwise fun a b => a.weld.toNat ≠ b.weld.toNat := hsorted.imp fun hlt => hlt.ne
  by_contra hab'
  have hsymm : Std.Symm fun a b : Transition => a.weld.toNat ≠ b.weld.toNat := ⟨fun _ _ h => h.symm⟩
  exact hne.forall (hp.mem_iff.1 ha) hb hab' (hab.antisymm hba)

end Sys2Proof.Machine

/-! SUPPORT. The end of a run of the mill (R11, R13): the stands OFF, the actuators out of their moves, the mode READY. -/

namespace Sys2Proof.Machine

/-! ### Actuators out of their moves (R11 step 7, R130) -/

/-- An actuator that a clearing leaves without demand and timers, IDLE where it says so. -/
def Actuator.released (a : Actuator) (idles : ActMode → Bool) : Actuator :=
  { a with mode := if idles a.mode = true then .idle else a.mode, demand := false, posTimer := none, openTimer := none }

theorem put_same {h : Holds} (hh : h.posTimeout = false) : h.put .positioningTimeout false = h := by
  obtain ⟨a, b, c, d⟩ := h
  cases hh
  rfl

/-- R126: leaving FOLLOWING changes nothing at a stand that does not hold the cause. -/
theorem endsWithCause_idle {k : Stand} {s : State} (h : s.stands[k].holds.posTimeout = false) :
    endsWithCause .positioningTimeout Kind.positioningTimeout k s = s.inactive Kind.positioningTimeout (standLoc k) := by
  unfold endsWithCause causeClears
  have hat : (s.inactive Kind.positioningTimeout (standLoc k)).stands[k] = s.stands[k] := rfl
  rw [hat, put_same h]
  exact setStand_self _ k

theorem setActMode_idle {k : Stand} {s : State} (hu : s.actuators[k].mode ≠ .unlinked) (hf : s.actuators[k].mode ≠ .faulted)
    (h : s.stands[k].holds.posTimeout = false) :
    { setActMode k .idle s with actuators := s.actuators, faults := s.faults } = s ∧
    Ends [Kind.positioningTimeout] s (setActMode k .idle s) ∧
    (setActMode k .idle s).actuators = s.actuators.set k (s.actuators[k].into .idle) := by
  have hkeep : { s.setActuator k (s.actuators[k].into .idle) with actuators := s.actuators, faults := s.faults } = s ∧
      Ends [Kind.positioningTimeout] s (s.setActuator k (s.actuators[k].into .idle)) ∧
      (s.setActuator k (s.actuators[k].into .idle)).actuators = s.actuators.set k (s.actuators[k].into .idle) :=
    ⟨rfl, Ends.of_faults (by rfl) _, rfl⟩
  by_cases hm : s.actuators[k].mode = .idle
  · rw [setActMode_same hm]
    have hinto : s.actuators[k].into .idle = s.actuators[k] := by
      rw [into_kept (by decide), if_neg (by rw [hm]; decide), ← hm]
    exact ⟨rfl, Ends.refl _ s, by rw [hinto]; exact (Vector.set_getElem_self _).symm⟩
  · rw [setActMode_change hm]
    cases ho : s.actuators[k].mode with
    | unlinked => exact absurd ho hu
    | faulted => exact absurd ho hf
    | following =>
      have heq : endsWithCause .positioningTimeout Kind.positioningTimeout k (s.setActuator k (s.actuators[k].into .idle)) =
          (s.setActuator k (s.actuators[k].into .idle)).inactive Kind.positioningTimeout (standLoc k) :=
        endsWithCause_idle (s := s.setActuator k (s.actuators[k].into .idle)) h
      show { endsWithCause .positioningTimeout Kind.positioningTimeout k (s.setActuator k (s.actuators[k].into .idle)) with
        actuators := s.actuators, faults := s.faults } = s ∧ Ends [Kind.positioningTimeout] s (endsWithCause .positioningTimeout
          Kind.positioningTimeout k (s.setActuator k (s.actuators[k].into .idle))) ∧ (endsWithCause .positioningTimeout
          Kind.positioningTimeout k (s.setActuator k (s.actuators[k].into .idle))).actuators = _
      rw [heq]
      exact ⟨rfl, Ends.inactive_of rfl, rfl⟩
    | idle => exact absurd ho hm
    | moving => exact hkeep
    | opening => exact hkeep
    | opened => exact hkeep

/-- What taking one actuator out of its move writes. -/
structure ReleasedAt (k : Stand) (idles : ActMode → Bool) (s t : State) : Prop where
  frame : { t with actuators := s.actuators, faults := s.faults } = s
  actuators : t.actuators = s.actuators.set k (s.actuators[k].released idles)
  ends : Ends [Kind.positioningTimeout, Kind.openTimeout] s t

/-- R11 step 7: the states that STOP and RESTART take to IDLE. -/
def stopIdles (m : ActMode) : Bool := m == .moving || m == .following

/-- R13: the states that TRIP_RESET takes to IDLE. -/
def resetIdles (m : ActMode) : Bool := m == .opened || m == .opening || m == .following

theorem into_released {a b : Actuator} {idles : ActMode → Bool} (hb : b = a.into .idle) (h : idles a.mode = true) :
    ({ b with demand := false, posTimer := none, openTimer := none } : Actuator) = a.released idles := by
  subst hb
  rw [into_kept (by decide), Actuator.released, if_pos h]

/-- The common step: into IDLE where `idles` says so, then the demand and the timers cleared. -/
theorem releasedAt_of {k : Stand} {idles : ActMode → Bool} {s u : State}
    (hi : ∀ m, idles m = true → m ≠ .unlinked ∧ m ≠ .faulted) (h : s.stands[k].holds.posTimeout = false)
    (hu : u = if idles s.actuators[k].mode = true then setActMode k .idle s else s) :
    ReleasedAt k idles s (u.setActuator k { u.actuators[k] with demand := false, posTimer := none, openTimer := none }) := by
  by_cases hm : idles s.actuators[k].mode = true
  · rw [if_pos hm] at hu
    obtain ⟨h1, h2⟩ := hi _ hm
    obtain ⟨hframe, hends, hacts⟩ := setActMode_idle h1 h2 h
    rw [← hu] at hframe hends hacts
    have hat : u.actuators[k] = s.actuators[k].into .idle := by
      rw [hacts]
      exact setActuator_same s k _
    refine ⟨(congrArg (fun x : State => { x with actuators := s.actuators }) hframe :), ?_,
      (hends.mono (by simp)).trans (Ends.of_faults (by rfl) _)⟩
    show u.actuators.set k _ = _
    rw [into_released hat hm, hacts]
    exact Vector.set_set _ _
  · rw [if_neg hm] at hu
    subst hu
    refine ⟨rfl, ?_, Ends.of_faults (by rfl) _⟩
    show u.actuators.set k _ = u.actuators.set k (u.actuators[k].released idles)
    rw [Actuator.released, if_neg hm]

theorem actuatorAtStop_released {k : Stand} {s : State} (h : s.stands[k].holds.posTimeout = false) :
    ReleasedAt k stopIdles s (actuatorAtStop k s) := by
  refine releasedAt_of (u := if s.actuators[k].mode = .moving ∨ s.actuators[k].mode = .following then setActMode k .idle s else s)
    (fun m hm => ?_) h (if_congr ?_ rfl rfl)
  · cases m <;> simp [stopIdles] at hm ⊢
  · simp [stopIdles]

theorem actuatorAtTripReset_released {k : Stand} {s : State} (h : s.stands[k].holds.posTimeout = false) :
    ReleasedAt k resetIdles s (actuatorAtTripReset k s) := by
  have hr := releasedAt_of (k := k) (idles := resetIdles) (s := s)
    (u := if s.actuators[k].mode = .opened ∨ s.actuators[k].mode = .opening ∨ s.actuators[k].mode = .following then
      setActMode k .idle s else s)
    (fun m hm => by cases m <;> simp [resetIdles] at hm ⊢) h (if_congr (by simp [resetIdles, or_assoc]) rfl rfl)
  have heq : actuatorAtTripReset k s = State.inactive (State.setActuator
      (if s.actuators[k].mode = .opened ∨ s.actuators[k].mode = .opening ∨ s.actuators[k].mode = .following then
        setActMode k .idle s else s) k { (if s.actuators[k].mode = .opened ∨ s.actuators[k].mode = .opening ∨
        s.actuators[k].mode = .following then setActMode k .idle s else s).actuators[k] with
        demand := false, posTimer := none, openTimer := none }) Kind.openTimeout (standLoc k) := rfl
  rw [heq]
  generalize State.setActuator (if s.actuators[k].mode = .opened ∨ s.actuators[k].mode = .opening ∨
    s.actuators[k].mode = .following then setActMode k .idle s else s) k _ = w at hr
  exact ⟨(congrArg (fun x : State => { x with faults := s.faults }) hr.frame :), hr.actuators,
    hr.ends.trans ((inactive_ends w Kind.openTimeout (standLoc k)).mono (by simp))⟩

/-! ### All stands OFF and all actuators out of their moves -/

/-- What a pass over the stands and one over the actuators write at a clearing. -/
structure StoodDown (idles : ActMode → Bool) (s t : State) : Prop where
  frame : { t with stands := s.stands, actuators := s.actuators, faults := s.faults } = s
  stands : ∀ k : Stand, t.stands[k] = { s.stands[k] with mode := .off, holds := .empty, unload := .stopped }
  actuators : ∀ k : Stand, t.actuators[k] = s.actuators[k].released idles
  ends : Ends [Kind.standUnloaded, Kind.positioningTimeout, Kind.openTimeout] s t

theorem standDown {f : Stand → State → State} {idles : ActMode → Bool}
    (hf : ∀ (k : Stand) (u : State), u.stands[k].holds.posTimeout = false → ReleasedAt k idles u (f k u)) (s : State) :
    StoodDown idles s (forStands f (forStands (enterIdleMode .off) s)) := by
  obtain ⟨hframe, hends, hstands⟩ := enterIdleModes .off s
  generalize forStands (enterIdleMode .off) s = u at hframe hends hstands
  have hP : ∀ (k : Stand) (w : State), { w with actuators := u.actuators, faults := u.faults } = u ∧
      Ends [Kind.positioningTimeout, Kind.openTimeout] u w → { f k w with actuators := u.actuators, faults := u.faults } = u ∧
        Ends [Kind.positioningTimeout, Kind.openTimeout] u (f k w) := fun k w hw => by
    have hst : w.stands = u.stands := (congrArg State.stands hw.1 :)
    have hr := hf k w (by rw [hst, hstands k]; rfl)
    exact ⟨(congrArg (fun x : State => { x with actuators := u.actuators, faults := u.faults }) hr.frame :).trans hw.1,
      hw.2.trans hr.ends⟩
  have hstart : { u with actuators := u.actuators, faults := u.faults } = u ∧
      Ends [Kind.positioningTimeout, Kind.openTimeout] u u := ⟨rfl, Ends.refl _ u⟩
  obtain ⟨htf, hte⟩ := forStands_keeps hP hstart
  have hst : (forStands f u).stands = u.stands := (congrArg State.stands htf :)
  refine ⟨?_, fun k => by rw [hst]; exact hstands k, fun k => ?_, (hends.mono (by simp)).trans (hte.mono (by simp))⟩
  · exact (congrArg (fun x : State => { x with stands := s.stands, actuators := s.actuators, faults := s.faults }) htf :).trans
      (congrArg (fun x : State => { x with actuators := s.actuators }) hframe :)
  · have hrel : ∀ (j : Stand) (w : State), { w with actuators := u.actuators, faults := u.faults } = u ∧
        Ends [Kind.positioningTimeout, Kind.openTimeout] u w → ReleasedAt j idles w (f j w) := fun j w hw => by
      have hws : w.stands = u.stands := (congrArg State.stands hw.1 :)
      exact hf j w (by rw [hws, hstands j]; rfl)
    obtain ⟨w, hw, hsame, hval⟩ := forStands_at (f := f) (fun k u => u.actuators[k]) hP (fun j i w hw hji => by
      rw [(hrel i w hw).actuators]
      exact (actuators_set_at w i j _).trans (if_neg hji)) hstart k
    have hua : u.actuators = s.actuators := (congrArg State.actuators hframe :)
    rw [hval, (hrel k w hw).actuators]
    refine (setActuator_same w k _).trans ?_
    rw [hsame, hua]

end Sys2Proof.Machine

/-! SUPPORT. STOP and TRIP_RESET (R11, R13): the statements on what they end. -/

namespace Sys2Proof.Machine

/-! ### Into READY after a clearing -/

/-- A state with what a clearing and the change to READY write put back to what it was. -/
def State.unhalt (s t : State) : State :=
  { s.unforget t with
    actuators := s.actuators, mode := s.mode, millStop := s.millStop, standTrip := s.standTrip, breakTimers := s.breakTimers }

/-- The kinds whose conditions a clearing and the change to READY end. -/
def haltedKinds : List Kind := [Kind.stripBreak, Kind.standUnloaded, Kind.positioningTimeout, Kind.openTimeout, Kind.trackOverrun,
  Kind.trackFull, Kind.offGaugeRun]

/-- What a clearing, the pass over stands and actuators and the change to READY write together. -/
structure Halted (c : ReleaseCause) (st : ReportState) (idles : ActMode → Bool) (cause : ModeCause) (s t : State) : Prop where
  frame : s.unhalt t = s
  mode : t.mode = .ready
  released : t.millStop = false ∧ t.standTrip = Vector.replicate 6 false
  ring : t.ring = []
  reports : t.reports = []
  transitions : t.transitions = []
  points : ∀ p : PointNo, t.points[p].started = false
  coil : t.coilCounter = s.coilCounter + 1
  table : t.table.map (·.sched) = (s.table.filter (·.isEntry)).map (·.sched) ∧ ∀ x ∈ t.table, x.isEntry = true ∧ x.base = none
  run : t.runState = s.runState.filter fun r => !s.ring.any (·.coil == r.coil)
  stands : ∀ k : Stand, t.stands[k] = { s.stands[k] with
    mode := .off, holds := ⟨false, false, false, false⟩, unload := .stopped, bite := none, sum := 0, count := 0 }
  actuators : ∀ k : Stand, t.actuators[k] = s.actuators[k].released idles
  ends : Ends haltedKinds s t
  gone : ∀ d ∈ [Kind.trackOverrun, Kind.trackFull, Kind.offGaugeRun], t.faults[d].active = []
  defectLog : t.logs[LogNo.defect] = s.logs[LogNo.defect].afterRun
    (s.runState.filter fun r => s.ring.any (·.coil == r.coil)) s.logTime
  scheduleLog : t.logs[LogNo.schedule] = s.logs[LogNo.schedule].appendAll 32 s.logTime ((byWeld s.transitions).map .cancelled)
  otherLogs : ∀ g : LogNo, g ≠ LogNo.coil → g ≠ LogNo.defect → g ≠ LogNo.schedule → t.logs[g] = s.logs[g]
  records : (s.reports.map (·.coil)).Nodup →
    t.logs[LogNo.coil] = s.logs[LogNo.coil].appendAll 16 s.logTime (s.reports.map fun r => .coil (r.cleared s st)) ∧
    t.port = (s.reports.map (fun r => Notice.coilReport (r.cleared s st)) ++
      ((byWeld s.transitions).map (fun x => Notice.transition .cancelled x none) ++
        [Notice.modeChanged (some s.mode) .ready cause])).foldl Port.queueNotice s.port

/-- The table that STOP and TRIP_RESET leave. -/
def entriesLeft (tbl : List InForce) : List InForce := (tbl.filter (·.isEntry)).map fun e => { e with base := none }

theorem entriesLeft_dropped (tags : List Nat) (tbl : List InForce) :
    (entriesLeft (droppedTable tags tbl)).map (·.sched) = (tbl.filter (·.isEntry)).map (·.sched) ∧
    ∀ x ∈ entriesLeft (droppedTable tags tbl), x.isEntry = true ∧ x.base = none := by
  refine ⟨?_, fun x hx => ?_⟩
  · rw [← droppedTable_entries tags tbl, entriesLeft, List.map_map]
    rfl
  · obtain ⟨y, hy, rfl⟩ := List.mem_map.1 hx
    exact ⟨(List.mem_filter.1 hy).2, rfl⟩

theorem unstarted_points {t : State} (h : t.points = Vector.replicate 9 .unstarted) (p : PointNo) : t.points[p].started = false := by
  rw [h, Fin.getElem_fin, Vector.getElem_replicate]
  rfl

theorem halted_of {c : ReleaseCause} {st : ReportState} {idles : ActMode → Bool} {cause : ModeCause} {s u w : State}
    (hc : c.clears = true) (hcl : Cleared c st entriesLeft s u) (hsd : StoodDown idles u w) (hn : NoLoss s) :
    Halted c st idles cause s (modeConditions (w.changeMode .ready cause)) := by
  have hwch : w.channels = s.channels := (congrArg State.channels hsd.frame :).trans (congrArg State.channels hcl.frame :)
  have hwm : w.mode = s.mode := (congrArg State.mode hsd.frame :).trans (congrArg State.mode hcl.frame :)
  have hready : w.changeMode .ready cause = ({ w with
      mode := .ready, millStop := false, standTrip := Vector.replicate 6 false } : State).notify
        (.modeChanged (some s.mode) .ready cause) := by
    rw [State.changeMode, setMode_running _ (by decide) (by decide), hwm]
  have hcond : modeConditions (w.changeMode .ready cause) = leaveRun (w.changeMode .ready cause) := by
    have hm : (w.changeMode .ready cause).mode = .ready := rfl
    exact modeConditions_idle (by rw [hm]; decide) (by rw [hm]; decide) (hn.congr hwch)
  rw [hcond, hready]
  obtain ⟨hlf, -, hle, -, -⟩ := leaveRun_spec (({ w with
      mode := .ready, millStop := false, standTrip := Vector.replicate 6 false } : State).notify
        (.modeChanged (some s.mode) .ready cause))
  generalize leaveRun (({ w with
      mode := .ready, millStop := false, standTrip := Vector.replicate 6 false } : State).notify
        (.modeChanged (some s.mode) .ready cause)) = t at hlf hle
  have hwr : w.ring = u.ring := (congrArg State.ring hsd.frame :)
  have htl : t.logs = u.logs := (congrArg State.logs hlf :).trans (congrArg State.logs hsd.frame :)
  have htp : t.port = u.port.queueNotice (.modeChanged (some s.mode) .ready cause) :=
    (congrArg State.port hlf :).trans (congrArg (fun x : State => x.port.queueNotice (.modeChanged (some s.mode) .ready cause))
      hsd.frame :)
  have htt : t.table = u.table := (congrArg State.table hlf :).trans (congrArg State.table hsd.frame :)
  have hts : t.stands = w.stands := (congrArg State.stands hlf :)
  have hta : t.actuators = w.actuators := (congrArg State.actuators hlf :)
  have hua : u.actuators = s.actuators := (congrArg State.actuators hcl.frame :)
  have hpts : t.points = Vector.replicate 9 .unstarted :=
    (congrArg State.points hlf :).trans ((congrArg State.points hsd.frame :).trans hcl.points)
  have hends : Ends haltedKinds u t := (hsd.ends.mono (by decide)).trans
    ((Ends.of_faults (by rfl) _).trans (hle.mono (by decide)))
  have hentries := entriesLeft_dropped (s.ring.map (·.tag)) s.table
  rw [← hcl.table, ← htt] at hentries
  refine ⟨?_, (congrArg State.mode hlf :), ⟨(congrArg State.millStop hlf :), (congrArg State.standTrip hlf :)⟩, ?_, ?_, ?_,
    unstarted_points hpts, ?_, hentries, ?_, fun k => ?_, fun k => ?_, (hcl.ends.mono (by decide)).trans hends, fun d hd => ?_, ?_, ?_,
    fun g h1 h2 h3 => ?_, fun hnodup => ?_⟩
  · calc s.unhalt t = s.unhalt w := (congrArg s.unhalt hlf :)
      _ = s.unhalt u := (congrArg s.unhalt hsd.frame :)
      _ = s := (congrArg s.unhalt hcl.frame :)
  · exact (congrArg State.ring hlf :).trans (hwr.trans hcl.ring)
  · exact (congrArg State.reports hlf :).trans ((congrArg State.reports hsd.frame :).trans hcl.reports)
  · exact (congrArg State.transitions hlf :).trans ((congrArg State.transitions hsd.frame :).trans hcl.transitions)
  · exact (congrArg State.coilCounter hlf :).trans ((congrArg State.coilCounter hsd.frame :).trans hcl.coil)
  · exact (congrArg State.runState hlf :).trans ((congrArg State.runState hsd.frame :).trans hcl.run)
  · rw [hts, hsd.stands k, hcl.stands k]
    rfl
  · rw [hta, hsd.actuators k, hua]
  · refine List.eq_nil_iff_forall_not_mem.2 fun loc hloc => ?_
    have := hends.fewer d loc hloc
    rw [hcl.gone d hd] at this
    exact absurd this List.not_mem_nil
  · rw [htl]
    exact hcl.defectLog
  · rw [htl]
    exact hcl.scheduleLog
  · rw [htl]
    exact hcl.otherLogs g h1 h2 h3
  · obtain ⟨h1, h2⟩ := hcl.records hnodup
    rw [htl, htp, h1, h2]
    refine ⟨by simp only [discards_closed hc], ?_⟩
    rw [← List.append_assoc, List.foldl_concat]
    simp only [discards_closed hc]

/-! ### STOP (R11) -/

theorem stop_halted {s : State} (hm : s.mode = .thread ∨ s.mode = .run) (hn : NoLoss s) :
    ∃ t, doStop s = (okWith [], t) ∧ Halted .discardedStop .stopped stopIdles .stop s t := by
  refine ⟨_, if_neg ?_, halted_of rfl (clearTracking_cleared rfl .stopped s) (standDown (fun k u hu => actuatorAtStop_released hu) _) hn⟩
  rw [tracking_true hm]
  decide

theorem released_stop (a : Actuator) : a.released stopIdles = { a with
    mode := if a.mode = .moving ∨ a.mode = .following then .idle else a.mode
    demand := false, posTimer := none, openTimer := none } := by
  unfold Actuator.released stopIdles
  simp only [Bool.or_eq_true, beq_iff_eq]

/-- Settles O22: what STOP ends. -/
theorem stopEnds : Obligations.StopEnds := by
  intro n s hfree hm hn
  obtain ⟨t, hact, h⟩ := stop_halted (s := s.received) hm (hn.congr rfl)
  refine ⟨t, exec_request (r := .stop) rfl hfree hact, h.mode, h.released.1, h.released.2, h.ring, h.reports, h.transitions,
    h.points, h.coil, fun hall => ?_, (congrArg State.queue h.frame :), h.table.1, h.table.2, h.stands, fun k => ?_,
    (congrArg State.channels h.frame :), (congrArg State.links h.frame :), (congrArg State.line h.frame :),
    (congrArg State.policy h.frame :), (congrArg State.firstOut h.frame :), fun k => ⟨h.ends.latched k, ?_⟩,
    h.gone _ (by decide), h.gone _ (by decide), h.gone _ (by decide), (congrArg State.sent h.frame :),
    h.otherLogs _ (by decide) (by decide) (by decide), h.otherLogs _ (by decide) (by decide) (by decide)⟩
  · rw [h.run, Option.filter_eq_none_iff]
    intro r hr
    obtain ⟨g, hg, hc⟩ := hall r hr
    have hany : s.ring.any (·.coil == r.coil) = true := List.any_eq_true.2 ⟨g, hg, beq_iff_eq.2 hc⟩
    show ¬ (!s.ring.any (·.coil == r.coil)) = true
    rw [hany]
    decide
  · rw [h.actuators k, released_stop]
    rfl
  · exact (congrArg FaultEntry.count (h.ends.kept k) :)

/-! ### TRIP_RESET (R13, R154) -/

/-- R154: the state in which the trip is over. -/
structure TripOver (s t : State) : Prop where
  frame : { t with trip := s.trip, opened := s.opened, hardStop := s.hardStop, logs := s.logs } = s
  trip : t.trip = .normal
  released : t.opened = Vector.replicate 6 false ∧ t.hardStop = false
  log : ∀ d : FirstOut, s.firstOut = some d → t.logs[LogNo.fault] = s.logs[LogNo.fault].append 128 s.logTime
    (.tripState .normal d.kind d.location (some d.subsequent))
  logs : ∀ g : LogNo, g ≠ LogNo.fault → t.logs[g] = s.logs[g]

theorem tripEnds_over (s : State) : TripOver s (tripEnds s) := by
  unfold tripEnds
  dsimp only
  split
  next d hd =>
    refine ⟨rfl, rfl, ⟨rfl, rfl⟩, fun d' hd' => ?_, fun g hg => logs_set_other s _ hg⟩
    rw [← Option.some.inj (hd.symm.trans hd')]
    exact logs_set_same s _ _
  next hd => exact ⟨rfl, rfl, ⟨rfl, rfl⟩, fun d' hd' => absurd (hd.symm.trans hd') (by simp), fun _ _ => rfl⟩

theorem tripReset_halted {s : State} (hm : s.mode = .tripped) (ht : s.trip ≠ .opening) (hl : NoTripLatched s) (hn : NoLoss s) :
    ∃ u t, doTripReset s = (okWith [], t) ∧ TripOver s u ∧ Halted .discardedTrip .tripped resetIdles .tripReset u t := by
  have hover := tripEnds_over s
  have hch : (tripEnds s).channels = s.channels := (congrArg State.channels hover.frame :)
  refine ⟨tripEnds s, resetTrip s, ?_, hover, halted_of rfl (clearTracking_cleared rfl .tripped (tripEnds s))
    (standDown (fun k u hu => actuatorAtTripReset_released hu) _) (hn.congr hch)⟩
  have hpass : latchRefusal s = none := by rw [latchRefusal, latchedTripping_none_of hl]; rfl
  rw [doTripReset, if_neg (not_not.2 hm), if_neg ht, hpass]

theorem released_reset (a : Actuator) : a.released resetIdles = { a with
    mode := if a.mode = .opened ∨ a.mode = .opening ∨ a.mode = .following then .idle else a.mode
    demand := false, posTimer := none, openTimer := none } := by
  unfold Actuator.released resetIdles
  simp only [Bool.or_eq_true, beq_iff_eq, or_assoc]

/-- Settles O23: what TRIP_RESET refuses, and what it ends. -/
theorem tripResetEnds : Obligations.TripResetEnds := by
  intro n s hfree hm
  have hm' : s.received.mode = .tripped := hm
  refine ⟨fun ht => ?_, fun ht d htr hlat hlow => ?_, fun ht hl hn => ?_⟩
  · refine exec_request (r := .tripReset) (a := refuse .tripActive) rfl hfree ?_
    show doTripReset s.received = _
    rw [doTripReset, if_neg (not_not.2 hm'), if_pos (c := s.received.trip = .opening) ht]
  · refine exec_request (r := .tripReset) (a := ⟨.notReady, [4, BitVec.ofNat 8 d.val,
      if s.faults[d].active = [] then 0 else 1, 0]⟩) rfl hfree ?_
    have href := latchRefusal_lowest (s := s.received) htr hlat hlow
    show doTripReset s.received = _
    rw [doTripReset, if_neg (not_not.2 hm'), if_neg (c := s.received.trip = .opening) ht, href]
    rfl
  · obtain ⟨u, t, hact, hover, h⟩ := tripReset_halted (s := s.received) hm' ht hl (hn.congr rfl)
    have hus : u.stands = s.stands := (congrArg State.stands hover.frame :)
    have hua : u.actuators = s.actuators := (congrArg State.actuators hover.frame :)
    have huf : u.faults = s.faults := (congrArg State.faults hover.frame :)
    have hut : u.table = s.table := (congrArg State.table hover.frame :)
    have huc : u.coilCounter = s.coilCounter := (congrArg State.coilCounter hover.frame :)
    have htable := h.table.1
    have hcoil := h.coil
    have hstands := h.stands
    rw [hut] at htable
    rw [huc] at hcoil
    rw [hus] at hstands
    refine ⟨t, exec_request (r := .tripReset) rfl hfree hact, h.mode, (congrArg State.trip h.frame :).trans hover.trip,
      h.released.1, h.released.2, (congrArg State.hardStop h.frame :).trans hover.released.2,
      (congrArg State.opened h.frame :).trans hover.released.1, h.ring, h.reports, h.transitions, h.points, hcoil,
      (congrArg State.queue h.frame :).trans (congrArg State.queue hover.frame :), htable, fun k => ?_, fun k => ?_,
      (congrArg State.firstOut h.frame :).trans (congrArg State.firstOut hover.frame :),
      (congrArg State.policy h.frame :).trans (congrArg State.policy hover.frame :), fun k => ⟨?_, ?_⟩,
      (congrArg State.channels h.frame :).trans (congrArg State.channels hover.frame :),
      (congrArg State.links h.frame :).trans (congrArg State.links hover.frame :),
      (congrArg State.line h.frame :).trans (congrArg State.line hover.frame :),
      (h.otherLogs _ (by decide) (by decide) (by decide)).trans (hover.logs _ (by decide))⟩
    · rw [hstands k]
      exact ⟨rfl, rfl, rfl, rfl, rfl⟩
    · rw [h.actuators k, released_reset, hua]
    · rw [h.ends.latched k, huf]
    · rw [(congrArg FaultEntry.count (h.ends.kept k) :), huf]

end Sys2Proof.Machine

/-! SUPPORT. RESTART (R14), and what the clearings record (R160, R168, R91, R92). -/

namespace Sys2Proof.Machine

/-! ### The trims (R115) -/

theorem forStands_zeroTrim (s : State) : { forStands zeroTrim s with stands := s.stands } = s ∧
    ∀ k : Stand, (forStands zeroTrim s).stands[k] = { s.stands[k] with trim := 0 } := by
  have hP : ∀ (k : Stand) (u : State), { u with stands := s.stands } = s → { zeroTrim k u with stands := s.stands } = s :=
    fun k u hu => hu
  refine ⟨forStands_keeps (P := fun u => { u with stands := s.stands } = s) hP rfl, fun k => ?_⟩
  obtain ⟨u, -, hsame, hval⟩ := forStands_at (f := zeroTrim) (fun k u => u.stands[k]) hP
    (fun j k u _ hjk => (stands_set_at u k j _).trans (if_neg hjk)) (s := s) rfl k
  rw [hval]
  refine (setStand_same u k _).trans ?_
  rw [hsame]

/-! ### After the clearing (R14 steps 2 to 6) -/

/-- R14 step 6: the mode that RESTART leads to. -/
theorem restartMode_eq (s : State) : restartMode s = if s.committed = true then .ready else .config := rfl

/-- A state with what RESTART writes after the clearing put back to what it was. -/
def State.unrestart (s t : State) : State :=
  { t with
    stands := s.stands, actuators := s.actuators, faults := s.faults, queue := s.queue, table := s.table, runState := s.runState
    logs := s.logs, port := s.port, mode := s.mode, millStop := s.millStop, standTrip := s.standTrip
    breakTimers := s.breakTimers }

/-- What RESTART writes after the clearing. -/
structure Restarted (m : Mode) (s t : State) : Prop where
  frame : s.unrestart t = s
  mode : t.mode = m
  stops : t.millStop = (m == .config) ∧ t.standTrip = Vector.replicate 6 (m == .config)
  empty : t.queue = [] ∧ t.table = [] ∧ t.runState = none
  notices : t.port.notices = [.modeChanged (some s.mode) m .restart]
  stands : ∀ k : Stand, t.stands[k] = { s.stands[k] with
    mode := .off, holds := ⟨false, false, false, false⟩, unload := .stopped, trim := 0 }
  actuators : ∀ k : Stand, t.actuators[k] = s.actuators[k].released stopIdles
  kept : ∀ d : Kind, t.faults[d] = { s.faults[d] with active := t.faults[d].active }
  log : t.logs[LogNo.schedule] = s.logs[LogNo.schedule].appendAll 32 s.logTime (withdrawals .restart s)
  logs : ∀ g : LogNo, g ≠ LogNo.schedule → t.logs[g] = s.logs[g]

/-- R16 at a change into READY or CONFIG: conditions end, and nothing else changes. -/
theorem modeConditions_rests {s : State} (h : s.mode = .config ∨ (s.mode = .ready ∧ NoLoss s)) :
    { modeConditions s with faults := s.faults, breakTimers := s.breakTimers } = s ∧
    ∀ d : Kind, (modeConditions s).faults[d] = { s.faults[d] with active := (modeConditions s).faults[d].active } := by
  rcases h with h | ⟨h, hn⟩
  · obtain ⟨f, hf, hat⟩ := modeConditions_into_config h
    rw [hf]
    refine ⟨rfl, fun d => ?_⟩
    show f[d] = { s.faults[d] with active := f[d].active }
    rw [hat d]
  · rw [modeConditions_idle (by rw [h]; decide) (by rw [h]; decide) hn]
    obtain ⟨hframe, -, hends, -⟩ := leaveRun_spec s
    exact ⟨hframe, hends.kept⟩

/-- R14 steps 2 to 6, up to the conditions of the new mode. -/
def rested (m : Mode) (s : State) : State :=
  (emptyNotices { forStands zeroTrim (standsOff (withdrawAll .restart s)) with runState := none }).changeMode m .restart

theorem rested_restarted {m : Mode} (hm : m = .config ∨ m = .ready) (s : State) : Restarted m s (rested m s) := by
  have hw := withdrawAll_eq .restart s
  have hsd := standDown (f := actuatorAtStop) (fun k u hu => actuatorAtStop_released hu) (withdrawAll .restart s)
  have hdef : standsOff (withdrawAll .restart s) = forStands actuatorAtStop (forStands (enterIdleMode .off) (withdrawAll .restart s)) :=
    rfl
  unfold rested
  rw [hdef]
  generalize forStands actuatorAtStop (forStands (enterIdleMode .off) (withdrawAll .restart s)) = u at hsd
  obtain ⟨hzf, hzs⟩ := forStands_zeroTrim u
  generalize forStands zeroTrim u = z at hzf hzs
  have hws : (withdrawAll .restart s).stands = s.stands := by rw [hw]
  have hwa : (withdrawAll .restart s).actuators = s.actuators := by rw [hw]
  have hwf : (withdrawAll .restart s).faults = s.faults := by rw [hw]
  have hwl : (withdrawAll .restart s).logs =
    s.logs.set LogNo.schedule (s.logs[LogNo.schedule].appendAll 32 s.logTime (withdrawals .restart s)) := by rw [hw]
  have hwm : (withdrawAll .restart s).mode = s.mode := by rw [hw]
  have hwq : (withdrawAll .restart s).queue = [] ∧ (withdrawAll .restart s).table = [] := ⟨rfl, rfl⟩
  have hwr : s.unrestart (withdrawAll .restart s) = s := by
    rw [hw]
    rfl
  generalize withdrawAll .restart s = w at hsd hws hwa hwf hwl hwm hwq hwr
  have hzm : z.mode = s.mode := ((congrArg State.mode hzf :).trans (congrArg State.mode hsd.frame :)).trans hwm
  have hzl : z.logs = w.logs := (congrArg State.logs hzf :).trans (congrArg State.logs hsd.frame :)
  have hza : z.actuators = u.actuators := (congrArg State.actuators hzf :)
  have hzfl : z.faults = u.faults := (congrArg State.faults hzf :)
  have hst : stopsAsserted m = (m == .config) := by rcases hm with rfl | rfl <;> rfl
  refine ⟨?_, rfl, ⟨hst, congrArg (Vector.replicate 6) hst⟩, ⟨?_, ?_, rfl⟩, ?_, fun k => ?_, fun k => ?_, fun d => ?_, ?_, fun g hg => ?_⟩
  · calc s.unrestart ((emptyNotices { z with runState := none }).changeMode m .restart) = s.unrestart z := rfl
      _ = s.unrestart u := (congrArg s.unrestart hzf :)
      _ = s.unrestart w := (congrArg s.unrestart hsd.frame :)
      _ = s := hwr
  · exact (congrArg State.queue hzf :).trans ((congrArg State.queue hsd.frame :).trans hwq.1)
  · exact (congrArg State.table hzf :).trans ((congrArg State.table hsd.frame :).trans hwq.2)
  · rw [← hzm]
    rfl
  · refine (hzs k).trans ?_
    rw [hsd.stands k, hws]
    rfl
  · show z.actuators[k] = _
    rw [hza, hsd.actuators k, hwa]
  · show z.faults[d] = { s.faults[d] with active := z.faults[d].active }
    rw [hzfl, ← hwf]
    exact hsd.ends.kept d
  · show z.logs[LogNo.schedule] = _
    rw [hzl, hwl]
    exact logs_set_same s _ _
  · show z.logs[g] = _
    rw [hzl, hwl]
    exact logs_set_other s _ hg

theorem Restarted.rests {m : Mode} {s t : State} (h : Restarted m s t) (hn : m = .config ∨ (m = .ready ∧ NoLoss s)) :
    Restarted m s (modeConditions t) := by
  have htc : t.channels = s.channels := (congrArg State.channels h.frame :)
  obtain ⟨hframe, hkept⟩ := modeConditions_rests (s := t) (by
    rw [h.mode]
    exact hn.imp_right fun hx => ⟨hx.1, hx.2.congr htc⟩)
  generalize modeConditions t = w at hframe hkept
  have hws : w.stands = t.stands := (congrArg State.stands hframe :)
  have hwa : w.actuators = t.actuators := (congrArg State.actuators hframe :)
  have hwl : w.logs = t.logs := (congrArg State.logs hframe :)
  refine ⟨(congrArg s.unrestart hframe :).trans h.frame, (congrArg State.mode hframe :).trans h.mode,
    ⟨(congrArg State.millStop hframe :).trans h.stops.1, (congrArg State.standTrip hframe :).trans h.stops.2⟩,
    ⟨(congrArg State.queue hframe :).trans h.empty.1, (congrArg State.table hframe :).trans h.empty.2.1,
      (congrArg State.runState hframe :).trans h.empty.2.2⟩,
    (congrArg (fun x : State => x.port.notices) hframe :).trans h.notices, fun k => by rw [hws]; exact h.stands k,
    fun k => by rw [hwa]; exact h.actuators k, fun d => ?_, by rw [hwl]; exact h.log, fun g hg => by rw [hwl]; exact h.logs g hg⟩
  rw [hkept d, h.kept d]

/-- R14 step 1: where tracking is cleared, and where there is nothing to clear. -/
def State.atRest (s : State) : State := if s.tracking then restartTracking s else s

theorem doRestart_restarted {s : State} (hm : s.mode ≠ .tripped) (hn : s.committed = true → NoLoss s) :
    ∃ t, doRestart s = (okWith [], t) ∧ (s.atRest.channels = s.channels → Restarted (restartMode s) s.atRest t) := by
  refine ⟨restart s, if_neg hm, fun hch => ?_⟩
  have hmode : restartMode s = .config ∨ restartMode s = .ready := by
    rw [restartMode_eq]
    split
    · exact .inr rfl
    · exact .inl rfl
  have hr := rested_restarted hmode s.atRest
  have hdef : restart s = if restartMode s = s.mode then rested (restartMode s) s.atRest
    else modeConditions (rested (restartMode s) s.atRest) := rfl
  rw [hdef]
  split
  next => exact hr
  next =>
    refine hr.rests (hmode.imp_right fun h => ⟨h, ?_⟩)
    have hc : s.committed = true := by
      by_contra hc
      rw [restartMode_eq, if_neg hc] at h
      exact absurd h (by decide)
    exact (hn hc).congr hch

theorem atRest_tracking {s : State} (h : s.mode = .thread ∨ s.mode = .run) :
    Cleared .discardedStop .stopped id s s.atRest := by
  rw [State.atRest, if_pos (tracking_true h)]
  exact restartTracking_cleared s

theorem atRest_idle {s : State} (h : s.tracking = false) : s.atRest = s := by rw [State.atRest, if_neg (by rw [h]; decide)]

/-- What holds of the state after RESTART's first step, cleared or not. -/
structure AtRest (s t : State) : Prop where
  frame : s.unforget t = s
  stands : ∀ k : Stand, ∃ b n c, t.stands[k] = { s.stands[k] with bite := b, sum := n, count := c }
  kept : ∀ d : Kind, t.faults[d] = { s.faults[d] with active := t.faults[d].active }
  logs : ∀ g : LogNo, g ≠ LogNo.coil → g ≠ LogNo.defect → g ≠ LogNo.schedule → t.logs[g] = s.logs[g]

theorem atRest_rests (s : State) : AtRest s s.atRest := by
  by_cases h : s.tracking = true
  · have hc := atRest_tracking (s := s) (by simpa [State.tracking] using h)
    exact ⟨hc.frame, fun k => ⟨_, _, _, hc.stands k⟩, hc.ends.kept, hc.otherLogs⟩
  · rw [atRest_idle (Bool.eq_false_iff.2 h)]
    exact ⟨rfl, fun k => ⟨_, _, _, rfl⟩, fun _ => rfl, fun _ _ _ _ => rfl⟩

/-- Settles O24: what RESTART resets. -/
theorem restartResets : Obligations.RestartResets := by
  intro n s hfree hm hn
  have hn' : s.received.committed = true → NoLoss s.received := fun hc => (hn hc).congr rfl
  have hrest := atRest_rests s.received
  obtain ⟨t, hact, hr⟩ := doRestart_restarted (s := s.received) hm hn'
  have h := hr (congrArg State.channels hrest.frame :)
  have hmode : restartMode s.received = if s.committed = true then .ready else .config := rfl
  have hconf : (restartMode s.received == .config) = !s.committed := by
    rw [hmode]
    cases s.committed <;> rfl
  have htrack : s.mode = .thread ∨ s.mode = .run → Cleared .discardedStop .stopped id s.received s.received.atRest :=
    fun ht => atRest_tracking (s := s.received) ht
  have hidle : s.mode = .config ∨ s.mode = .ready → s.received.atRest = s.received := fun hi =>
    atRest_idle (s := s.received) (tracking_false (s := s.received) (hi.imp_right .inl))
  generalize s.received.atRest = w at hrest h htrack hidle
  have hwm : w.mode = s.mode := (congrArg State.mode hrest.frame :)
  have hnotices := h.notices
  rw [hwm, hmode] at hnotices
  refine ⟨t, exec_request (r := .restart) rfl hfree hact, h.mode,
    (congrArg State.committed h.frame :).trans (congrArg State.committed hrest.frame :), h.stops.1.trans hconf,
    h.stops.2.trans (congrArg (Vector.replicate 6) hconf), h.empty.1, h.empty.2.1, h.empty.2.2, fun ht => ?_, fun hi => ?_,
    hnotices, fun k => ?_, fun k => ?_, fun d => ?_,
    (congrArg State.firstOut h.frame :).trans (congrArg State.firstOut hrest.frame :),
    (congrArg State.policy h.frame :).trans (congrArg State.policy hrest.frame :),
    (congrArg State.trip h.frame :).trans (congrArg State.trip hrest.frame :),
    (congrArg State.channels h.frame :).trans (congrArg State.channels hrest.frame :),
    (congrArg State.links h.frame :).trans (congrArg State.links hrest.frame :),
    (congrArg State.line h.frame :).trans (congrArg State.line hrest.frame :),
    (h.logs _ (by decide)).trans (hrest.logs _ (by decide) (by decide) (by decide)),
    (h.logs _ (by decide)).trans (hrest.logs _ (by decide) (by decide) (by decide)),
    (congrArg State.time h.frame :).trans (congrArg State.time hrest.frame :),
    (congrArg State.logTime h.frame :).trans (congrArg State.logTime hrest.frame :)⟩
  · have hc := htrack ht
    exact ⟨(congrArg State.ring h.frame :).trans hc.ring, (congrArg State.reports h.frame :).trans hc.reports,
      (congrArg State.transitions h.frame :).trans hc.transitions,
      unstarted_points ((congrArg State.points h.frame :).trans hc.points), (congrArg State.coilCounter h.frame :).trans hc.coil⟩
  · have hw := hidle hi
    have hring : w.ring = s.ring := by rw [hw]; rfl
    have hpoints : w.points = s.points := by rw [hw]; rfl
    have hcoil : w.coilCounter = s.coilCounter := by rw [hw]; rfl
    exact ⟨(congrArg State.ring h.frame :).trans hring, (congrArg State.points h.frame :).trans hpoints,
      (congrArg State.coilCounter h.frame :).trans hcoil⟩
  · obtain ⟨b, m, c, hst⟩ := hrest.stands k
    rw [h.stands k, hst]
    exact ⟨rfl, rfl, rfl, rfl, rfl, rfl⟩
  · have hwa : w.actuators = s.actuators := (congrArg State.actuators hrest.frame :)
    rw [h.actuators k, released_stop, hwa]
  · rw [h.kept d, hrest.kept d]
    exact ⟨rfl, rfl, rfl, rfl⟩

/-! ### What the clearings record -/

/-- Settles O25: the records of STOP, TRIP_RESET and RESTART. -/
theorem clearingRecords : Obligations.ClearingRecords := by
  intro n s ts run withdrawn hfree hn hnodup hord hrun hwith
  have hts : byWeld s.transitions = ts := byWeld_eq hord
  refine ⟨fun hm => ?_, fun hm ht hl => ?_, fun x hm hx htag hrefs => ?_, fun hm hlen htag => ?_⟩
  · obtain ⟨t, hact, h⟩ := stop_halted (s := s.received) hm (hn.congr rfl)
    obtain ⟨hcoil, hport⟩ := h.records hnodup
    have hsch := h.scheduleLog
    have htr : byWeld s.received.transitions = ts := hts
    rw [htr] at hsch hport
    refine ⟨t, exec_request (r := .stop) rfl hfree hact, hcoil, hsch, ?_, hport⟩
    rw [hrun]
    exact h.defectLog
  · obtain ⟨u, t, hact, hover, h⟩ := tripReset_halted (s := s.received) hm ht hl (hn.congr rfl)
    have hurep : u.reports = s.reports := (congrArg State.reports hover.frame :)
    have huring : u.ring = s.ring := (congrArg State.ring hover.frame :)
    have hurun : u.runState = s.runState := (congrArg State.runState hover.frame :)
    have hutr : byWeld u.transitions = ts := (congrArg (fun x : State => byWeld x.transitions) hover.frame :).trans hts
    have hum : u.mode = s.mode := (congrArg State.mode hover.frame :)
    have hutime : u.logTime = s.logTime := (congrArg State.logTime hover.frame :)
    have huport : u.port = s.received.port := (congrArg State.port hover.frame :)
    have huline : u.line = s.line := (congrArg State.line hover.frame :)
    have hcl : ∀ r : CoilReport, r.cleared u .tripped = r.cleared s .tripped := fun r => by
      unfold CoilReport.cleared
      rw [huring, huline]
    obtain ⟨hcoil, hport⟩ := h.records (by rw [hurep]; exact hnodup)
    have hsch := h.scheduleLog
    have hdef := h.defectLog
    rw [hurep, hutime, hover.logs _ (by decide)] at hcoil
    rw [hurep, hutr, hum, huport] at hport
    rw [hutr, hutime, hover.logs _ (by decide)] at hsch
    rw [hurun, huring, hutime, hover.logs _ (by decide)] at hdef
    simp only [hcl] at hcoil hport
    refine ⟨t, exec_request (r := .tripReset) rfl hfree hact, hcoil, hsch, ?_, fun d hd => ?_, hport⟩
    · rw [hrun]
      exact hdef
    · rw [h.otherLogs _ (by decide) (by decide) (by decide)]
      exact hover.log d hd
  · have hc := atRest_tracking (s := s.received) hm
    obtain ⟨t, hact, hr⟩ := doRestart_restarted (s := s.received) (by
      show s.mode ≠ .tripped
      rcases hm with hm | hm <;> rw [hm] <;> decide) fun _ => hn.congr rfl
    have h := hr (congrArg State.channels hc.frame :)
    generalize s.received.atRest = w at hc h
    have htable : w.table.map (·.sched) = [x.sched] := by
      have hall := droppedTable_rest (s.ring.map (·.tag)) s.table fun y hy => (hrefs y hy).imp_right fun hx => ⟨hx.1, by
        rw [hx.2, List.count_eq_countP, List.countP_map, List.countP_eq_length_filter]
        rfl⟩
      have hent := droppedTable_entries (s.ring.map (·.tag)) s.table
      rw [List.filter_eq_self.2 hall, hx] at hent
      rw [hc.table]
      exact hent
    have hwq : w.queue = s.queue := (congrArg State.queue hc.frame :)
    have hwt : w.logTime = s.logTime := (congrArg State.logTime hc.frame :)
    have hlen : w.table.length ≤ 1 := by
      have := congrArg List.length htable
      rw [List.length_map] at this
      exact le_of_eq this
    have hlow : ∀ y ∈ w.table, y.sched.tag < 32 := fun y hy => by
      have hin : y.sched ∈ w.table.map (·.sched) := List.mem_map_of_mem hy
      rw [htable, List.mem_singleton] at hin
      rw [hin]
      exact htag
    have hwd : withdrawals .restart w = withdrawn ++ [.withdrawn x.sched.tag .restart .inForce] := by
      have hmap : w.table.map (fun y => LogContent.withdrawn y.sched.tag .restart .inForce) =
          (w.table.map (·.sched)).map fun c => LogContent.withdrawn c.tag .restart .inForce := by
        rw [List.map_map]
        rfl
      rw [withdrawals, tableByTag_single hlen hlow, hmap, htable, hwq, hwith]
      rfl
    obtain ⟨hcoil, -⟩ := hc.records hnodup
    refine ⟨t, exec_request (r := .restart) rfl hfree hact, ?_, ?_, ?_⟩
    · rw [h.logs _ (by decide), hcoil]
      simp only [discards_closed (c := .discardedStop) rfl]
      rfl
    · have htr : byWeld s.received.transitions = ts := hts
      rw [h.log, hc.scheduleLog, hwd, hwt, htr, Log.appendAll_append, Log.appendAll_append, Log.appendAll_append]
      rfl
    · rw [h.logs _ (by decide), hrun]
      exact hc.defectLog
  · obtain ⟨t, hact, hr⟩ := doRestart_restarted (s := s.received) (by
      show s.mode ≠ .tripped
      rcases hm with hm | hm <;> rw [hm] <;> decide) fun _ => hn.congr rfl
    rw [atRest_idle (s := s.received) (tracking_false (s := s.received) (hm.imp_right .inl))] at hr
    have h := hr rfl
    refine ⟨t, exec_request (r := .restart) rfl hfree hact, h.logs _ (by decide), ?_, h.logs _ (by decide)⟩
    rw [h.log, withdrawals, tableByTag_single (s := s.received) hlen htag, hwith]
    rfl

end Sys2Proof.Machine

/-! SUPPORT. THREAD (R9, R47, R49, R99, R124): the first segment, the first references, and the stands that hold at once. -/

namespace Sys2Proof.Machine

/-! ### The first reference of every stand (R99, R109) -/

/-- R99: the first reference of a stand under a schedule. -/
def firstReference (x : StandTargets) : Int := clampInt x.sset x.smin x.smax

/-- R99: a stand that has taken its first reference r. -/
def StandCtl.threaded (st : StandCtl) (r : Int) (c : EvalCounters) : StandCtl :=
  { st with mode := .position, holds := .empty, trim := 0, lastSent := some r, counters := c }

/-- What the first reference of stand k writes. -/
structure Referenced (e : InForce) (k : Stand) (s t : State) : Prop where
  frame : { t with stands := s.stands, actuators := s.actuators, faults := s.faults, sent := s.sent } = s
  stands : ∃ c, t.stands = s.stands.set k (s.stands[k].threaded (firstReference e.sched.stands[k]) c)
  actuators : t.actuators = s.actuators.set k (s.actuators[k].moved (firstReference e.sched.stands[k]) s.time
    (inBand s k (firstReference e.sched.stands[k])))

theorem threadStand_referenced (e : InForce) (k : Stand) (s : State) : Referenced e k s (threadStand e k s) := by
  have hdef : ∃ c, threadStand e k s = takeGapSet k (firstReference e.sched.stands[k])
      (s.setStand k (s.stands[k].threaded (firstReference e.sched.stands[k]) c)) := ⟨_, rfl⟩
  obtain ⟨c, hdef⟩ := hdef
  rw [hdef]
  generalize hr : firstReference e.sched.stands[k] = r
  have hat := setStand_same s k (s.stands[k].threaded r c)
  have hband : inBand (s.setStand k (s.stands[k].threaded r c)) k r = inBand s k r :=
    inBand_congr (s := s) (t := s.setStand k (s.stands[k].threaded r c)) rfl (by rw [hat]; rfl) r
  have hh := takeGapSet_handedOver k r (s.setStand k (s.stands[k].threaded r c))
  generalize takeGapSet k r (s.setStand k (s.stands[k].threaded r c)) = t at hh
  obtain ⟨h, hst, hkept, -⟩ := hh.stands
  have hacts := hh.actuators
  rw [hat] at hst hkept
  rw [hband] at hacts
  have hempty : h = .empty := hkept.elim id id
  refine ⟨(congrArg (fun x : State => { x with stands := s.stands }) hh.frame :), ⟨c, ?_⟩, by rw [hr]; exact hacts⟩
  rw [hst, hempty, hr]
  exact Vector.set_set _ _

/-- What the first references of all stands write. -/
structure Threaded (e : InForce) (s t : State) : Prop where
  frame : { t with stands := s.stands, actuators := s.actuators, faults := s.faults, sent := s.sent } = s
  stands : ∀ k : Stand, ∃ c, t.stands[k] = s.stands[k].threaded (firstReference e.sched.stands[k]) c
  actuators : ∀ k : Stand, t.actuators[k] = s.actuators[k].moved (firstReference e.sched.stands[k]) s.time
    (inBand s k (firstReference e.sched.stands[k]))

theorem threadStands_threaded (e : InForce) (s : State) : Threaded e s (forStands (threadStand e) s) := by
  have hP : ∀ (k : Stand) (u : State), { u with
      stands := s.stands, actuators := s.actuators, faults := s.faults, sent := s.sent } = s → { threadStand e k u with
      stands := s.stands, actuators := s.actuators, faults := s.faults, sent := s.sent } = s := fun k u hu =>
    (congrArg (fun x : State => { x with
      stands := s.stands, actuators := s.actuators, faults := s.faults, sent := s.sent }) (threadStand_referenced e k u).frame :).trans hu
  refine ⟨forStands_keeps (P := fun u => { u with
      stands := s.stands, actuators := s.actuators, faults := s.faults, sent := s.sent } = s) hP rfl, fun k => ?_, fun k => ?_⟩
  · obtain ⟨u, -, hsame, hval⟩ := forStands_at (f := threadStand e) (fun k u => u.stands[k]) hP (fun j k u _ hjk => by
      obtain ⟨c, hc⟩ := (threadStand_referenced e k u).stands
      rw [hc]
      exact (stands_set_at u k j _).trans (if_neg hjk)) (s := s) rfl k
    obtain ⟨c, hc⟩ := (threadStand_referenced e k u).stands
    refine ⟨c, ?_⟩
    rw [hval, hc, ← hsame]
    exact setStand_same u k _
  · obtain ⟨u, hu, hsame, hval⟩ := forStands_at (f := threadStand e) (fun k u => (u.actuators[k], u.stands[k].params)) hP
      (fun j k u _ hjk => by
        obtain ⟨c, hc⟩ := (threadStand_referenced e k u).stands
        refine Prod.ext ?_ ?_
        · show (threadStand e k u).actuators[j] = u.actuators[j]
          rw [(threadStand_referenced e k u).actuators]
          exact (actuators_set_at u k j _).trans (if_neg hjk)
        · show (threadStand e k u).stands[j].params = u.stands[j].params
          rw [hc]
          exact congrArg StandCtl.params ((stands_set_at u k j _).trans (if_neg hjk))) (s := s) rfl k
    obtain ⟨hact, hpar⟩ := Prod.mk.inj hsame
    have huc : u.channels = s.channels := (congrArg State.channels hu :)
    have hut : u.time = s.time := (congrArg State.time hu :)
    refine (congrArg Prod.fst hval).trans ?_
    show (threadStand e k u).actuators[k] = _
    rw [(threadStand_referenced e k u).actuators]
    refine (setActuator_same u k _).trans ?_
    rw [hact, hut, inBand_congr huc hpar]

/-! ### Stands without a usable gap position (R99) -/

theorem threadHold_frame (k : Stand) (s : State) : { threadHold k s with stands := s.stands, heldFrom := s.heldFrom } = s := by
  unfold threadHold
  split
  next => rfl
  next => exact causeArises_frame .gapLost k s

theorem threadHold_at (k j : Stand) (s : State) : (threadHold k s).stands[j] =
    if j = k ∧ s.usable (.gapPos k) = false then s.stands[k].told .gapLost else s.stands[j] := by
  unfold threadHold
  by_cases hu : s.usable (.gapPos k) = true
  · rw [if_pos hu, if_neg (by rw [hu]; simp)]
  · rw [if_neg hu, causeArises_stand]
    have hf : s.usable (.gapPos k) = false := Bool.eq_false_iff.2 hu
    by_cases hj : j = k
    · rw [if_pos hj, if_pos ⟨hj, hf⟩]
    · rw [if_neg hj, if_neg fun h => hj h.1]

theorem threadHolds (s : State) : { forStands threadHold s with stands := s.stands, heldFrom := s.heldFrom } = s ∧
    ∀ k : Stand, (forStands threadHold s).stands[k] =
      if s.usable (.gapPos k) = true then s.stands[k] else s.stands[k].told .gapLost := by
  have hP : ∀ (k : Stand) (u : State), { u with stands := s.stands, heldFrom := s.heldFrom } = s →
      { threadHold k u with stands := s.stands, heldFrom := s.heldFrom } = s := fun k u hu =>
    (congrArg (fun x : State => { x with stands := s.stands, heldFrom := s.heldFrom }) (threadHold_frame k u) :).trans hu
  refine ⟨forStands_keeps (P := fun u => { u with stands := s.stands, heldFrom := s.heldFrom } = s) hP rfl, fun k => ?_⟩
  obtain ⟨u, hu, hsame, hval⟩ := forStands_at (f := threadHold) (fun k u => u.stands[k]) hP (fun j k u _ hjk => by
    rw [threadHold_at, if_neg fun h => hjk h.1]) (s := s) rfl k
  have huc : u.channels = s.channels := (congrArg State.channels hu :)
  have hus : u.usable (.gapPos k) = s.usable (.gapPos k) := usable_congr (fun y => by rw [huc]) fun y _ => by rw [huc]
  rw [hval, threadHold_at, hsame, hus]
  cases s.usable (.gapPos k) with
  | true => rw [if_neg (by simp), if_pos rfl]
  | false => rw [if_pos ⟨rfl, rfl⟩, if_neg (by decide)]

/-! ### The first segment (R47, R49, R165) -/

/-- What opening segment 0 at THREAD writes. -/
structure FirstSegment (e : InForce) (s t : State) : Prop where
  frame : { t with ring := s.ring, reports := s.reports, table := s.table, points := s.points, faults := s.faults } = s
  ring : t.ring = [newSegment e 0 s.coilCounter]
  reports : t.reports = [CoilReport.fresh s.coilCounter e.sched.tag 1]
  table : t.table = s.table.map fun x => if x.sched.tag = e.sched.tag then { x with refs := x.refs + 1 } else x
  first : t.points[PointNo.x0] = s.points[PointNo.x0].startedOn 0 s.time
  others : ∀ p : PointNo, p ≠ PointNo.x0 → t.points[p].started = s.points[p].started

theorem firstSegment {e : InForce} {s : State} (he : s.entrySchedule = some e) (hr : s.ring = []) (hp : s.reports = []) :
    FirstSegment e s (startPoint PointNo.x0 s.time
      (addSegment 0 { s with reports := s.reports ++ [CoilReport.fresh s.coilCounter e.sched.tag 0] })) := by
  have hadd := addSegment_eq (n := 0) (s := { s with reports := s.reports ++ [CoilReport.fresh s.coilCounter e.sched.tag 0] }) he
  generalize addSegment 0 { s with reports := s.reports ++ [CoilReport.fresh s.coilCounter e.sched.tag 0] } = u at hadd
  have hur : u.ring = [newSegment e 0 s.coilCounter] := by
    rw [hadd, hr]
    rfl
  have hup : u.reports = [CoilReport.fresh s.coilCounter e.sched.tag 1] := by
    rw [hadd, hp]
    have hcoil : (CoilReport.fresh s.coilCounter e.sched.tag 0).coil = s.coilCounter := rfl
    show [if (CoilReport.fresh s.coilCounter e.sched.tag 0).coil = s.coilCounter then _ else _] = _
    rw [if_pos hcoil]
    rfl
  have huf : { u with ring := s.ring, reports := s.reports, table := s.table } = s := by rw [hadd]
  have hut : u.table = s.table.map fun x => if x.sched.tag = e.sched.tag then { x with refs := x.refs + 1 } else x := by rw [hadd]
  rw [startPoint_gauge (by decide) hur]
  have hsp := startedAt_spec PointNo.x0 0 s.time u
  have hn : (newSegment e 0 s.coilCounter).number = 0 := rfl
  rw [hn]
  generalize startedAt PointNo.x0 0 s.time u = w at hsp
  have hwr : w.ring = [newSegment e 0 s.coilCounter] := (congrArg State.ring hsp.frame :).trans hur
  rw [scheduleArrival_plain fun g hg => by
    have hmem : g ∈ w.ring := List.mem_of_find?_eq_some hg
    rw [hwr, List.mem_singleton] at hmem
    rw [hmem]
    rfl]
  have hupts : u.points = s.points := (congrArg State.points huf :)
  have hfirst := hsp.point
  have hothers := hsp.others
  rw [hupts] at hfirst hothers
  refine ⟨?_, hwr, (congrArg State.reports hsp.frame :).trans hup, (congrArg State.table hsp.frame :).trans hut, hfirst,
    fun p hpx => ?_⟩
  · exact (congrArg (fun x : State => { x with
      ring := s.ring, reports := s.reports, table := s.table, points := s.points, faults := s.faults }) hsp.frame :).trans
      (congrArg (fun x : State => { x with points := s.points, faults := s.faults }) huf :)
  · rw [hothers p hpx]
    split <;> rfl

/-- R9 checks 3 and 4. -/
theorem actuatorRefusal_none {s : State} (h : ∀ k : Stand, s.actuators[k].mode ≠ .unlinked ∧ s.actuators[k].mode ≠ .faulted ∧
    s.actuators[k].readyFlag = some true) : actuatorRefusal s = none := by
  have hlost : (List.finRange 6).find? (actuatorLost s) = none := List.find?_eq_none.2 fun k _ hk => by
    obtain ⟨h1, h2, -⟩ := h k
    unfold actuatorLost at hk
    rw [Bool.or_eq_true, beq_iff_eq, beq_iff_eq] at hk
    exact hk.elim h1 h2
  have hready : (List.finRange 6).find? (actuatorUnready s) = none := List.find?_eq_none.2 fun k _ hk => by
    obtain ⟨-, -, h3⟩ := h k
    unfold actuatorUnready at hk
    rw [h3] at hk
    exact absurd hk (by decide)
  simp only [actuatorRefusal, hlost, hready, Option.map_none]

/-- Settles O20: what an accepted THREAD starts. -/
theorem threadStarts : Obligations.ThreadStarts := by
  intro n e s hfree hm htrip he hbase hacts hring hreps hpts hn
  have hm' : s.received.mode = .ready := hm
  have ht' : s.received.trip = .normal := htrip
  have he' : s.received.entrySchedule = some e := he
  have hact : doThread s.received = (okWith [], beginThread e s.received) := by
    simp only [doThread, if_neg (not_not.2 hm'), if_neg (not_not.2 ht'), he', actuatorRefusal_none (s := s.received) hacts]
  have hfirst := firstSegment (s := s.received) he' hring hreps
  have hdef : beginThread e s.received = modeConditions (forStands threadHold ((forStands (threadStand e)
      (startPoint PointNo.x0 s.received.time (addSegment 0 { s.received with
        reports := s.received.reports ++ [CoilReport.fresh s.received.coilCounter e.sched.tag 0] }))).changeMode .thread .thread)) := rfl
  rw [hdef] at hact
  clear hdef
  generalize startPoint PointNo.x0 s.received.time (addSegment 0 { s.received with
    reports := s.received.reports ++ [CoilReport.fresh s.received.coilCounter e.sched.tag 0] }) = u at hact hfirst
  have hth := threadStands_threaded e u
  generalize forStands (threadStand e) u = w at hact hth
  obtain ⟨hhf, hhs⟩ := threadHolds (w.changeMode .thread .thread)
  have hus : u.stands = s.stands := (congrArg State.stands hfirst.frame :)
  have hua : u.actuators = s.actuators := (congrArg State.actuators hfirst.frame :)
  have huc : u.channels = s.channels := (congrArg State.channels hfirst.frame :)
  have hut : u.time = s.time := (congrArg State.time hfirst.frame :)
  have hwc : w.channels = s.channels := (congrArg State.channels hth.frame :).trans huc
  have husable : ∀ k, (w.changeMode .thread .thread).usable (.gapPos k) = s.usable (.gapPos k) := fun k => by
    have hc : (w.changeMode .thread .thread).channels = s.channels := hwc
    exact usable_congr (fun y => by rw [hc]) fun y _ => by rw [hc]
  have hheld : ∀ k : Stand, (forStands threadHold (w.changeMode .thread .thread)).stands[k] =
      if s.usable (.gapPos k) = true then w.stands[k] else w.stands[k].told .gapLost := fun k => by
    rw [hhs k, husable k]
    rfl
  generalize forStands threadHold (w.changeMode .thread .thread) = x at hact hhf hheld
  have hxm : x.mode = .thread := (congrArg State.mode hhf :)
  have hxc : x.channels = s.channels := (congrArg State.channels hhf :).trans hwc
  rw [modeConditions_idle (by rw [hxm]; decide) (by rw [hxm]; decide) (hn.congr hxc)] at hact
  obtain ⟨hlf, -⟩ := leaveRun_spec x
  generalize leaveRun x = t at hact hlf
  have htp : t.points = u.points := (congrArg State.points hlf :).trans ((congrArg State.points hhf :).trans
    (congrArg State.points hth.frame :))
  have hts : t.stands = x.stands := (congrArg State.stands hlf :)
  have hta : t.actuators = w.actuators := (congrArg State.actuators hlf :).trans (congrArg State.actuators hhf :)
  have hramp : newSegment e 0 s.received.coilCounter =
      ⟨0, s.coilCounter, e.sched.tag, false, none, [], none, none, none, none, false, false⟩ := by
    have hri : e.rampIndex 0 = none := by simp only [InForce.rampIndex, hbase]
    unfold newSegment
    rw [hri]
    rfl
  have hx0 : t.points[PointNo.x0] = s.points[PointNo.x0].startedOn 0 s.time := by
    rw [htp]
    exact hfirst.first
  have hstand : ∀ k : Stand, ∃ c, t.stands[k] = if s.usable (.gapPos k) = true then
      s.stands[k].threaded (firstReference e.sched.stands[k]) c else
      (s.stands[k].threaded (firstReference e.sched.stands[k]) c).told .gapLost := fun k => by
    obtain ⟨c, hc⟩ := hth.stands k
    rw [hus] at hc
    exact ⟨c, by rw [hts, hheld k, hc]⟩
  refine ⟨t, exec_request (r := .thread) rfl hfree hact, (congrArg State.mode hlf :).trans hxm,
    (congrArg State.millStop hlf :).trans (congrArg State.millStop hhf :),
    (congrArg State.standTrip hlf :).trans (congrArg State.standTrip hhf :), ?_, ?_, by rw [hx0]; rfl, by rw [hx0]; rfl,
    by rw [hx0]; rfl, by rw [hx0]; rfl, fun p hp => ?_, fun k => ?_, ?_, ?_, ?_, ?_, ?_, ?_, ?_, ?_, ?_, ?_⟩
  · exact (congrArg State.ring hlf :).trans ((congrArg State.ring hhf :).trans ((congrArg State.ring hth.frame :).trans
      (hfirst.ring.trans (by rw [hramp]))))
  · exact (congrArg State.reports hlf :).trans ((congrArg State.reports hhf :).trans ((congrArg State.reports hth.frame :).trans
      hfirst.reports))
  · rw [htp, hfirst.others p hp]
    exact hpts p
  · obtain ⟨c, hc⟩ := hstand k
    have hlast : t.stands[k].lastSent = some (firstReference e.sched.stands[k]) := by
      rw [hc]
      split
      next => rfl
      next => rw [told_gapLost _ false]; rfl
    refine ⟨?_, ?_, ?_, hlast, fun hidle => ?_⟩
    · rw [hc]
      split
      next => rfl
      next => rfl
    · rw [hc]
      cases s.usable (.gapPos k) with
      | true => rfl
      | false => rfl
    · rw [hc]
      split
      next => rfl
      next => rfl
    · have hact' : t.actuators[k] = s.actuators[k].moved (firstReference e.sched.stands[k]) s.time
          (inBand s k (firstReference e.sched.stands[k])) := by
        rw [hta, hth.actuators k, hua, hut, inBand_congr huc (by rw [hus])]
      rw [hlast, hact']
      refine ⟨moved_target ((follows_iff _).2 (.inl hidle)), ?_⟩
      show _ = if inBand s k (firstReference e.sched.stands[k]) = true then _ else _
      cases inBand s k (firstReference e.sched.stands[k]) with
      | true => rw [moved_near (.inl hidle)]; rfl
      | false => rw [moved_far (.inl hidle)]; rfl
  · exact (congrArg State.table hlf :).trans ((congrArg State.table hhf :).trans ((congrArg State.table hth.frame :).trans
      hfirst.table))
  · exact (congrArg State.queue hlf :).trans ((congrArg State.queue hhf :).trans ((congrArg State.queue hth.frame :).trans
      (congrArg State.queue hfirst.frame :)))
  · exact (congrArg State.transitions hlf :).trans ((congrArg State.transitions hhf :).trans
      ((congrArg State.transitions hth.frame :).trans (congrArg State.transitions hfirst.frame :)))
  · exact (congrArg State.coilCounter hlf :).trans ((congrArg State.coilCounter hhf :).trans
      ((congrArg State.coilCounter hth.frame :).trans (congrArg State.coilCounter hfirst.frame :)))
  · exact (congrArg State.channels hlf :).trans hxc
  · exact (congrArg State.links hlf :).trans ((congrArg State.links hhf :).trans ((congrArg State.links hth.frame :).trans
      (congrArg State.links hfirst.frame :)))
  · exact (congrArg State.line hlf :).trans ((congrArg State.line hhf :).trans ((congrArg State.line hth.frame :).trans
      (congrArg State.line hfirst.frame :)))
  · exact (congrArg State.policy hlf :).trans ((congrArg State.policy hhf :).trans ((congrArg State.policy hth.frame :).trans
      (congrArg State.policy hfirst.frame :)))
  · exact (congrArg State.trip hlf :).trans ((congrArg State.trip hhf :).trans ((congrArg State.trip hth.frame :).trans
      ((congrArg State.trip hfirst.frame :).trans ht')))
  · exact (congrArg State.committed hlf :).trans ((congrArg State.committed hhf :).trans ((congrArg State.committed hth.frame :).trans
      (congrArg State.committed hfirst.frame :)))

end Sys2Proof.Machine

/-! SUPPORT. One passage (R55 to R61): what the passages at a bite point and at X1 read and write, and the speed sample that
carries one point over the end of its segment. -/

namespace Sys2Proof.Machine

/-! ### Segments under a rewriting of the ring -/

/-- A rewriting of one segment that keeps the numbers is seen by the lookup of any segment. -/
theorem segment_setSegment {f : Segment → Segment} (hf : ∀ x, (f x).number = x.number) (s : State) (n m : SegNo) :
    (s.setSegment n f).segment m = (s.segment m).map fun x => if x.number = n then f x else x := by
  show (s.ring.map _).find? _ = _
  rw [List.find?_map]
  refine congrArg (fun p => (s.ring.find? p).map _) (funext fun x => ?_)
  show ((if x.number = n then f x else x).number == m) = (x.number == m)
  split
  · rw [hf]
  · rfl

theorem segment_number {s : State} {n : SegNo} {g : Segment} (h : s.segment n = some g) : g.number = n := by
  simpa using List.find?_some (p := fun x : Segment => x.number == n) h

/-- A rewriting that keeps numbers and tags keeps the schedule of every segment. -/
theorem scheduleOf_setSegment {f : Segment → Segment} (hf : ∀ x, (f x).number = x.number) (ht : ∀ x, (f x).tag = x.tag)
    (s : State) (n m : SegNo) : (s.setSegment n f).scheduleOf m = s.scheduleOf m := by
  unfold State.scheduleOf
  rw [segment_setSegment hf]
  cases s.segment m with
  | none => rfl
  | some g =>
    show s.inForce (if g.number = n then f g else g).tag = s.inForce g.tag
    split
    · rw [ht]
    · rfl

theorem scheduleOf_congr {s t : State} (hr : t.ring = s.ring) (ht : t.table = s.table) (n : SegNo) :
    t.scheduleOf n = s.scheduleOf n := by
  unfold State.scheduleOf State.segment State.inForce
  rw [hr, ht]

/-! ### The point of a passage and the neighbour downstream -/

/-- R55: a point on the next newer segment with the excess, its accumulator empty. -/
def Point.passed (x : Point) (full : Nat) : Point :=
  { x with cursor := x.cursor + 1, travelled := x.travelled - full, sum := 0, count := 0 }

/-- R61: a point whose upstream neighbour has passed segment n. -/
def Point.freed (x : Point) (n : SegNo) : Point := { x with clamped := x.clamped && !(x.started && x.cursor == n) }

theorem unclamp_spec (q : PointNo) (n : SegNo) (s : State) : (unclamp q n s).points = s.points.set q (s.points[q].freed n) ∧
    Ends [Kind.trackOverrun] s (unclamp q n s) ∧
    (s.points[q].started = true → s.points[q].clamped = true → s.points[q].cursor = n →
      q.val ∉ (unclamp q n s).faults[Kind.trackOverrun].active) := by
  unfold unclamp Point.freed
  dsimp only
  split
  next h =>
    obtain ⟨hst, hcl, hcur⟩ := h
    refine ⟨?_, Ends.inactive_of rfl, fun _ _ _ => inactive_gone _ _ _⟩
    rw [hst, hcl, hcur, beq_self_eq_true]
    rfl
  next h =>
    have hkeep : (s.points[q].clamped && !(s.points[q].started && s.points[q].cursor == n)) = s.points[q].clamped := by
      cases hcl : s.points[q].clamped with
      | false => rfl
      | true =>
        have hon : (s.points[q].started && s.points[q].cursor == n) = false := by
          rw [Bool.eq_false_iff]
          intro hx
          obtain ⟨hst, hcur⟩ := (Bool.and_eq_true _ _).mp hx
          exact h ⟨hst, hcl, beq_iff_eq.1 hcur⟩
        rw [hon]
        rfl
    refine ⟨?_, Ends.refl _ s, fun hst hcl hcur => absurd ⟨hst, hcl, hcur⟩ h⟩
    rw [hkeep]
    exact (Vector.set_getElem_self _).symm

/-- R60: an arrival writes the stand of its bite point, transitions, logs and notices alone. -/
theorem arrive_frame (p : PointNo) (n : SegNo) (s : State) :
    { arrive p n s with stands := s.stands, transitions := s.transitions, logs := s.logs, port := s.port } = s := by
  unfold arrive
  dsimp only
  cases biteOf p with
  | none => exact (congrArg (fun x : State => { x with stands := s.stands }) (scheduleArrival_frame p n s) :)
  | some k => exact (congrArg (fun x : State => { x with stands := s.stands }) (scheduleArrival_frame p n (biteArrives k n s)) :)

/-- R55: a passage at a point with a neighbour downstream, its actions leaving the points alone. -/
theorem passage_eq {p q : PointNo} (hq : p.val + 1 = q.val) {s : State}
    (hpts : (passageActions p s.points[p].cursor s).points = s.points) : passage p s =
      arrive p (s.points[p].cursor + 1) (unclamp q s.points[p].cursor
        ((passageActions p s.points[p].cursor s).setPoint p (s.points[p].passed s.full))) := by
  simp only [passage, downstream_eq hq, hpts]
  rfl

/-- What a passage at point p does to the points: p stands on the next segment, and its neighbour is free. -/
structure PointPassed (p : PointNo) (s t : State) : Prop where
  point : t.points[p] = s.points[p].passed s.full
  others : ∀ q : PointNo, q ≠ p → t.points[q] = if q.val = p.val + 1 then s.points[q].freed s.points[p].cursor else s.points[q]
  freed : ∀ q : PointNo, q.val = p.val + 1 → s.points[q].started = true → s.points[q].clamped = true →
    s.points[q].cursor = s.points[p].cursor → q.val ∉ t.faults[Kind.trackOverrun].active

theorem passage_points {p q : PointNo} (hq : p.val + 1 = q.val) {s : State}
    (hpts : (passageActions p s.points[p].cursor s).points = s.points) : PointPassed p s (passage p s) := by
  rw [passage_eq hq hpts]
  let u := (passageActions p s.points[p].cursor s).setPoint p (s.points[p].passed s.full)
  have hne : q ≠ p := fun h => by rw [h] at hq; omega
  have hup : u.points = s.points.set p (s.points[p].passed s.full) :=
    congrArg (fun v : Vector Point 9 => v.set p (s.points[p].passed s.full)) hpts
  obtain ⟨hpoints, -, hgone⟩ := unclamp_spec q s.points[p].cursor u
  have huq : u.points[q] = s.points[q] := by rw [hup, points_set_at, if_neg hne]
  have ha := arrive_frame p (s.points[p].cursor + 1) (unclamp q s.points[p].cursor u)
  have hap : (arrive p (s.points[p].cursor + 1) (unclamp q s.points[p].cursor u)).points =
      (s.points.set p (s.points[p].passed s.full)).set q (s.points[q].freed s.points[p].cursor) := by
    refine (congrArg State.points ha :).trans ?_
    rw [hpoints, huq, hup]
  have haf : (arrive p (s.points[p].cursor + 1) (unclamp q s.points[p].cursor u)).faults =
      (unclamp q s.points[p].cursor u).faults := (congrArg State.faults ha :)
  rw [huq] at hgone
  refine ⟨?_, fun x hx => ?_, fun x hx hst hcl hcur => ?_⟩
  · rw [hap, points_set_at, if_neg (Ne.symm hne), points_set_at, if_pos rfl]
  · rw [hap, points_set_at, points_set_at, if_neg hx]
    by_cases hxq : x = q
    · rw [if_pos hxq, if_pos (by rw [hxq]; exact hq.symm), hxq]
    · rw [if_neg hxq, if_neg fun h => hxq (Fin.ext (h.trans hq))]
  · rw [show x = q from Fin.ext (hx.trans hq)] at hst hcl hcur ⊢
    rw [haf]
    exact hgone hst hcl hcur

/-! ### Bite points (R58, R60, R88, R102, R113) -/

/-- The segment that a stand estimate joins. -/
def Segment.estimated (g : Segment) (e : Estimate) : Segment := { g with estimates := g.estimates ++ [e] }

theorem passBite_eq {k : Stand} {n : SegNo} {s : State} (hm : s.mode = .thread ∨ s.mode = .run) : passBite k n s =
    (s.setSegment n fun g => g.estimated (estimateOf k s.stands[k])).setStand k
      { s.stands[k] with mode := returnedMode s k, sum := 0, count := 0 } := by
  let u := emptyEstimate k (s.setSegment n fun g => g.estimated (estimateOf k s.stands[k]))
  have hat : u.stands[k] = { s.stands[k] with sum := 0, count := 0 } := setStand_same _ k _
  have hret : returnMode u k = returnedMode s k :=
    (returnMode_eq (s := u) hm).trans
    (returnedMode_congr rfl (by rw [hat]) (by rw [hat]) (fun _ => rfl) rfl)
  show u.setStand k { u.stands[k] with mode := returnMode u k } = _
  rw [hret, hat]
  simp [u, emptyEstimate, State.setStand]

/-- A state with what a passage at a bite point writes put back to what it was. -/
def State.unpass (s t : State) : State :=
  { t with
    ring := s.ring, points := s.points, stands := s.stands, faults := s.faults, transitions := s.transitions, logs := s.logs
    port := s.port }

/-- What a passage of B_k writes beside the points. -/
structure BitePassed (k : Stand) (n : SegNo) (s t : State) : Prop where
  frame : s.unpass t = s
  ring : t.ring = s.ring.map fun x => if x.number = n then x.estimated (estimateOf k s.stands[k]) else x
  stands : t.stands = s.stands.set k { s.stands[k] with mode := returnedMode s k, bite := some (n + 1), sum := 0, count := 0 }
  switched : ∀ (g : Segment) (x : Transition), s.segment (n + 1) = some g → g.weld = true →
    s.transitions.find? (·.weld == n + 1) = some x → x.switched[k] = false →
    t.transitions = s.transitions.map (fun y => if y.weld = n + 1 then { y with switched := y.switched.set k true } else y) ∧
    t.logs[LogNo.schedule] = s.logs[LogNo.schedule].append 32 s.logTime (.standSwitched x.toTag k (n + 1) x.coil)
  unswitched : (∀ x ∈ s.transitions, x.weld ≠ n + 1) → t.transitions = s.transitions

/-- R88: the bite arrival of a stand that the transition of the weld segment has not switched. -/
theorem switchStand_first {s : State} {k : Stand} {n : SegNo} {x : Transition} (hx : s.transitions.find? (·.weld == n) = some x)
    (hsw : x.switched[k] = false) : (switchStand k n s).transitions =
      s.transitions.map (fun y => if y.weld = n then { y with switched := y.switched.set k true } else y) ∧
    (switchStand k n s).logs[LogNo.schedule] =
      s.logs[LogNo.schedule].append 32 s.logTime (.standSwitched x.toTag k n x.coil) := by
  simp only [switchStand, hx, hsw]
  refine ⟨rfl, ?_⟩
  simp [State.append]
  rfl

theorem bitePoint_next (k : Stand) : ∃ q : PointNo, (bitePoint k).val + 1 = q.val := by
  revert k
  decide

theorem stand_set_twice (v : Vector StandCtl 6) (k : Stand) (x y : StandCtl) : (v.set k x).set k y = v.set k y := by simp

theorem passage_bite {k : Stand} {s : State} (hm : s.mode = .thread ∨ s.mode = .run) :
    BitePassed k s.points[bitePoint k].cursor s (passage (bitePoint k) s) ∧ PointPassed (bitePoint k) s
        (passage (bitePoint k) s) := by
  obtain ⟨q, hq⟩ := bitePoint_next k
  have hact : ∀ n, passageActions (bitePoint k) n s = passBite k n s := fun n => by
    simp only [passageActions, biteOf_bitePoint]
  have hpts : (passageActions (bitePoint k) s.points[bitePoint k].cursor s).points = s.points := by
    rw [hact, passBite_eq hm]
    rfl
  refine ⟨?_, passage_points hq hpts⟩
  rw [passage_eq hq hpts, hact, passBite_eq hm]
  generalize s.points[bitePoint k].cursor = n
  let st : StandCtl := { s.stands[k] with mode := returnedMode s k, sum := 0, count := 0 }
  let est : Segment → Segment := fun g => g.estimated (estimateOf k s.stands[k])
  let u : State := ((s.setSegment n est).setStand k st).setPoint (bitePoint k) (s.points[bitePoint k].passed s.full)
  show BitePassed k n s (arrive (bitePoint k) (n + 1) (unclamp q n u))
  have harr : arrive (bitePoint k) (n + 1) (unclamp q n u) =
      scheduleArrival (bitePoint k) (n + 1) (biteArrives k (n + 1) (unclamp q n u)) := by
    simp only [arrive, biteOf_bitePoint]
  have hw : { unclamp q n u with points := s.points, faults := s.faults } =
      { s with ring := (s.setSegment n est).ring, stands := s.stands.set k st } :=
    (congrArg (fun x : State => { x with points := s.points, faults := s.faults }) (unclamp_frame q n u) :)
  rw [harr]
  generalize unclamp q n u = w at hw
  have hws : w.stands = s.stands.set k st := (congrArg State.stands hw :)
  have hwat : w.stands[k] = st := by rw [hws]; exact Vector.getElem_set_self _
  have hbs : (biteArrives k (n + 1) w).stands = s.stands.set k
      { s.stands[k] with mode := returnedMode s k, bite := some (n + 1), sum := 0, count := 0 } := by
    show w.stands.set k { w.stands[k] with bite := some (n + 1), sum := 0, count := 0 } = _
    rw [hwat, hws, stand_set_twice]
  have hbf : { biteArrives k (n + 1) w with points := s.points, faults := s.faults, stands := s.stands } =
      { s with ring := (s.setSegment n est).ring } := (congrArg (fun x : State => { x with stands := s.stands }) hw :)
  generalize biteArrives k (n + 1) w = b at hbs hbf
  have ha := scheduleArrival_frame (bitePoint k) (n + 1) b
  have hbr : b.ring = (s.setSegment n est).ring := (congrArg State.ring hbf :)
  have hbt : b.transitions = s.transitions := (congrArg State.transitions hbf :)
  have hbl : b.logs = s.logs := (congrArg State.logs hbf :)
  have htime : b.logTime = s.logTime := (congrArg State.logTime hbf :)
  refine ⟨?_, ?_, ?_, fun g x hg hweld hx hsw => ?_, fun hno => ?_⟩
  · exact (congrArg s.unpass ha :).trans (congrArg s.unpass hbf :)
  · exact (congrArg State.ring ha :).trans hbr
  · exact (congrArg State.stands ha :).trans hbs
  · have hseg : b.segment (n + 1) = some (if g.number = n then est g else g) := by
      have hs := segment_setSegment (f := est) (fun _ => rfl) s n (n + 1)
      rw [hg] at hs
      unfold State.segment at hs ⊢
      rw [hbr]
      exact hs
    have hestw : (if g.number = n then est g else g).weld = true := by
      split
      · exact hweld
      · exact hweld
    have hfind : b.transitions.find? (·.weld == n + 1) = some x := by rw [hbt]; exact hx
    rw [scheduleArrival_bite hseg hestw (biteOf_bitePoint k), ← hbt, ← hbl, ← htime]
    exact switchStand_first hfind hsw
  · rw [scheduleArrival_none (s := b) (by rw [hbt]; exact hno)]
    exact hbt

end Sys2Proof.Machine

/-! SUPPORT. The passage at X1 and the monitor trims (R59, R114), and the turn of the point that a speed sample carries over
the end of its segment. -/

namespace Sys2Proof.Machine

/-! ### Monitor trims (R114) -/

/-- R114: a trim is updated in GAUGE by a mean of a segment that is in no ramp. -/
theorem monitorTrim_trims {k : Stand} {g : Segment} {m : Int × Nat} {s : State} {r : StandParams} {x : InForce}
    (hm : s.stands[k].mode = .gauge) (hramp : g.ramp = none) (hr : s.stands[k].params = some r) (hx : s.inForce g.tag = some x) :
    monitorTrim k g (some m) s = s.setStand k { s.stands[k] with
      trim := trimNext r s.stands[k].trim x.sched.stands[k].q (m.1 - x.effH g.number k) } := by
  simp only [monitorTrim, hm, hramp, hr, hx]

theorem monitorTrim_rests {k : Stand} {g : Segment} {m : Option (Int × Nat)} {s : State}
    (h : s.stands[k].mode ≠ .gauge ∨ m = none ∨ g.ramp ≠ none) : monitorTrim k g m s = s := by
  unfold monitorTrim
  dsimp only
  split
  next hm hramp _ _ =>
    rcases h with h | h | h
    · exact absurd hm h
    · exact absurd h (by simp)
    · exact absurd hramp h
  next => rfl

theorem monitorTrim_frame (k : Stand) (g : Segment) (m : Option (Int × Nat)) (s : State) :
    { monitorTrim k g m s with stands := s.stands } = s := by
  unfold monitorTrim
  dsimp only
  split <;> rfl

/-! ### The passage at X1 (R59) -/

/-- What a passage of X1 writes beside the points, `m` being its mean. -/
structure X1Passed (n : SegNo) (m : Option (Int × Nat)) (s t : State) : Prop where
  frame : { t with ring := s.ring, points := s.points, stands := s.stands, faults := s.faults } = s
  ring : t.ring = s.ring.map fun x => if x.number = n then { x with x1 := m } else x
  trimmed : ∀ (g : Segment) (x : InForce) (v : Int × Nat) (r : StandParams), s.segment n = some g → s.inForce g.tag = some x →
    s.stands[(0 : Stand)].params = some r → s.stands[(0 : Stand)].mode = .gauge → m = some v → g.ramp = none →
    t.stands = s.stands.set (0 : Stand) { s.stands[(0 : Stand)] with
      trim := trimNext r s.stands[(0 : Stand)].trim x.sched.stands[(0 : Stand)].q (v.1 - x.effH n 0) }
  kept : s.stands[(0 : Stand)].mode ≠ .gauge ∨ m = none ∨ (∀ g, s.segment n = some g → g.ramp ≠ none) → t.stands = s.stands

theorem passX1_eq {n : SegNo} {s : State} {g : Segment} (h : s.segment n = some g) : passX1 n s =
    monitorTrim 0 { g with x1 := meanOf s.points[PointNo.x1] } (meanOf s.points[PointNo.x1])
      (s.setSegment n fun x => { x with x1 := meanOf s.points[PointNo.x1] }) := by
  have hmap := segment_setSegment (f := fun x => { x with x1 := meanOf s.points[PointNo.x1] }) (fun _ => rfl) s n n
  rw [h, Option.map_some, if_pos (segment_number h)] at hmap
  unfold passX1
  dsimp only
  rw [show closedMean s.points[PointNo.x1].sum s.points[PointNo.x1].count = meanOf s.points[PointNo.x1] from rfl, hmap]

theorem passX1_absent {n : SegNo} {s : State} (h : s.segment n = none) : passX1 n s =
    s.setSegment n fun x => { x with x1 := meanOf s.points[PointNo.x1] } := by
  have hmap := segment_setSegment (f := fun x => { x with x1 := meanOf s.points[PointNo.x1] }) (fun _ => rfl) s n n
  rw [h, Option.map_none] at hmap
  unfold passX1
  dsimp only
  rw [show closedMean s.points[PointNo.x1].sum s.points[PointNo.x1].count = meanOf s.points[PointNo.x1] from rfl, hmap]

theorem passX1_spec (n : SegNo) (s : State) :
    X1Passed n (meanOf s.points[PointNo.x1]) s (passX1 n s) ∧ (passX1 n s).points = s.points := by
  cases hseg : s.segment n with
  | none =>
    rw [passX1_absent hseg]
    exact ⟨⟨rfl, rfl, fun g x v r hg => absurd (hseg.symm.trans hg) (by simp), fun _ => rfl⟩, rfl⟩
  | some g0 =>
    rw [passX1_eq hseg]
    generalize meanOf s.points[PointNo.x1] = m
    have hframe := monitorTrim_frame 0 { g0 with x1 := m } m (s.setSegment n fun x => { x with x1 := m })
    refine ⟨⟨(congrArg (fun x : State => { x with ring := s.ring, points := s.points, faults := s.faults, stands := s.stands })
      hframe :), (congrArg State.ring hframe :), fun g x v r hg hx hr hgauge hv hramp => ?_, fun hno => ?_⟩,
      (congrArg State.points hframe :)⟩
    · obtain rfl : g0 = g := Option.some.inj (hseg.symm.trans hg)
      have htrim := monitorTrim_trims (k := 0) (g := { g0 with x1 := m }) (m := v) (s := s.setSegment n fun x => { x with x1 := m })
        hgauge hramp hr hx
      rw [← hv] at htrim
      rw [htrim]
      show s.stands.set (0 : Stand) { s.stands[(0 : Stand)] with
        trim := trimNext r s.stands[(0 : Stand)].trim x.sched.stands[(0 : Stand)].q (v.1 - x.effH g0.number 0) } = _
      rw [segment_number hg]
    · have hrest := hno.imp_right (Or.imp_right fun h => h g0 hseg)
      rw [monitorTrim_rests (k := 0) (g := { g0 with x1 := m }) (s := s.setSegment n fun x => { x with x1 := m }) hrest]
      rfl

theorem passage_x1 (s : State) :
    X1Passed s.points[PointNo.x1].cursor (meanOf s.points[PointNo.x1]) s (passage PointNo.x1 s) ∧
      PointPassed PointNo.x1 s (passage PointNo.x1 s) := by
  have hbite : biteOf PointNo.x1 = none := by decide
  have hq : PointNo.x1.val + 1 = (3 : PointNo).val := rfl
  have hact : ∀ n, passageActions PointNo.x1 n s = passX1 n s := fun n => by
    simp only [passageActions, hbite]
    rfl
  obtain ⟨hspec, hpts⟩ := passX1_spec s.points[PointNo.x1].cursor s
  have hpts' : (passageActions PointNo.x1 s.points[PointNo.x1].cursor s).points = s.points := by rw [hact, hpts]
  refine ⟨?_, passage_points hq hpts'⟩
  rw [passage_eq hq hpts', hact]
  generalize s.points[PointNo.x1].cursor = n at hspec
  generalize passX1 n s = u at hspec
  let w := u.setPoint PointNo.x1 (s.points[PointNo.x1].passed s.full)
  show X1Passed n _ s (arrive PointNo.x1 (n + 1) (unclamp 3 n w))
  have harr : arrive PointNo.x1 (n + 1) (unclamp 3 n w) = unclamp 3 n w := by
    simp only [arrive, hbite]
    exact scheduleArrival_gauge hbite (by decide)
  have hframe := unclamp_frame 3 n w
  have hstands : (unclamp 3 n w).stands = u.stands := (congrArg State.stands hframe :)
  rw [harr]
  refine ⟨?_, (congrArg State.ring hframe :).trans hspec.ring, fun g x v r hg hx hr hgauge hv hramp => ?_, fun hno => ?_⟩
  · exact (congrArg (fun x : State => { x with ring := s.ring, points := s.points, stands := s.stands, faults := s.faults })
      hframe :).trans hspec.frame
  · exact hstands.trans (hspec.trimmed g x v r hg hx hr hgauge hv hramp)
  · exact hstands.trans (hspec.kept hno)

/-! ### The turn of a point that passes once -/

/-- A point that has moved by its advance, its passages not yet judged. -/
def State.carried (s : State) (k : Stand) (p : PointNo) : State :=
  s.setPoint p { s.points[p] with travelled := s.points[p].travelled + s.advanceOf k p }

theorem carried_point (s : State) (k : Stand) (p : PointNo) :
    (s.carried k p).points[p] = { s.points[p] with travelled := s.points[p].travelled + s.advanceOf k p } := setPoint_same s p _

theorem carried_other {s : State} {k : Stand} {p q : PointNo} (h : q ≠ p) : (s.carried k p).points[q] = s.points[q] :=
  setPoint_other s _ h

theorem advanceTurn_passes {s : State} {k : Stand} {p u : PointNo} (hk : driverOf p = k) (hf : s.frozen = false)
    (hst : s.points[p].started = true) (hu : u.val + 1 = p.val)
    (hfree : s.points[u].started = true → s.points[u].cursor ≠ s.points[p].cursor) (hshort : s.points[p].travelled < s.full)
    (hover : s.full ≤ s.points[p].travelled + s.advanceOf k p)
    (hnext : (passage p (s.carried k p)).points[p].travelled < (passage p (s.carried k p)).full) : advanceTurn s.time s p =
      (fun r : State => r.setPoint p { r.points[p] with advanced := some s.time }) (passage p (s.carried k p)) := by
  subst hk
  have hne : u ≠ p := fun h => by rw [h] at hu; omega
  have hblocked : blocked p (s.carried (driverOf p) p) = false := by
    rw [blocked_iff hu, carried_other hne, carried_point, Bool.eq_false_iff]
    intro h
    obtain ⟨h1, h2⟩ := (Bool.and_eq_true _ _).mp h
    exact hfree h1 (beq_iff_eq.1 h2)
  unfold advanceTurn
  rw [if_pos ⟨hst, by simp [hf]⟩, speedAdvance_eq hshort]
  refine congrArg (fun r : State => r.setPoint p { r.points[p] with advanced := some s.time }) ?_
  refine passages_once (s := s.carried (driverOf p) p) ?_ hf hblocked hnext
  rw [carried_point]
  exact hover

/-! ### The points still to come -/

/-- What a point's own turn leaves to the turns after it. -/
structure LeavesOn (post : List PointNo) (s t : State) : Prop where
  time : t.time = s.time
  line : t.line = s.line
  speeds : t.speeds = s.speeds
  trip : t.trip = s.trip
  points : ∀ q ∈ post, t.points[q].started = s.points[q].started ∧ t.points[q].cursor = s.points[q].cursor ∧
    t.points[q].travelled = s.points[q].travelled ∧ t.points[q].advanced = s.points[q].advanced
  schedules : ∀ q ∈ post, t.scheduleOf s.points[q].cursor = s.scheduleOf s.points[q].cursor

/-- R52: the later points, all short of the end of their segments, advance. -/
theorem LeavesOn.turns {post : List PointNo} {s t : State} {k : Stand} (h : LeavesOn post s t) (hnodup : post.Nodup)
    (hk : ∀ q ∈ post, driverOf q = k) (hf : s.frozen = false)
    (hshort : ∀ q ∈ post, s.points[q].started = true → s.points[q].travelled + s.advanceOf k q < s.full) :
    post.foldl (advanceTurn s.time) t = { t with points := Vector.ofFn (t.drivenPoint k post) } := by
  have hfull : t.full = s.full := congrArg (fun l : LineParams => l.segLen * 1024) h.line
  have hadv : ∀ q ∈ post, t.advanceOf k q = s.advanceOf k q := fun q hq => by
    obtain ⟨-, hcur, -, had⟩ := h.points q hq
    unfold State.advanceOf
    rw [hcur, had, h.speeds, h.time, h.schedules q hq]
  rw [← h.time]
  refine advanceTurns_short post t hnodup hk (by rw [← hf]; unfold State.frozen; rw [h.trip]) fun q hq hst => ?_
  obtain ⟨hs, -, htr, -⟩ := h.points q hq
  rw [htr, hadv q hq, hfull]
  exact hshort q hq (hs.symm.trans hst)

theorem drivenPoints_at (s : State) (k : Stand) (ps : List PointNo) (q : PointNo) :
    (Vector.ofFn (s.drivenPoint k ps) : Vector Point 9)[q] = s.drivenPoint k ps q := Vector.getElem_ofFn _

end Sys2Proof.Machine

/-! SUPPORT. A ROLL_SPEED sample that carries a bite point or X1 over the end of its segment, once (R55 to R61). -/

namespace Sys2Proof.Machine

/-- What a passage leaves alone that the advances after it read. -/
structure Unshaken (s t : State) : Prop where
  time : t.time = s.time
  line : t.line = s.line
  speeds : t.speeds = s.speeds
  trip : t.trip = s.trip
  schedules : ∀ n, t.scheduleOf n = s.scheduleOf n

theorem BitePassed.unshaken {k : Stand} {n : SegNo} {s t : State} (h : BitePassed k n s t) : Unshaken s t := by
  refine ⟨(congrArg State.time h.frame :), (congrArg State.line h.frame :), (congrArg State.speeds h.frame :),
    (congrArg State.trip h.frame :), fun m => ?_⟩
  rw [← scheduleOf_setSegment (f := fun x => x.estimated (estimateOf k s.stands[k])) (fun _ => rfl) (fun _ => rfl) s n m]
  exact scheduleOf_congr (s := s.setSegment n _) h.ring (congrArg State.table h.frame :) m

theorem X1Passed.unshaken {n : SegNo} {m : Option (Int × Nat)} {s t : State} (h : X1Passed n m s t) : Unshaken s t := by
  refine ⟨(congrArg State.time h.frame :), (congrArg State.line h.frame :), (congrArg State.speeds h.frame :),
    (congrArg State.trip h.frame :), fun j => ?_⟩
  rw [← scheduleOf_setSegment (f := fun x => { x with x1 := m }) (fun _ => rfl) (fun _ => rfl) s n j]
  exact scheduleOf_congr (s := s.setSegment n _) h.ring (congrArg State.table h.frame :) j

/-- A point that passes at a speed sample, and all the others, `w` being the points once it is over. -/
structure PointsAfter (s : State) (k : Stand) (p : PointNo) (w : Vector Point 9) : Prop where
  point : w[p] = { s.points[p] with
    cursor := s.points[p].cursor + 1, travelled := s.points[p].travelled + s.advanceOf k p - s.line.segLen * 1024
    advanced := some s.time, sum := 0, count := 0 }
  others : ∀ q : PointNo, q ≠ p → w[q].cursor = s.points[q].cursor ∧ w[q].started = s.points[q].started
  freed : ∀ q : PointNo, q.val = p.val + 1 → s.points[q].started = true → s.points[q].clamped = true →
    s.points[q].cursor = s.points[p].cursor → w[q].clamped = false

/-- What a speed sample does that carries point p over the end of its segment: from a state b that differs from s in its points
alone, the passage r, then the advances of the later points. -/
structure SampleCarries (s : State) (l : LinkNo) (f : SensorFields) (o : ReaderOrder) (e : EntryNo) (k : Stand) (v : Int)
    (p : PointNo)
    (b r : State) (w : Vector Point 9) : Prop where
  frame : { b with points := s.points } = s.sampled l f e v
  own : b.points[p] = { s.points[p] with travelled := s.points[p].travelled + s.advanceOf k p }
  passed : r = passage p b
  exec : exec (.sensorFrame l (sensorFrameBytes f) o) s = .next (speedTaken k v { r with points := w })
  points : PointsAfter s k p w
  gone : ∀ q : PointNo, q.val = p.val + 1 → s.points[q].started = true → s.points[q].clamped = true →
    s.points[q].cursor = s.points[p].cursor → q.val ∉ r.faults[Kind.trackOverrun].active

/-- The points before the turns of the later points, given their passage. -/
theorem ComesTo.leavesOn {s : State} {l : LinkNo} {f : SensorFields} {e : EntryNo} {k : Stand} {v : Int} {p : PointNo}
    {post : List PointNo} {b r : State} (hc : ComesTo s l f e k v p post b) (hp : PointPassed p (b.carried k p) r)
    (hr : Unshaken (b.carried k p) r) (x : Point) : LeavesOn post b (r.setPoint p x) := by
  refine ⟨hr.time, hr.line, hr.speeds, hr.trip, fun q hq => ?_, fun q _ => hr.schedules _⟩
  have hne : q ≠ p := (hc.later q hq).2.2.1
  rw [setPoint_other r x hne, hp.others q hne, carried_other hne]
  split <;> exact ⟨rfl, rfl, rfl, rfl⟩

/-- R52, R55, R61: a speed sample at which one point passes once, its passage shaking nothing. -/
theorem speedSample_passes {s : State} {l : LinkNo} {f : SensorFields} (o : ReaderOrder) {e : EntryNo} {k : Stand} {v : Int}
    {p u : PointNo} {n : SegNo} (ht : s.trip = .normal) (hb : Brings s l f e (.rollSpeed k) v) (h : PassesOnce s k p u n)
    (hpass : ∀ b : State, b.mode = s.mode → PointPassed p b (passage p b) ∧ Unshaken b (passage p b)) :
    ∃ b r w, SampleCarries s l f o e k v p b r w := by
  obtain ⟨post, b, hc, hexec⟩ := speedSample_comesTo o ht hb h.driven h.others
  have hbt : b.trip = s.trip := (congrArg State.trip hc.frame :)
  have htime : b.time = s.time := (congrArg State.time hc.frame :)
  have hfull : b.full = s.line.segLen * 1024 := congrArg (fun x : LineParams => x.segLen * 1024) (congrArg State.line hc.frame :)
  have hadv : b.advanceOf k p = s.advanceOf k p := hc.advance p hc.own
  have hcar : (b.carried k p).points[p] = { s.points[p] with travelled := s.points[p].travelled + s.advanceOf k p } := by
    rw [carried_point, hc.own, hadv]
  have hf : b.frozen = false := frozen_false (hbt.trans ht)
  obtain ⟨hpp, hun⟩ := hpass (b.carried k p) (congrArg State.mode hc.frame :)
  generalize hr : passage p (b.carried k p) = r at hpp hun
  have hrp : r.points[p] = ({ s.points[p] with travelled := s.points[p].travelled + s.advanceOf k p } : Point).passed
      (s.line.segLen * 1024) := by
    rw [hpp.point, hcar]
    exact congrArg _ hfull
  have hrfull : r.full = s.line.segLen * 1024 := (congrArg (fun x : LineParams => x.segLen * 1024) hun.line).trans hfull
  have hturn := advanceTurn_passes (s := b) (driverOf_drives ((drives_eq s k p).trans h.driven)) hf
      (by rw [hc.own]; exact h.started)
    h.upstream (fun hst => by
      rw [(hc.kept u).1] at hst
      rw [(hc.kept u).2.1, hc.own, h.cursor]
      exact h.free hst)
    (by rw [hc.own, hfull]; exact h.short) (by rw [hc.own, hadv, hfull]; exact h.full) (by
      rw [hr, hrp, hrfull]
      show s.points[p].travelled + s.advanceOf k p - s.line.segLen * 1024 < s.line.segLen * 1024
      have := h.once
      omega)
  rw [hr] at hturn
  have hleaves := hc.leavesOn hpp hun { r.points[p] with advanced := some b.time }
  have hturns := hleaves.turns hc.nodup (fun q hq => (hc.later q hq).2.2.2) hf fun q hq hst => by
    obtain ⟨hq', hdr, hne, -⟩ := hc.later q hq
    rw [hc.advance q hq', hq', hfull]
    rw [hq'] at hst
    exact h.others q hne hdr hst
  have hppost : p ∉ post := fun hp => (hc.later p hp).2.2.1 rfl
  rw [← htime, hturn, hturns] at hexec
  have hat : ∀ q : PointNo, q ≠ p → (r.setPoint p { r.points[p] with advanced := some b.time }).points[q] = r.points[q] :=
      fun q hq =>
    setPoint_other r _ hq
  have hrq : ∀ q : PointNo, q ≠ p →
      r.points[q] = if q.val = p.val + 1 then b.points[q].freed s.points[p].cursor else b.points[q] := fun q hq => by
    rw [hpp.others q hq, carried_other hq, hcar]
  refine ⟨b.carried k p, r, _, ⟨hc.frame, hcar, hr.symm, hexec, ⟨?_, fun q hq => ?_, fun q hq hst hcl hcur => ?_⟩,
    fun q hq hst hcl hcur => ?_⟩⟩
  · rw [drivenPoints_at, drivenPoint_out hppost, setPoint_same, hrp, htime]
    rfl
  · obtain ⟨hk1, hk2, -⟩ := drivenPoint_kept (r.setPoint p { r.points[p] with advanced := some b.time }) k post q
    obtain ⟨hb1, hb2, -⟩ := hc.kept q
    rw [drivenPoints_at, hk1, hk2, hat q hq, hrq q hq, ← hb1, ← hb2]
    split <;> exact ⟨rfl, rfl⟩
  · have hne : q ≠ p := fun h => by rw [h] at hq; omega
    obtain ⟨hb1, hb2, -⟩ := hc.kept q
    rw [drivenPoints_at, (drivenPoint_kept _ k post q).2.2, hat q hne, hrq q hne, if_pos hq]
    show (b.points[q].clamped && !(b.points[q].started && b.points[q].cursor == s.points[p].cursor)) = false
    rw [hb1, hst, hb2, hcur, beq_self_eq_true]
    exact Bool.and_false _
  · have hne : q ≠ p := fun h => by rw [h] at hq; omega
    obtain ⟨hb1, hb2, hb3⟩ := hc.kept q
    have hcq : (b.carried k p).points[q] = b.points[q] := carried_other hne
    exact hpp.freed q hq (by rw [hcq, hb1]; exact hst) (by rw [hcq, hb3]; exact hcl) (by rw [hcq, hb2, hcar]; exact hcur)

theorem SampleCarries.kept {s : State} {l : LinkNo} {f : SensorFields} {o : ReaderOrder} {e : EntryNo} {k : Stand} {v : Int}
    {p : PointNo} {b r : State} {w : Vector Point 9} (h : SampleCarries s l f o e k v p b r w) :
    { b with points := s.points, links := s.links, channels := s.channels } = s.stepStart :=
  (congrArg (fun x : State => { x with links := s.links, channels := s.channels }) h.frame :)

theorem bitePoint_ne_x1 : ∀ k : Stand, bitePoint k ≠ PointNo.x1 := by decide

/-- R56, R58, R88: the clauses of a passage at a bite point. -/
theorem bitePassage {s : State} {l : LinkNo} {f : SensorFields} {o : ReaderOrder} {e : EntryNo} {k : Stand} {v : Int} {b r : State}
    {w : Vector Point 9} {n : SegNo} (hm : s.mode = .thread ∨ s.mode = .run) (hb : Brings s l f e (.rollSpeed k) v)
    (h : SampleCarries s l f o e k v (bitePoint k) b r w) (hn : s.points[bitePoint k].cursor = n) :
    r.ring = s.ring.map (fun x => if x.number = n then x.estimated (estimateOf k s.stands[k]) else x) ∧
    r.stands = s.stands.set k { s.stands[k] with mode := returnedMode s k, bite := some (n + 1), sum := 0, count := 0 } ∧
    (∀ (g : Segment) (x : Transition), s.segment (n + 1) = some g → g.weld = true →
      s.transitions.find? (·.weld == n + 1) = some x → x.switched[k] = false →
      r.transitions = s.transitions.map (fun y => if y.weld = n + 1 then { y with switched := y.switched.set k true } else y) ∧
      r.logs[LogNo.schedule] = s.logs[LogNo.schedule].append 32 s.logTime (.standSwitched x.toTag k (n + 1) x.coil)) ∧
    ((∀ x ∈ s.transitions, x.weld ≠ n + 1) → r.transitions = s.transitions) := by
  have hmode : b.mode = s.mode := (congrArg State.mode h.frame :)
  have hstands : b.stands = s.stands := (congrArg State.stands h.frame :)
  have hring : b.ring = s.ring := (congrArg State.ring h.frame :)
  have htrans : b.transitions = s.transitions := (congrArg State.transitions h.frame :)
  have hlogs : b.logs = s.logs := (congrArg State.logs h.frame :)
  have htime : b.logTime = s.logTime := (congrArg State.logTime h.frame :)
  have hacts : b.actuators = s.actuators := (congrArg State.actuators h.frame :)
  have hchans : b.channels = (s.sampled l f e v).channels := (congrArg State.channels h.frame :)
  have husable : ∀ i, b.usable i = s.usable i := fun i =>
    (usable_congr (s := s.sampled l f e v) (fun y => by rw [hchans]) fun y _ => by rw [hchans]).trans (hb.usable_at i)
  have hret : returnedMode b k = returnedMode s k :=
    returnedMode_congr hmode (by rw [hstands]) (by rw [hstands]) husable (by rw [hacts])
  have hcur : b.points[bitePoint k].cursor = n := (congrArg Point.cursor h.own).trans hn
  have hp := (passage_bite (k := k) (s := b) (by rw [hmode]; exact hm)).1
  rw [← h.passed, hcur] at hp
  refine ⟨?_, ?_, fun g x hg hw hx hsw => ?_, fun hno => ?_⟩
  · rw [hp.ring, hring, hstands]
  · rw [hp.stands, hstands, hret]
  · rw [← htrans, ← hlogs, ← htime]
    exact hp.switched g x (by unfold State.segment; rw [hring]; exact hg) hw (by rw [htrans]; exact hx) hsw
  · rw [← htrans] at hno ⊢
    exact hp.unswitched hno

/-- R59, R114: the clauses of a passage at X1. -/
theorem x1Passage {s : State} {l : LinkNo} {f : SensorFields} {o : ReaderOrder} {e : EntryNo} {k : Stand} {v : Int} {b r : State}
    {w : Vector Point 9} {n : SegNo} (h : SampleCarries s l f o e k v PointNo.x1 b r w) (hn : s.points[PointNo.x1].cursor = n) :
    r.ring = s.ring.map (fun x => if x.number = n then { x with x1 := meanOf s.points[PointNo.x1] } else x) ∧
    r.transitions = s.transitions ∧
    (∀ (g : Segment) (x : InForce) (m : Int × Nat) (d : StandParams), s.segment n = some g → s.inForce g.tag = some x →
      s.stands[(0 : Stand)].params = some d → s.stands[(0 : Stand)].mode = .gauge → meanOf s.points[PointNo.x1] = some m →
      g.ramp = none → r.stands = s.stands.set (0 : Stand) { s.stands[(0 : Stand)] with
        trim := trimNext d s.stands[(0 : Stand)].trim x.sched.stands[(0 : Stand)].q (m.1 - x.effH n 0) }) ∧
    (s.stands[(0 : Stand)].mode ≠ .gauge ∨ meanOf s.points[PointNo.x1] = none ∨ (∀ g, s.segment n = some g → g.ramp ≠ none) →
      r.stands = s.stands) := by
  have hstands : b.stands = s.stands := (congrArg State.stands h.frame :)
  have hring : b.ring = s.ring := (congrArg State.ring h.frame :)
  have htable : b.table = s.table := (congrArg State.table h.frame :)
  have htrans : b.transitions = s.transitions := (congrArg State.transitions h.frame :)
  have hcur : b.points[PointNo.x1].cursor = n := (congrArg Point.cursor h.own).trans hn
  have hmean : meanOf b.points[PointNo.x1] = meanOf s.points[PointNo.x1] := (congrArg meanOf h.own).trans rfl
  have hseg : ∀ m, b.segment m = s.segment m := fun m => by
    unfold State.segment
    rw [hring]
  have hp := (passage_x1 b).1
  rw [← h.passed, hcur, hmean] at hp
  refine ⟨hp.ring.trans (by rw [hring]), (congrArg State.transitions hp.frame :).trans htrans,
    fun g x m d hg hx hd hmode hm hramp => ?_, fun hno => ?_⟩
  · rw [← hstands] at hd hmode ⊢
    rw [← hseg] at hg
    exact hp.trimmed g x m d hg (by unfold State.inForce at hx ⊢; rw [htable]; exact hx) hd hmode hm hramp
  · rw [← hstands] at hno ⊢
    exact hp.kept (hno.imp_right (Or.imp_right fun hr g hg => hr g ((hseg n).symm.trans hg)))

/-- Settles O44: a passage at a bite point and at X1. -/
theorem passagesAtBitesAndX1 : Obligations.PassagesAtBitesAndX1 := by
  intro l f o e k v s p u n hb hm ht h hp
  have hpass : ∀ b : State, b.mode = s.mode → PointPassed p b (passage p b) ∧ Unshaken b (passage p b) := by
    rintro b hbm
    rcases hp with rfl | rfl
    · obtain ⟨hbite, hpoint⟩ := passage_bite (k := k) (s := b) (by rw [hbm]; exact hm)
      exact ⟨hpoint, hbite.unshaken⟩
    · obtain ⟨hx1, hpoint⟩ := passage_x1 b
      exact ⟨hpoint, hx1.unshaken⟩
  obtain ⟨b, r, w, hc⟩ := speedSample_passes o ht hb h hpass
  have hspeeds : r.speeds = s.speeds := by
    rw [hc.passed, (hpass b (congrArg State.mode hc.frame :)).2.speeds]
    exact (congrArg State.speeds hc.frame :)
  refine ⟨_, hc.exec, congrArg (fun x : Vector (Option Int) 6 => x.set k (some v)) hspeeds, ?_, hc.points.others,
    fun q hq hst hcl hcur => ⟨hc.points.freed q hq hst hcl (hcur.trans h.cursor.symm),
      hc.gone q hq hst hcl (hcur.trans h.cursor.symm)⟩, ?_, ?_⟩
  · rw [← h.cursor]
    exact hc.points.point
  · rintro rfl
    have hall := bitePassage hm hb hc h.cursor
    exact hall
  · rintro rfl
    obtain rfl : k = 0 := (driverOf_drives ((drives_eq s k _).trans h.driven)).symm
    have hall := x1Passage hc h.cursor
    exact hall

end Sys2Proof.Machine

/-! SUPPORT. What a release records (R160, R166, R167): the end of a run of its coil, its place in the coil's report, and the
completion of that report; and the completion of a transition (R89, R90). -/

namespace Sys2Proof.Machine

/-! ### Notices where the queue has room -/

/-- At most `c` notices have joined the tail, if there was room for that many. -/
def QueuesUpTo (c : Nat) (s t : State) : Prop := s.port.notices.length + c ≤ 32 →
  ∃ ns : List Notice, ns.length ≤ c ∧ t.port.notices = s.port.notices ++ ns

theorem QueuesUpTo.same {s t : State} (h : t.port = s.port) (c : Nat) : QueuesUpTo c s t := fun _ =>
  ⟨[], Nat.zero_le c, by rw [h, List.append_nil]⟩

theorem QueuesUpTo.one {s t : State} {n : Notice} (h : t.port = s.port.queueNotice n) : QueuesUpTo 1 s t := fun hroom =>
  ⟨[n], Nat.le_refl 1, by rw [h]; exact queueNotice_room n (by omega)⟩

theorem QueuesUpTo.trans {a c : Nat} {s t u : State} (h : QueuesUpTo a s t) (h' : QueuesUpTo c t u) : QueuesUpTo (a + c) s u :=
  fun hroom => by
    obtain ⟨ns, hns, ht⟩ := h (by omega)
    obtain ⟨ms, hms, hu⟩ := h' (by rw [ht, List.length_append]; omega)
    refine ⟨ns ++ ms, by rw [List.length_append]; omega, ?_⟩
    rw [hu, ht, List.append_assoc]

theorem QueuesUpTo.keeps {c : Nat} {s t : State} (h : QueuesUpTo c s t) (hroom : s.port.notices.length + c ≤ 32) {n : Notice}
    (hn : n ∈ s.port.notices) : n ∈ t.port.notices := by
  obtain ⟨ns, -, ht⟩ := h hroom
  rw [ht]
  exact List.mem_append_left _ hn

theorem QueuesUpTo.length {c : Nat} {s t : State} (h : QueuesUpTo c s t) (hroom : s.port.notices.length + c ≤ 32) :
    t.port.notices.length ≤ s.port.notices.length + c := by
  obtain ⟨ns, hns, ht⟩ := h hroom
  rw [ht, List.length_append]
  omega

theorem mem_queueNotice {p : Port} {n : Notice} (h : p.notices.length < 32) : n ∈ (p.queueNotice n).notices := by
  rw [queueNotice_room n h]
  simp

theorem recordTake_queues (k : Kind) (loc : Nat) (s : State) : QueuesUpTo 1 s (recordTake k loc s) := by
  by_cases h : s.policy[k].enabled = true
  · exact QueuesUpTo.one (if_pos h)
  · exact QueuesUpTo.same (if_neg h) 1

theorem raise_queues {k : Kind} (loc : Nat) {s : State} (hk : k ≠ Kind.openTimeout) (hs : startsTrip s k = false) :
    QueuesUpTo 1 s (raise k loc s) := by
  by_cases h : loc ∈ s.faults[k].active
  · rw [raise_active h]
    exact QueuesUpTo.same rfl 1
  · rw [raise_fresh h, take_quiet (s := s.markActive k loc) loc hk hs]
    exact recordTake_queues k loc (s.markActive k loc)

/-! ### The run of a coil (R160) -/

/-- What the end of a run of coil c writes. -/
structure RunEnds (c : CoilNo) (s t : State) : Prop where
  frame : { t with faults := s.faults, logs := s.logs, runState := s.runState } = s
  run : t.runState = s.runState.filter fun q => q.coil ≠ c
  defect : t.logs[LogNo.defect] = s.logs[LogNo.defect].afterRun (s.runState.filter fun q => q.coil = c) s.logTime
  logs : ∀ g : LogNo, g ≠ LogNo.defect → t.logs[g] = s.logs[g]
  ends : Ends [Kind.offGaugeRun] s t

theorem endRunOf_ends (c : CoilNo) (s : State) : RunEnds c s (endRunOf c s) := by
  rcases endRunOf_cases c s with ⟨r, hr, hcoil, heq⟩ | ⟨hno, heq⟩
  · obtain ⟨hframe, hrun, hends, hdefect, hlogs⟩ := endRun_spec s
    rw [heq]
    refine ⟨hframe, ?_, ?_, hlogs, hends⟩
    · rw [hrun, hr, Option.filter_some, decide_eq_false (by simpa using hcoil)]
      rfl
    · rw [hdefect, hr, Option.filter_some, decide_eq_true hcoil, if_pos rfl]
  · rw [heq]
    have hnone : (s.runState.filter fun q => q.coil = c) = none :=
      Option.filter_eq_none_iff.2 fun q hq => by simpa using hno q hq
    have hall : (s.runState.filter fun q => q.coil ≠ c) = s.runState := by
      cases hr : s.runState with
      | none => rfl
      | some q => rw [Option.filter_some, decide_eq_true (hno q hr), if_pos rfl]
    exact ⟨rfl, hall.symm, by rw [hnone]; rfl, fun _ _ => rfl, Ends.refl _ s⟩

/-! ### The report of a coil (R166, R167) -/

/-- What becomes of the report `acc` of coil c among the others, once judged for completion. -/
structure Accounted (c : CoilNo) (acc : CoilReport) (pre post : List CoilReport) (s t : State) : Prop where
  frame : s.unclose t = s
  ends : Ends [Kind.offGaugeRun] s t
  logs : ∀ g : LogNo, g ≠ LogNo.coil → g ≠ LogNo.defect → t.logs[g] = s.logs[g]
  queues : QueuesUpTo 1 s t
  pending : acc.accounted ≠ acc.created ∨ s.coilCounter = c → t.reports = pre ++ acc :: post ∧ t.runState = s.runState ∧
    t.logs = s.logs ∧ t.faults = s.faults
  complete : acc.accounted = acc.created → s.coilCounter ≠ c → t.reports = pre ++ post ∧
    t.logs[LogNo.coil] = s.logs[LogNo.coil].append 16 s.logTime (.coil (acc.closed s.line.segLen .complete)) ∧
    (s.port.notices.length < 32 → Notice.coilReport (acc.closed s.line.segLen .complete) ∈ t.port.notices) ∧
    t.runState = s.runState.filter (fun q => q.coil ≠ c) ∧
    t.logs[LogNo.defect] = s.logs[LogNo.defect].afterRun (s.runState.filter fun q => q.coil = c) s.logTime

theorem modifyReport_at {c : CoilNo} {f : CoilReport → CoilReport} {s : State} {pre post : List CoilReport} {r : CoilReport}
    (hr : s.reports = pre ++ r :: post) (hcoil : r.coil = c) (hno : ∀ y ∈ pre ++ post, y.coil ≠ c) :
    (modifyReport c f s).reports = pre ++ f r :: post := by
  have hkeep : ∀ l : List CoilReport, (∀ y ∈ l, y.coil ≠ c) → l.map (fun y => if y.coil = c then f y else y) = l := fun l hl => by
    conv_rhs => rw [← List.map_id l]
    exact List.map_congr_left fun y hy => if_neg (hl y hy)
  show s.reports.map (fun y => if y.coil = c then f y else y) = _
  rw [hr, List.map_append, List.map_cons, if_pos hcoil, hkeep pre fun y hy => hno y (List.mem_append_left _ hy),
    hkeep post fun y hy => hno y (List.mem_append_right _ hy)]

theorem report_at {c : CoilNo} {s : State} {pre post : List CoilReport} {r : CoilReport} (hr : s.reports = pre ++ r :: post)
    (hcoil : r.coil = c) (hno : ∀ y ∈ pre ++ post, y.coil ≠ c) : s.report c = some r := by
  unfold State.report
  rw [hr, List.find?_append, List.find?_eq_none.2 fun y hy => by simpa using hno y (List.mem_append_left _ hy)]
  simp [hcoil]

theorem reports_without {c : CoilNo} {pre post : List CoilReport} {r : CoilReport} (hcoil : r.coil = c)
    (hno : ∀ y ∈ pre ++ post, y.coil ≠ c) : (pre ++ r :: post).filter (·.coil ≠ c) = pre ++ post := by
  rw [List.filter_append, List.filter_cons_of_neg (by simpa using hcoil), ← List.filter_append]
  exact List.filter_eq_self.2 fun y hy => by simpa using hno y hy

/-- R167: the report of a coil judged for completion. -/
theorem judgeCompletion_accounted {c : CoilNo} {acc : CoilReport} {pre post : List CoilReport} {s : State}
    (hr : s.reports = pre ++ acc :: post) (hcoil : acc.coil = c) (hno : ∀ y ∈ pre ++ post, y.coil ≠ c) :
    Accounted c acc pre post s (judgeCompletion c s) := by
  have hcompletes : completes s c = (acc.accounted == acc.created && s.coilCounter != c) := by
    simp only [completes, report_at hr hcoil hno]
  unfold judgeCompletion
  rw [hcompletes]
  by_cases h : acc.accounted = acc.created ∧ s.coilCounter ≠ c
  · obtain ⟨hacc, hcount⟩ := h
    rw [hacc, beq_self_eq_true, Bool.true_and, bne_iff_ne.2 hcount, if_pos rfl]
    have hrun := endRunOf_ends c s
    generalize endRunOf c s = u at hrun
    have hur : u.reports = pre ++ acc :: post := (congrArg State.reports hrun.frame :).trans hr
    have hline : u.line = s.line := (congrArg State.line hrun.frame :)
    have hport : u.port = s.port := (congrArg State.port hrun.frame :)
    have htime : u.logTime = s.logTime := (congrArg State.logTime hrun.frame :)
    rw [closeReport_some (report_at hur hcoil hno)]
    refine ⟨(congrArg s.unclose hrun.frame :), hrun.ends.trans (Ends.of_faults (by rfl) _), fun g hg hg' => ?_,
      QueuesUpTo.one (congrArg (fun p : Port => p.queueNotice _) hport), fun hx => ?_,
      fun _ _ => ⟨?_, ?_, fun hroom => ?_, hrun.run, ?_⟩⟩
    · exact (logs_set_other u _ hg).trans (hrun.logs g hg')
    · rcases hx with hx | hx
      · exact absurd hacc hx
      · exact absurd hx hcount
    · show u.reports.filter _ = _
      rw [hur]
      exact reports_without hcoil hno
    · rw [← hrun.logs LogNo.coil (by decide), ← htime, ← hline]
      exact logs_set_same u _ _
    · rw [← hline]
      exact mem_queueNotice (by rw [hport]; exact hroom)
    · exact (logs_set_other u _ (by decide)).trans hrun.defect
  · rw [if_neg fun hx => h ⟨beq_iff_eq.1 (Bool.and_eq_true _ _ ▸ hx).1, bne_iff_ne.1 (Bool.and_eq_true _ _ ▸ hx).2⟩]
    exact ⟨rfl, Ends.refl _ s, fun _ _ _ => rfl, QueuesUpTo.same rfl 1, fun _ => ⟨hr, rfl, rfl, rfl⟩,
      fun hacc hcount => absurd ⟨hacc, hcount⟩ h⟩

/-! ### A transition completed (R89, R90) -/

theorem completeTransition_some {n : SegNo} {c : CompletionCause} {s : State} {y : Transition}
    (h : s.transitions.find? (·.weld == n) = some y) : completeTransition n c s = { s with
      logs := s.logs.set LogNo.schedule (s.logs[LogNo.schedule].append 32 s.logTime (.completed y c))
      port := s.port.queueNotice (.transition .completed y (some c))
      transitions := s.transitions.filter (·.weld ≠ n) } := by
  simp only [completeTransition, h]
  rfl

theorem completeTransition_none {n : SegNo} {c : CompletionCause} {s : State} (h : s.transitions.find? (·.weld == n) = none) :
    completeTransition n c s = s := by
  simp only [completeTransition, h]

theorem completeTransition_frame (n : SegNo) (c : CompletionCause) (s : State) :
    { completeTransition n c s with transitions := s.transitions, logs := s.logs, port := s.port } = s ∧
    (∀ g : LogNo, g ≠ LogNo.schedule → (completeTransition n c s).logs[g] = s.logs[g]) ∧
    QueuesUpTo 1 s (completeTransition n c s) := by
  cases h : s.transitions.find? (·.weld == n) with
  | none =>
    rw [completeTransition_none h]
    exact ⟨rfl, fun _ _ => rfl, QueuesUpTo.same rfl 1⟩
  | some y =>
    rw [completeTransition_some h]
    exact ⟨rfl, fun g hg => logs_set_other s _ hg, QueuesUpTo.one rfl⟩

end Sys2Proof.Machine

/-! SUPPORT. The classification of a segment at the exit gauge (R157 to R160): its verdict, and what that does to the run. -/

namespace Sys2Proof.Machine

/-! ### Off-gauge runs (R159) -/

/-- R159: a run whose N-th segment has been judged. -/
def RunState.judged (r : RunState) (len : Nat) : RunState := { r with raised := r.raised || decide (1 ≤ len ∧ len ≤ r.count) }

/-- What a segment that begins or joins a run writes. -/
structure Joined (r : RunState) (s t : State) : Prop where
  recorded : Recorded { s with runState := some (r.judged s.line.runLength) } t
  logs : ∀ g : LogNo, g ≠ LogNo.fault → t.logs[g] = s.logs[g]
  others : ∀ d : Kind, d ≠ Kind.offGaugeRun → t.faults[d] = s.faults[d]
  queues : QueuesUpTo 1 s t
  raised : (r.judged s.line.runLength).raised = true → r.raised = false → r.coil.toNat ∈ t.faults[Kind.offGaugeRun].active

theorem joinRun_joined {coil : CoilNo} {n : SegNo} {dev : Int} {mark : MarkMode} {s : State}
    (hs : startsTrip s Kind.offGaugeRun = false) :
    Joined (runAfter s.runState coil n dev mark) s (joinRun coil n dev mark s) := by
  unfold joinRun
  dsimp only
  generalize runAfter s.runState coil n dev mark = r
  split
  next h =>
    obtain ⟨h1, h2, h3⟩ := h
    have hj : r.judged s.line.runLength = { r with raised := true } := by
      unfold RunState.judged
      rw [decide_eq_true ⟨h1, h2⟩, Bool.or_true]
    let u : State := { s with runState := some { r with raised := true } }
    have hr := raise_quiet (k := Kind.offGaugeRun) r.coil.toNat (s := u) (by decide) hs
    refine ⟨?_, hr.logs, fun d hd => hr.others d fun c hc => ?_, raise_queues (s := u) _ (by decide) hs, fun _ _ => hr.on⟩
    · rw [hj]
      exact hr.recorded
    · rw [List.mem_singleton.1 hc]
      exact Ne.symm hd
  next h =>
    have hj : r.judged s.line.runLength = r := by
      unfold RunState.judged
      cases hraised : r.raised with
      | true => rw [Bool.true_or, ← hraised]
      | false =>
        rw [decide_eq_false fun hx => h ⟨hx.1, hx.2, by rw [hraised]; decide⟩, Bool.or_false, ← hraised]
    refine ⟨?_, fun _ _ => rfl, fun _ _ => rfl, QueuesUpTo.same rfl 1, fun hx hn => ?_⟩
    · rw [hj]
      rfl
    · rw [hj, hn] at hx
      exact absurd hx (by decide)

/-! ### Verdicts (R157, R158) -/

/-- R159, R160: the run once a segment of verdict `v` has been handed over, none where it ends. -/
def runJudged (r : Option RunState) (g : Segment) (v : Option Verdict) (mark : MarkMode) (len : Nat) : Option RunState :=
  (v.filter (·.off)).map fun d => (runAfter r g.coil g.number d.deviation mark).judged len

/-- What the verdict on segment g writes. -/
structure Classified (g : Segment) (run : Option RunState) (s t : State) : Prop where
  frame : { t with
    ring := s.ring, faults := s.faults, logs := s.logs, port := s.port, firstOut := s.firstOut, runState := s.runState } = s
  ring : ∀ rest : List Segment, s.ring = g :: rest → (∀ y ∈ rest, y.number ≠ g.number) →
    ∃ m : Option MarkMode, t.ring = { g with offGauge := m } :: rest
  runs : t.runState = run
  defect : t.logs[LogNo.defect] = s.logs[LogNo.defect].afterRun (if run = none then s.runState else none) s.logTime
  logs : ∀ j : LogNo, j ≠ LogNo.fault → j ≠ LogNo.defect → t.logs[j] = s.logs[j]
  others : ∀ d : Kind, d ≠ Kind.offGaugeRun → t.faults[d] = s.faults[d]
  queues : QueuesUpTo 1 s t
  raised : ∀ q, run = some q → q.raised = true → (∀ q0, s.runState = some q0 → q0.raised = false) →
    q.coil.toNat ∈ t.faults[Kind.offGaugeRun].active

/-- R160: a segment that is not off-gauge ends the run. -/
theorem endRun_classified (g : Segment) (s : State) : Classified g none s (endRun s) := by
  obtain ⟨hframe, hrun, hends, hdefect, hlogs⟩ := endRun_spec s
  refine ⟨(congrArg (fun x : State => { x with ring := s.ring, port := s.port, firstOut := s.firstOut }) hframe :), fun rest hr _ =>
    ⟨g.offGauge, (congrArg State.ring hframe :).trans hr⟩, hrun, by rw [hdefect, if_pos rfl], fun j _ hj => hlogs j hj,
    fun d hd => hends.others d (by simpa using hd), QueuesUpTo.same (congrArg State.port hframe :) 1, fun q hq => absurd hq
        (by simp)⟩

theorem setSegment_head {s : State} {g : Segment} {rest : List Segment} (hr : s.ring = g :: rest)
    (hno : ∀ y ∈ rest, y.number ≠ g.number) (f : Segment → Segment) : (s.setSegment g.number f).ring = f g :: rest := by
  show s.ring.map _ = _
  rw [hr, List.map_cons, if_pos rfl]
  refine congrArg _ ?_
  conv_rhs => rw [← List.map_id rest]
  exact List.map_congr_left fun y hy => if_neg (hno y hy)

theorem runAfter_raised {r : Option RunState} {coil : CoilNo} {n : SegNo} {dev : Int} {mark : MarkMode}
    (h : ∀ q, r = some q → q.raised = false) : (runAfter r coil n dev mark).raised = false := by
  cases r with
  | none => rfl
  | some q => exact h q rfl

/-- R158, R159: an off-gauge segment is marked and begins or joins the run. -/
theorem joinRun_classified {g : Segment} {d : Verdict} {mark : MarkMode} {s : State} (hs : startsTrip s Kind.offGaugeRun = false) :
    Classified g (some ((runAfter s.runState g.coil g.number d.deviation mark).judged s.line.runLength)) s
      (joinRun g.coil g.number d.deviation mark (s.setSegment g.number fun y => { y with offGauge := some mark })) := by
  let u := s.setSegment g.number fun y => { y with offGauge := some mark }
  have hj : Joined (runAfter s.runState g.coil g.number d.deviation mark) u (joinRun g.coil g.number d.deviation mark u) :=
    joinRun_joined (s := u) hs
  show Classified g _ s (joinRun g.coil g.number d.deviation mark u)
  generalize joinRun g.coil g.number d.deviation mark u = t at hj
  refine ⟨(congrArg (fun x : State => { x with ring := s.ring, runState := s.runState }) hj.recorded :), fun rest hr hno =>
    ⟨some mark, (congrArg State.ring hj.recorded :).trans (setSegment_head hr hno _)⟩, (congrArg State.runState hj.recorded :),
    ?_, fun j hf _ => hj.logs j hf, hj.others, hj.queues, fun q hq hraised hnone => ?_⟩
  · rw [if_neg (by simp)]
    exact hj.logs _ (by decide)
  · obtain rfl := Option.some.inj hq
    exact hj.raised hraised (runAfter_raised hnone)

/-- R157 to R160: what a verdict does. -/
theorem applyVerdict_classified {g : Segment} {v : Option Verdict} {x : InForce} {s : State} (hx : s.inForce g.tag = some x)
    (hs : startsTrip s Kind.offGaugeRun = false) :
    Classified g (runJudged s.runState g v x.sched.mark s.line.runLength) s (applyVerdict g v s) := by
  cases v with
  | none => exact endRun_classified g s
  | some d =>
    cases hoff : d.off with
    | true =>
      have heq : applyVerdict g (some d) s =
          joinRun g.coil g.number d.deviation x.sched.mark
              (s.setSegment g.number fun y => { y with offGauge := some x.sched.mark }) := by
        simp only [applyVerdict, hx, hoff, if_true]
      rw [heq, runJudged, Option.filter_some, if_pos hoff]
      exact joinRun_classified hs
    | false =>
      have heq : applyVerdict g (some d) s = endRun s := by
        simp only [applyVerdict, hx, hoff]
        rfl
      rw [heq, runJudged, Option.filter_some, if_neg (by rw [hoff]; decide)]
      exact endRun_classified g s

/-- R157: the verdict on a segment measured at X6 under its own schedule. -/
theorem classify_eq {g : Segment} {x : InForce} {s : State} (hx : s.inForce g.tag = some x) :
    classify g s = g.x6.map fun m => verdict m.1 (x.effH g.number 5) x.sched.tol x.sched.bin := by
  unfold classify
  rw [hx]
  cases g.x6 <;> rfl

end Sys2Proof.Machine

/-! SUPPORT. The passage at X6 (R59, section 8.2): measurement, trim, classification, release, accounting, and the arrival of
X6 at the next segment (R89). -/

namespace Sys2Proof.Machine

/-! ### The release of a passed segment (R59, R80, R166) -/

/-- A state with what a passage at X6 writes put back to what it was. -/
def State.unexit (s t : State) : State :=
  { t with
    ring := s.ring, points := s.points, stands := s.stands, faults := s.faults, logs := s.logs, port := s.port
    firstOut := s.firstOut, runState := s.runState, reports := s.reports, table := s.table, transitions := s.transitions }

/-- The table with one reference of a tag dropped and the unreferenced entries removed. -/
def tableDropped (t : Nat) (tbl : List InForce) : List InForce :=
  (tbl.map fun y => if y.sched.tag = t then { y with refs := y.refs - 1 } else y).filter fun y => y.isEntry || decide (0 < y.refs)

theorem dropRef_eq (t : Nat) (s : State) : dropRef t s = { s with table := tableDropped t s.table } := rfl

theorem releaseSegment_passed (g : Segment) (v : Option Verdict) (s : State) : releaseSegment g .passed v s =
    dropRef g.tag (judgeCompletion g.coil (modifyReport g.coil (fun r => r.account g .passed v) { s with ring := s.ring.drop 1 })) :=
  rfl

/-- The segment and its place in the coil's report and the run, before a passage at X6. -/
structure ExitSegment (g : Segment) (rest : List Segment) (x : InForce) (pre post : List CoilReport) (r : CoilReport) (s : State) :
    Prop where
  ring : s.ring = g :: rest
  only : ∀ y ∈ rest, y.number ≠ g.number
  sched : s.inForce g.tag = some x
  reports : s.reports = pre ++ r :: post
  coil : r.coil = g.coil
  others : ∀ y ∈ pre ++ post, y.coil ≠ g.coil
  calm : startsTrip s Kind.offGaugeRun = false

/-- The verdict on a segment with a mean at X6. -/
def verdictOf (m : Option (Int × Nat)) (x : InForce) (n : SegNo) : Option Verdict :=
  m.map fun m => verdict m.1 (x.effH n 5) x.sched.tol x.sched.bin

/-- What a passage at X6 writes beside the points and the transitions: `acc` is the coil's report with the segment accounted,
`run` the run once it has been judged. -/
structure ExitPassed (g : Segment) (rest : List Segment) (x : InForce) (pre post : List CoilReport) (acc : CoilReport)
    (run : Option RunState) (m : Option (Int × Nat)) (s t : State) : Prop where
  frame : s.unexit t = s
  kept : t.points = s.points ∧ t.transitions = s.transitions
  ring : t.ring = rest
  trackFull : t.faults[Kind.trackFull].active = s.faults[Kind.trackFull].active.filter (· ≠ 0)
  table : t.table = tableDropped g.tag s.table
  others : ∀ j : Stand, j ≠ 5 → t.stands[j] = s.stands[j]
  trimmed : ∀ (v : Int × Nat) (p : StandParams), s.stands[(5 : Stand)].params = some p → s.stands[(5 : Stand)].mode = .gauge →
    m = some v → g.ramp = none → t.stands[(5 : Stand)] = { s.stands[(5 : Stand)] with
      trim := trimNext p s.stands[(5 : Stand)].trim x.sched.stands[(5 : Stand)].q (v.1 - x.effH g.number 5) }
  untrimmed : s.stands[(5 : Stand)].mode ≠ .gauge ∨ m = none ∨ g.ramp ≠ none → t.stands[(5 : Stand)] = s.stands[(5 : Stand)]
  raised : ∀ q, run = some q → q.raised = true → (∀ q0, s.runState = some q0 → q0.raised = false) →
    (acc.accounted ≠ acc.created ∨ s.coilCounter = g.coil) → q.coil.toNat ∈ t.faults[Kind.offGaugeRun].active
  schedule : t.logs[LogNo.schedule] = s.logs[LogNo.schedule]
  queues : QueuesUpTo 2 s t
  pending : acc.accounted ≠ acc.created ∨ s.coilCounter = g.coil →
    t.reports = pre ++ acc :: post ∧ t.runState = run ∧ t.logs[LogNo.coil] = s.logs[LogNo.coil] ∧
    t.logs[LogNo.defect] = s.logs[LogNo.defect].afterRun (if run = none then s.runState else none) s.logTime
  complete : acc.accounted = acc.created → s.coilCounter ≠ g.coil → t.reports = pre ++ post ∧
    t.logs[LogNo.coil] = s.logs[LogNo.coil].append 16 s.logTime (.coil (acc.closed s.line.segLen .complete)) ∧
    (s.port.notices.length ≤ 28 → Notice.coilReport (acc.closed s.line.segLen .complete) ∈ t.port.notices) ∧
    t.runState = run.filter (fun q => q.coil ≠ g.coil) ∧
    t.logs[LogNo.defect] = s.logs[LogNo.defect].afterRun
      (if run = none then s.runState else run.filter (fun q => q.coil = g.coil)) s.logTime

/-- R114: the trim of stand 6 and no other stand. -/
theorem monitorTrim_stands {k : Stand} {g : Segment} {m : Option (Int × Nat)} {s : State} {x : InForce}
    (hx : s.inForce g.tag = some x) : (∀ j : Stand, j ≠ k → (monitorTrim k g m s).stands[j] = s.stands[j]) ∧
    (∀ (v : Int × Nat) (p : StandParams), s.stands[k].params = some p → s.stands[k].mode = .gauge → m = some v → g.ramp = none →
      (monitorTrim k g m s).stands[k] = { s.stands[k] with
        trim := trimNext p s.stands[k].trim x.sched.stands[k].q (v.1 - x.effH g.number k) }) ∧
    (s.stands[k].mode ≠ .gauge ∨ m = none ∨ g.ramp ≠ none → (monitorTrim k g m s).stands[k] = s.stands[k]) := by
  refine ⟨fun j hj => ?_, fun v p hp hm hv hramp => ?_, fun h => by rw [monitorTrim_rests h]⟩
  · unfold monitorTrim
    dsimp only
    split
    next => exact (stands_set_at s k j _).trans (if_neg hj)
    next => rfl
  · rw [hv, monitorTrim_trims hm hramp hp hx]
    exact setStand_same s k _

/-- R59, section 8.2: the passage actions at X6, one after the other. -/
theorem passX6_eq {g : Segment} {rest : List Segment} {x : InForce} {s : State} (hr : s.ring = g :: rest)
    (hno : ∀ y ∈ rest, y.number ≠ g.number) (hx : s.inForce g.tag = some x) (hs : startsTrip s Kind.offGaugeRun = false)
    {m : Option (Int × Nat)} (hm : m = meanOf s.points[PointNo.x6]) :
    ∃ u w o, u = monitorTrim 5 { g with x6 := m } m (s.setSegment g.number fun y => { y with x6 := m }) ∧
      Classified { g with x6 := m } (runJudged s.runState g (verdictOf m x g.number) x.sched.mark s.line.runLength) u w ∧
      w.ring = { g with x6 := m, offGauge := o } :: rest ∧
      passX6 g.number s = (releaseSegment { g with x6 := m, offGauge := o } .passed (verdictOf m x g.number) w).inactive
        Kind.trackFull 0 := by
  subst hm
  let m := meanOf s.points[PointNo.x6]
  let g1 : Segment := { g with x6 := m }
  let s1 := s.setSegment g.number fun y => { y with x6 := m }
  have hr1 : s1.ring = g1 :: rest := setSegment_head hr hno _
  have hseg1 : s1.segment g.number = some g1 := by
    unfold State.segment
    rw [hr1]
    simp [g1]
  have hframe := monitorTrim_frame 5 g1 m s1
  generalize hu : monitorTrim 5 g1 m s1 = u at hframe
  have hur : u.ring = g1 :: rest := (congrArg State.ring hframe :).trans hr1
  have hux : u.inForce g1.tag = some x := by
    have htable : u.table = s.table := (congrArg State.table hframe :)
    unfold State.inForce at hx ⊢
    rw [htable]
    exact hx
  have hcalm : startsTrip u Kind.offGaugeRun = false := (startsTrip_congr (s := s) (congrArg State.policy hframe :)
    (congrArg State.trip hframe :) (congrArg State.mode hframe :) _).trans hs
  have hclass : classify g1 u = verdictOf m x g.number := classify_eq hux
  have hw := applyVerdict_classified (v := verdictOf m x g.number) hux hcalm
  have hrun : u.runState = s.runState := (congrArg State.runState hframe :)
  have hline : u.line = s.line := (congrArg State.line hframe :)
  rw [hrun, hline] at hw
  generalize hwdef : applyVerdict g1 (verdictOf m x g.number) u = w at hw
  obtain ⟨o, hwr⟩ := hw.ring rest hur hno
  have hseg3 : w.segment g.number = some { g1 with offGauge := o } := by
    unfold State.segment
    rw [hwr]
    simp [g1]
  refine ⟨u, w, o, rfl, hw, hwr, ?_⟩
  unfold passX6
  dsimp only
  rw [show closedMean s.points[PointNo.x6].sum s.points[PointNo.x6].count = m from rfl, hseg1]
  dsimp only
  rw [hu, hclass, hwdef, hseg3]

theorem account_coil (r : CoilReport) (g : Segment) (v : Option Verdict) : (r.account g .passed v).coil = r.coil := by
  cases v <;> rfl

/-- R59: a passage at X6 of the oldest segment. -/
theorem passX6_passed {g : Segment} {rest : List Segment} {x : InForce} {pre post : List CoilReport} {r : CoilReport} {s : State}
    (h : ExitSegment g rest x pre post r s) :
    ExitPassed g rest x pre post (r.account g .passed (verdictOf (meanOf s.points[PointNo.x6]) x g.number))
      (runJudged s.runState g (verdictOf (meanOf s.points[PointNo.x6]) x g.number) x.sched.mark s.line.runLength)
      (meanOf s.points[PointNo.x6]) s (passX6 g.number s) := by
  obtain ⟨u, w, o, hu, hw, hwr, heq⟩ := passX6_eq h.ring h.only h.sched h.calm (m := meanOf s.points[PointNo.x6]) rfl
  rw [heq, releaseSegment_passed, dropRef_eq]
  generalize meanOf s.points[PointNo.x6] = m at hu hw hwr
  generalize runJudged s.runState g (verdictOf m x g.number) x.sched.mark s.line.runLength = run at hw
  have hacc : ∀ y : CoilReport, y.account { g with x6 := m, offGauge := o } .passed (verdictOf m x g.number) =
      y.account g .passed (verdictOf m x g.number) := fun _ => rfl
  simp only [hacc]
  generalize verdictOf m x g.number = vd
  obtain ⟨hoth, htrim, hrest⟩ := monitorTrim_stands (k := 5) (g := { g with x6 := m }) (m := m)
    (s := s.setSegment g.number fun y => { y with x6 := m }) h.sched
  have hmf := monitorTrim_frame 5 { g with x6 := m } m (s.setSegment g.number fun y => { y with x6 := m })
  rw [← hu] at hoth htrim hrest hmf
  let v : State := modifyReport g.coil (fun r => r.account g .passed vd) { w with ring := w.ring.drop 1 }
  have hvr : v.reports = pre ++ r.account g .passed vd :: post := by
    refine modifyReport_at (s := { w with ring := w.ring.drop 1 }) ?_ h.coil h.others
    exact (congrArg State.reports hw.frame :).trans ((congrArg State.reports hmf :).trans h.reports)
  have hj := judgeCompletion_accounted (s := v) hvr ((account_coil _ _ _).trans h.coil) h.others
  show ExitPassed _ _ _ _ _ _ _ _ s (State.inactive { judgeCompletion g.coil v with
    table := tableDropped g.tag (judgeCompletion g.coil v).table } Kind.trackFull 0)
  generalize r.account g .passed vd = acc at hvr hj
  generalize judgeCompletion g.coil v = j at hj
  have hwdefect := hw.defect
  have hrun : u.runState = s.runState := (congrArg State.runState hmf :)
  have hulogs : u.logs = s.logs := (congrArg State.logs hmf :)
  have hutime : u.logTime = s.logTime := (congrArg State.logTime hmf :)
  have huport : u.port = s.port := (congrArg State.port hmf :)
  have hvcount : v.coilCounter = s.coilCounter := (congrArg State.coilCounter hw.frame :).trans (congrArg State.coilCounter hmf :)
  have hvtime : v.logTime = s.logTime := (congrArg State.logTime hw.frame :).trans hutime
  have hvline : v.line = s.line := (congrArg State.line hw.frame :).trans (congrArg State.line hmf :)
  have hjstands : j.stands = u.stands := (congrArg State.stands hj.frame :).trans (congrArg State.stands hw.frame :)
  have hvcoil : v.logs[LogNo.coil] = s.logs[LogNo.coil] := (hw.logs _ (by decide) (by decide)).trans (by rw [hulogs])
  have hvdefect : v.logs[LogNo.defect] = s.logs[LogNo.defect].afterRun (if run = none then s.runState else none) s.logTime := by
    rw [show v.logs = w.logs from rfl, hwdefect, hrun, hulogs, hutime]
  have hqueues : QueuesUpTo 1 s w := fun hroom => by
    have hq := hw.queues (by rw [huport]; exact hroom)
    rwa [huport] at hq
  refine ⟨?_, ⟨?_, ?_⟩, ?_, ?_, ?_, fun i hi => ?_, fun a p hp hm ha hramp => ?_, fun hx => ?_,
      fun q hq hraised hfresh hpend => ?_, ?_,
    ?_, fun hpend => ?_, fun hcomp hcount => ?_⟩
  · exact (congrArg s.unexit hj.frame :).trans ((congrArg s.unexit hw.frame :).trans (congrArg s.unexit hmf :))
  · exact (congrArg State.points hj.frame :).trans ((congrArg State.points hw.frame :).trans (congrArg State.points hmf :))
  · exact (congrArg State.transitions hj.frame :).trans
      ((congrArg State.transitions hw.frame :).trans (congrArg State.transitions hmf :))
  · refine (congrArg State.ring hj.frame :).trans ?_
    show w.ring.drop 1 = rest
    rw [hwr]
    rfl
  · rw [inactive_at, if_pos rfl]
    show j.faults[Kind.trackFull].active.filter _ = _
    rw [hj.ends.others _ (by decide), show v.faults = w.faults from rfl, hw.others _ (by decide),
      show u.faults = s.faults from (congrArg State.faults hmf :)]
  · show tableDropped g.tag j.table = _
    rw [show j.table = s.table from (congrArg State.table hj.frame :).trans
      ((congrArg State.table hw.frame :).trans (congrArg State.table hmf :))]
  · show j.stands[i] = _
    rw [hjstands]
    exact hoth i hi
  · show j.stands[(5 : Stand)] = _
    rw [hjstands]
    exact htrim a p hp hm ha hramp
  · show j.stands[(5 : Stand)] = _
    rw [hjstands]
    exact hrest hx
  · rw [inactive_at, if_neg (by decide)]
    show q.coil.toNat ∈ j.faults[Kind.offGaugeRun].active
    obtain ⟨-, -, -, hfaults⟩ := hj.pending (by rw [hvcount]; exact hpend)
    rw [hfaults]
    exact hw.raised q hq hraised (by rw [hrun]; exact hfresh)
  · exact (hj.logs _ (by decide) (by decide)).trans ((hw.logs _ (by decide) (by decide)).trans (by rw [hulogs]))
  · exact hqueues.trans hj.queues
  · obtain ⟨hreports, hrs, hlogs, -⟩ := hj.pending (by rw [hvcount]; exact hpend)
    refine ⟨hreports, hrs.trans hw.runs, ?_, ?_⟩
    · show j.logs[LogNo.coil] = _
      rw [hlogs]
      exact hvcoil
    · show j.logs[LogNo.defect] = _
      rw [hlogs]
      exact hvdefect
  · obtain ⟨hreports, hcoil, hnotice, hrs, hdefect⟩ := hj.complete hcomp (by rw [hvcount]; exact hcount)
    have hvrun : v.runState = run := hw.runs
    rw [hvtime, hvline, hvcoil] at hcoil
    rw [hvdefect, hvrun, hvtime] at hdefect
    rw [hvline] at hnotice
    refine ⟨hreports, hcoil, fun hroom => hnotice ?_, hrs.trans (by rw [hvrun]), hdefect.trans ?_⟩
    · have hlen := hqueues.length (by omega)
      show w.port.notices.length < 32
      omega
    · cases run <;> rfl

end Sys2Proof.Machine

/-! SUPPORT. The ROLL_SPEED[6] sample that carries X6 over the end of the oldest segment. -/

namespace Sys2Proof.Machine

/-! ### The arrival of X6 (R89) -/

/-- What the arrival of X6 at segment n writes. -/
structure ExitArrives (n : SegNo) (s t : State) : Prop where
  frame : { t with transitions := s.transitions, logs := s.logs, port := s.port } = s
  logs : ∀ g : LogNo, g ≠ LogNo.schedule → t.logs[g] = s.logs[g]
  queues : QueuesUpTo 1 s t
  completed : ∀ (w : Segment) (y : Transition), s.segment n = some w → w.weld = true →
    s.transitions.find? (·.weld == n) = some y → t.transitions = s.transitions.filter (fun z => z.weld ≠ n) ∧
    t.logs[LogNo.schedule] = s.logs[LogNo.schedule].append 32 s.logTime (.completed y .exitGauge) ∧
    (s.port.notices.length < 32 → Notice.transition .completed y (some .exitGauge) ∈ t.port.notices)
  plain : (∀ z ∈ s.transitions, z.weld ≠ n) → t.transitions = s.transitions

theorem scheduleArrival_x6 (n : SegNo) (s : State) : ExitArrives n s (scheduleArrival PointNo.x6 n s) := by
  have hbite : biteOf PointNo.x6 = none := by decide
  have hcases : scheduleArrival PointNo.x6 n s =
      if ((s.segment n).any (·.weld)) = true then completeTransition n .exitGauge s else s := by
    unfold scheduleArrival
    rw [hbite]
    cases s.segment n <;> rfl
  obtain ⟨hframe, hlogs, hqueues⟩ := completeTransition_frame n .exitGauge s
  rw [hcases]
  split
  next hw =>
    refine ⟨hframe, hlogs, hqueues, fun w y _ _ hy => ?_, fun hno => ?_⟩
    · rw [completeTransition_some hy]
      exact ⟨rfl, logs_set_same s _ _, fun hroom => mem_queueNotice hroom⟩
    · rw [completeTransition_none (List.find?_eq_none.2 fun z hz => by simpa using hno z hz)]
  next hw =>
    refine ⟨rfl, fun _ _ => rfl, QueuesUpTo.same rfl 1, fun w y hseg hweld _ => absurd ?_ hw, fun _ => rfl⟩
    rw [hseg]
    exact hweld

/-! ### The passage at X6 -/

theorem passage_x6 {s : State} (hp : (passX6 s.points[PointNo.x6].cursor s).points = s.points) : passage PointNo.x6 s =
    scheduleArrival PointNo.x6 (s.points[PointNo.x6].cursor + 1)
      ((passX6 s.points[PointNo.x6].cursor s).setPoint PointNo.x6 (s.points[PointNo.x6].passed s.full)) := by
  have hbite : biteOf PointNo.x6 = none := by decide
  have hdown : downstream PointNo.x6 = none := by decide
  have hact : passageActions PointNo.x6 s.points[PointNo.x6].cursor s = passX6 s.points[PointNo.x6].cursor s := by
    simp only [passageActions, hbite]
    rfl
  simp only [passage, arrive, hbite, hdown, hact, hp]
  rfl

/-- A passage at X6 of the oldest segment, the arrival of X6 included. -/
theorem passage_exit {g : Segment} {rest : List Segment} {x : InForce} {pre post : List CoilReport} {r : CoilReport} {s : State}
    (h : ExitSegment g rest x pre post r s) (hn : s.points[PointNo.x6].cursor = g.number) :
    ∃ u, ExitPassed g rest x pre post (r.account g .passed (verdictOf (meanOf s.points[PointNo.x6]) x g.number))
        (runJudged s.runState g (verdictOf (meanOf s.points[PointNo.x6]) x g.number) x.sched.mark s.line.runLength)
        (meanOf s.points[PointNo.x6]) s u ∧
      ExitArrives (g.number + 1) (u.setPoint PointNo.x6 (s.points[PointNo.x6].passed s.full)) (passage PointNo.x6 s) := by
  have hpassed := passX6_passed h
  refine ⟨_, hpassed, ?_⟩
  rw [passage_x6 (by rw [hn]; exact hpassed.kept.1), hn]
  exact scheduleArrival_x6 _ _

/-! ### The sample -/

/-- The state b in which X6 passes at a ROLL_SPEED[6] sample, and the state r that its passage leaves. -/
structure ExitSample (s : State) (l : LinkNo) (f : SensorFields) (o : ReaderOrder) (e : EntryNo) (v : Int) (b r : State) :
    Prop where
  frame : { b with points := s.points } = s.sampled l f e v
  own : b.points[PointNo.x6] = { s.points[PointNo.x6] with travelled := s.points[PointNo.x6].travelled + s.advanceOf 5 PointNo.x6 }
  passed : r = passage PointNo.x6 b
  exec : exec (.sensorFrame l (sensorFrameBytes f) o) s =
    .next (speedTaken 5 v (r.setPoint PointNo.x6 { r.points[PointNo.x6] with advanced := some s.time }))

theorem speedSample_exits {s : State} {l : LinkNo} {f : SensorFields} (o : ReaderOrder) {e : EntryNo} {v : Int} {n : SegNo}
    {u : PointNo} (ht : s.trip = .normal) (hb : Brings s l f e (.rollSpeed 5) v) (h : PassesOnce s 5 PointNo.x6 u n)
    (hpass : ∀ b : State, { b with points := s.points } = s.sampled l f e v → b.points[PointNo.x6].cursor = n →
      (passage PointNo.x6 b).points[PointNo.x6] = b.points[PointNo.x6].passed b.full ∧ (passage PointNo.x6 b).line = b.line) :
    ∃ b r, ExitSample s l f o e v b r := by
  obtain ⟨post, b, hc, hexec⟩ := speedSample_comesTo o ht hb h.driven h.others
  have hpost : post = [] := List.eq_nil_iff_forall_not_mem.2 fun q hq => by
    have hlt : 8 < q.val := hc.after q hq
    have := q.isLt
    omega
  have hbt : b.trip = s.trip := (congrArg State.trip hc.frame :)
  have htime : b.time = s.time := (congrArg State.time hc.frame :)
  have hfull : b.full = s.line.segLen * 1024 := congrArg (fun x : LineParams => x.segLen * 1024) (congrArg State.line hc.frame :)
  have hadv : b.advanceOf 5 PointNo.x6 = s.advanceOf 5 PointNo.x6 := hc.advance _ hc.own
  have hcar : (b.carried 5 PointNo.x6).points[PointNo.x6] =
      { s.points[PointNo.x6] with travelled := s.points[PointNo.x6].travelled + s.advanceOf 5 PointNo.x6 } := by
    rw [carried_point, hc.own, hadv]
  obtain ⟨hpoint, hline⟩ := hpass (b.carried 5 PointNo.x6) hc.frame ((congrArg Point.cursor hcar).trans h.cursor)
  have hturn := advanceTurn_passes (s := b) (driverOf_drives ((drives_eq s 5 _).trans h.driven)) (frozen_false (hbt.trans ht))
    (by rw [hc.own]; exact h.started) h.upstream (fun hst => by
      rw [(hc.kept u).1] at hst
      rw [(hc.kept u).2.1, hc.own, h.cursor]
      exact h.free hst)
    (by rw [hc.own, hfull]; exact h.short) (by rw [hc.own, hadv, hfull]; exact h.full) (by
      have hrfull : (passage PointNo.x6 (b.carried 5 PointNo.x6)).full = s.line.segLen * 1024 :=
        (congrArg (fun x : LineParams => x.segLen * 1024) hline).trans hfull
      have hcfull : (b.carried 5 PointNo.x6).full = s.line.segLen * 1024 := hfull
      rw [hpoint, hrfull, hcar, hcfull]
      show s.points[PointNo.x6].travelled + s.advanceOf 5 PointNo.x6 - s.line.segLen * 1024 < s.line.segLen * 1024
      have := h.once
      omega)
  rw [hpost, List.foldl_nil, ← htime, hturn, htime] at hexec
  exact ⟨b.carried 5 PointNo.x6, _, hc.frame, hcar, rfl, hexec⟩

/-- Settles O45: a passage at X6. -/
theorem exitPassage : Obligations.ExitPassage := by
  intro l f o e v s g rest x pre post r vd run acc hb ht h hr hno hx hreports hcoil hothers htrips hvd hrun hacc
  have hvd' : vd = verdictOf (meanOf s.points[PointNo.x6]) x g.number := hvd
  have hrun' : run = runJudged s.runState g vd x.sched.mark s.line.runLength := by
    rw [hrun]
    cases vd with
    | none => rfl
    | some d =>
      cases hoff : d.off with
      | false =>
        simp only [runJudged, Option.filter_some, hoff]
        rfl
      | true =>
        simp only [runJudged, Option.filter_some, hoff]
        cases s.runState <;> rfl
  clear hrun
  have hacc' : acc = r.account g .passed vd := by
    rw [hacc]
    cases vd with
    | none =>
      cases hm : g.manual <;> cases ht : g.tripMark <;> simp [CoilReport.account, hm, ht]
    | some d =>
      cases hoff : d.off <;> cases hfirst : r.firstOff <;> cases hm : g.manual <;> cases ht : g.tripMark <;>
        simp [CoilReport.account, hoff, hm, ht, hfirst]
  clear hacc hvd
  have hsegment : ∀ b : State, { b with points := s.points } = s.sampled l f e v → ExitSegment g rest x pre post r b := fun b hbf =>
    ⟨(congrArg State.ring hbf :).trans hr, hno, by
      unfold State.inForce at hx ⊢
      rw [show b.table = s.table from (congrArg State.table hbf :)]
      exact hx, (congrArg State.reports hbf :).trans hreports, hcoil, hothers,
      (startsTrip_congr (s := s) (congrArg State.policy hbf :) (congrArg State.trip hbf :) (congrArg State.mode hbf :) _).trans
        (startsTrip_of_trips htrips)⟩
  obtain ⟨b, w, hc⟩ := speedSample_exits o ht hb h fun b hbf hcur => by
    obtain ⟨u, hu, ha⟩ := passage_exit (hsegment b hbf) hcur
    refine ⟨?_, (congrArg State.line ha.frame :).trans (congrArg State.line hu.frame :)⟩
    rw [show (passage PointNo.x6 b).points = _ from (congrArg State.points ha.frame :)]
    exact setPoint_same u _ _
  have hframe := hc.frame
  have hcur : b.points[PointNo.x6].cursor = g.number := (congrArg Point.cursor hc.own).trans h.cursor
  have hmean : meanOf b.points[PointNo.x6] = meanOf s.points[PointNo.x6] := (congrArg meanOf hc.own).trans rfl
  obtain ⟨u, hu, ha⟩ := passage_exit (hsegment b hframe) hcur
  rw [← hc.passed] at ha
  have hbrun : b.runState = s.runState := (congrArg State.runState hframe :)
  have hbline : b.line = s.line := (congrArg State.line hframe :)
  have hbfull : b.full = s.line.segLen * 1024 := congrArg (fun x : LineParams => x.segLen * 1024) hbline
  rw [hmean, ← hvd', hbrun, hbline, ← hrun', ← hacc'] at hu
  have hbstands : b.stands = s.stands := (congrArg State.stands hframe :)
  have hbfaults : b.faults = s.faults := (congrArg State.faults hframe :)
  have hbtable : b.table = s.table := (congrArg State.table hframe :)
  have hbcount : b.coilCounter = s.coilCounter := (congrArg State.coilCounter hframe :)
  have hblogs : b.logs = s.logs := (congrArg State.logs hframe :)
  have hbtime : b.logTime = s.logTime := (congrArg State.logTime hframe :)
  have hbtrans : b.transitions = s.transitions := (congrArg State.transitions hframe :)
  have hbroom : b.port.notices.length ≤ s.port.notices.length :=
    (congrArg (fun y : State => y.port.notices.length) hframe :).trans_le (beginNext_notices s.port)
  have hwstands : w.stands = u.stands := (congrArg State.stands ha.frame :)
  have hwfaults : w.faults = u.faults := (congrArg State.faults ha.frame :)
  have hwreports : w.reports = u.reports := (congrArg State.reports ha.frame :)
  have hwrun : w.runState = u.runState := (congrArg State.runState ha.frame :)
  have hulogs : (u.setPoint PointNo.x6 (b.points[PointNo.x6].passed b.full)).logs = u.logs := rfl
  have hutime : u.logTime = b.logTime := (congrArg State.logTime hu.frame :)
  have hring : u.ring = rest := hu.ring
  have hpoint : w.points[PointNo.x6] = b.points[PointNo.x6].passed b.full := by
    rw [show w.points = _ from (congrArg State.points ha.frame :)]
    exact setPoint_same u _ _
  refine ⟨_, hc.exec, ?_, ?_, ?_, ?_, fun j hj => ?_, fun m p hp hm hmm hramp => ?_, fun hk => ?_,
      fun q hq hraised hfresh hpend => ?_,
    fun hpend => ?_, fun hcomp hcount closed hclosed => ?_, fun y tr hy hweld htr => ?_, fun hno' => ?_⟩
  · exact (congrArg State.ring ha.frame :).trans hring
  · show (w.setPoint PointNo.x6 { w.points[PointNo.x6] with advanced := some s.time }).points[PointNo.x6] = _
    rw [setPoint_same, hpoint, hc.own, hbfull]
    show Point.mk _ _ _ _ _ _ _ _ = _
    rw [← h.cursor]
    rfl
  · show w.faults[Kind.trackFull].active = _
    rw [hwfaults, hu.trackFull, hbfaults]
  · refine (congrArg State.table ha.frame :).trans ?_
    rw [← hbtable]
    exact hu.table
  · show w.stands[j] = _
    rw [hwstands, hu.others j hj, hbstands]
  · show w.stands[(5 : Stand)] = _
    rw [← hbstands] at hp hm ⊢
    rw [hwstands, hu.trimmed m p hp hm hmm hramp]
    rfl
  · show w.stands[(5 : Stand)] = _
    rw [← hbstands] at hk ⊢
    rw [hwstands, hu.untrimmed hk]
  · show q.coil.toNat ∈ w.faults[Kind.offGaugeRun].active
    rw [hwfaults]
    exact hu.raised q hq hraised (by rw [hbrun]; exact hfresh) (by rw [hbcount]; exact hpend)
  · obtain ⟨h1, h2, h3, h4⟩ := hu.pending (by rw [hbcount]; exact hpend)
    refine ⟨hwreports.trans h1, hwrun.trans h2, ?_, ?_⟩
    · exact (ha.logs _ (by decide)).trans (h3.trans (by rw [hblogs]))
    · exact (ha.logs _ (by decide)).trans (h4.trans (by rw [hblogs, hbrun, hbtime]))
  · obtain ⟨h1, h2, h3, h4, h5⟩ := hu.complete hcomp (by rw [hbcount]; exact hcount)
    have hcl : acc.closed b.line.segLen .complete = closed := by rw [hclosed, hbline]; rfl
    rw [hcl] at h2 h3
    refine ⟨hwreports.trans h1, ?_, fun hroom => ?_, hwrun.trans h4, ?_⟩
    · exact (ha.logs _ (by decide)).trans (h2.trans (by rw [hblogs, hbtime]))
    · have hlen := hu.queues.length (by omega)
      exact ha.queues.keeps (by show u.port.notices.length + 1 ≤ 32; omega) (h3 (by omega))
    · exact (ha.logs _ (by decide)).trans (h5.trans (by rw [hblogs, hbrun, hbtime]))
  · have hseg : u.segment (g.number + 1) = some y := by
      unfold State.segment at hy ⊢
      rw [hr, List.find?_cons_of_neg (by simp)] at hy
      rw [hring]
      exact hy
    have htrans : u.transitions = s.transitions := hu.kept.2.trans hbtrans
    obtain ⟨h1, h2, h3⟩ := ha.completed y tr hseg hweld (by
      show u.transitions.find? _ = _
      rw [htrans]
      exact htr)
    refine ⟨h1.trans (by rw [← htrans]; rfl), h2.trans ?_, fun hroom => h3 ?_⟩
    · show u.logs[LogNo.schedule].append 32 u.logTime _ = _
      rw [hu.schedule, hutime, hblogs, hbtime]
    · have hlen := hu.queues.length (by omega)
      show u.port.notices.length < 32
      omega
  · have htrans : u.transitions = s.transitions := hu.kept.2.trans hbtrans
    refine (ha.plain fun z hz => ?_).trans htrans
    exact hno' z (by rw [← htrans]; exact hz)

end Sys2Proof.Machine

/-! SUPPORT. The points that a forced release moves off the oldest segment (R62 step 1), and their arrivals (R60). -/

namespace Sys2Proof.Machine

/-! ### Arrivals at another weld segment -/

theorem scheduleArrival_cases (p : PointNo) (n : SegNo) (s : State) : scheduleArrival p n s = s ∨
    (∃ k, scheduleArrival p n s = switchStand k n s) ∨ scheduleArrival p n s = completeTransition n .exitGauge s := by
  unfold scheduleArrival
  split
  next g hg =>
    split
    next =>
      split
      next k hk => exact .inr (.inl ⟨k, rfl⟩)
      next =>
        split
        next => exact .inr (.inr rfl)
        next => exact .inl rfl
    next => exact .inl rfl
  next => exact .inl rfl

/-- R88: a switched stand leaves every transition of another weld segment and every other log. -/
theorem switchStand_elsewhere {k : Stand} {n m : SegNo} {s : State} (h : n ≠ m) :
    (switchStand k m s).transitions.find? (·.weld == n) = s.transitions.find? (·.weld == n) ∧
    ∀ g : LogNo, g ≠ LogNo.schedule → (switchStand k m s).logs[g] = s.logs[g] := by
  unfold switchStand
  split
  next x hx =>
    split
    next => exact ⟨rfl, fun _ _ => rfl⟩
    next =>
      refine ⟨?_, fun g hg => logs_set_other s _ hg⟩
      show (s.transitions.map _).find? _ = _
      rw [List.find?_map]
      have hpred : ((fun y : Transition => y.weld == n) ∘ fun u : Transition =>
          if u.weld = m then { u with switched := u.switched.set k true } else u) = fun y => y.weld == n := by
        funext u
        simp only [Function.comp_apply]
        split <;> rfl
      rw [hpred]
      cases hy : s.transitions.find? (·.weld == n) with
      | none => rfl
      | some y =>
        have hw : y.weld = n := by simpa using List.find?_some (p := fun z : Transition => z.weld == n) hy
        rw [Option.map_some, if_neg (by rw [hw]; exact h)]
  next => exact ⟨rfl, fun _ _ => rfl⟩

theorem filter_find_elsewhere {n m : SegNo} (h : n ≠ m) (ts : List Transition) :
    (ts.filter (·.weld ≠ m)).find? (·.weld == n) = ts.find? (·.weld == n) := by
  rw [List.find?_filter]
  refine List.find?_congr fun y _ => ?_
  by_cases hy : y.weld = n
  · simp [hy, h]
  · simp [hy]

theorem scheduleArrival_elsewhere {p : PointNo} {n m : SegNo} {s : State} (h : n ≠ m) :
    (scheduleArrival p m s).transitions.find? (·.weld == n) = s.transitions.find? (·.weld == n) ∧
    ∀ g : LogNo, g ≠ LogNo.schedule → (scheduleArrival p m s).logs[g] = s.logs[g] := by
  rcases scheduleArrival_cases p m s with heq | ⟨k, heq⟩ | heq
  · rw [heq]
    exact ⟨rfl, fun _ _ => rfl⟩
  · rw [heq]
    exact switchStand_elsewhere h
  · rw [heq]
    refine ⟨?_, (completeTransition_frame m .exitGauge s).2.1⟩
    cases hy : s.transitions.find? (·.weld == m) with
    | none => rw [completeTransition_none hy]
    | some y =>
      rw [completeTransition_some hy]
      exact filter_find_elsewhere h s.transitions

/-- A stand whose bite point has arrived at segment n. -/
def StandCtl.arrived (x : StandCtl) (n : SegNo) : StandCtl := { x with bite := some n, sum := 0, count := 0 }

/-- R60: the arrival of a point at segment m, apart from the transitions of m. -/
theorem arrive_spec {p : PointNo} {n m : SegNo} {s : State} (h : n ≠ m) :
    (∀ k : Stand, (arrive p m s).stands[k] = if bitePoint k = p then s.stands[k].arrived m else s.stands[k]) ∧
    (arrive p m s).transitions.find? (·.weld == n) = s.transitions.find? (·.weld == n) ∧
    ∀ g : LogNo, g ≠ LogNo.schedule → (arrive p m s).logs[g] = s.logs[g] := by
  cases hb : biteOf p with
  | none =>
    have heq : arrive p m s = scheduleArrival p m s := by simp only [arrive, hb]
    obtain ⟨hfind, hlogs⟩ := scheduleArrival_elsewhere (p := p) (s := s) h
    rw [heq]
    refine ⟨fun k => ?_, hfind, hlogs⟩
    rw [if_neg (biteOf_none hb k), show (scheduleArrival p m s).stands = s.stands from
      (congrArg State.stands (scheduleArrival_frame p m s) :)]
  | some j =>
    have heq : arrive p m s = scheduleArrival p m (biteArrives j m s) := by simp only [arrive, hb]
    obtain ⟨hfind, hlogs⟩ := scheduleArrival_elsewhere (p := p) (s := biteArrives j m s) h
    rw [heq]
    refine ⟨fun k => ?_, hfind, hlogs⟩
    rw [show (scheduleArrival p m (biteArrives j m s)).stands = s.stands.set j (s.stands[j].arrived m) from
      (congrArg State.stands (scheduleArrival_frame p m (biteArrives j m s)) :)]
    refine (stands_set_at s j k _).trans ?_
    rw [← biteOf_some hb]
    by_cases hkj : k = j
    · rw [if_pos hkj, if_pos (by rw [hkj]), hkj]
    · rw [if_neg hkj, if_neg fun hx => hkj (bitePoint_inj.1 hx)]

/-! ### Points moved off a segment -/

/-- R62 step 1: a point at the start of the segment after n. -/
def Point.movedOff (x : Point) (n : SegNo) : Point :=
  { x with cursor := n + 1, travelled := 0, sum := 0, count := 0, clamped := false }

/-- What moving the points of a list off segment n does. -/
structure MovedOff (n : SegNo) (ps : List PointNo) (s t : State) : Prop where
  frame : { t with
    points := s.points, stands := s.stands, faults := s.faults, transitions := s.transitions, logs := s.logs, port := s.port } = s
  points : ∀ p : PointNo, t.points[p] = if p ∈ ps ∧ s.standsOn n p = true then s.points[p].movedOff n else s.points[p]
  stands : ∀ k : Stand, t.stands[k] =
    if bitePoint k ∈ ps ∧ s.standsOn n (bitePoint k) = true then s.stands[k].arrived (n + 1) else s.stands[k]
  ends : Ends [Kind.trackOverrun] s t
  gone : ∀ p ∈ ps, s.standsOn n p = true → s.points[p].clamped = true → p.val ∉ t.faults[Kind.trackOverrun].active
  transitions : t.transitions.find? (·.weld == n) = s.transitions.find? (·.weld == n)
  logs : ∀ g : LogNo, g ≠ LogNo.schedule → t.logs[g] = s.logs[g]

theorem MovedOff.refl (n : SegNo) (s : State) : MovedOff n [] s s :=
  ⟨rfl, fun _ => (if_neg fun h => absurd h.1 List.not_mem_nil).symm, fun _ => (if_neg fun h => absurd h.1 List.not_mem_nil).symm,
    Ends.refl _ s, fun _ hp => absurd hp List.not_mem_nil, rfl, fun _ _ => rfl⟩

theorem standsOn_iff {s : State} {n : SegNo} {p : PointNo} :
    s.standsOn n p = true ↔ s.points[p].started = true ∧ s.points[p].cursor = n := by
  rw [State.standsOn, Bool.and_eq_true, beq_iff_eq]

theorem moveOff_moved (n : SegNo) (p : PointNo) (s : State) : MovedOff n [p] s (moveOff n p s) := by
  have hne : n ≠ n + 1 := by bv_omega
  unfold moveOff
  dsimp only
  split
  next h =>
    have hon : s.standsOn n p = true := standsOn_iff.2 h
    let a := s.setPoint p (s.points[p].movedOff n)
    obtain ⟨u, hu, huf, hup, huends, hugone⟩ : ∃ u,
        u = (if s.points[p].clamped = true then a.inactive Kind.trackOverrun p.val else a) ∧ { u with faults := s.faults } = a ∧
        u.points = a.points ∧ Ends [Kind.trackOverrun] s u ∧
        (s.points[p].clamped = true → p.val ∉ u.faults[Kind.trackOverrun].active) := by
      cases hcl : s.points[p].clamped with
      | true => exact ⟨_, rfl, rfl, rfl, Ends.inactive_of rfl, fun _ => inactive_gone _ _ _⟩
      | false => exact ⟨_, rfl, rfl, rfl, Ends.of_faults (by rfl) _, fun h => absurd h (by decide)⟩
    have hall : MovedOff n [p] s (arrive p (n + 1) u) := by
      have hf := arrive_frame p (n + 1) u
      obtain ⟨hst, htr, hlg⟩ := arrive_spec (p := p) (s := u) hne
      have hufaults : (arrive p (n + 1) u).faults = u.faults := (congrArg State.faults hf :)
      have hpts : (arrive p (n + 1) u).points = s.points.set p (s.points[p].movedOff n) :=
        (congrArg State.points hf :).trans hup
      have hstands : u.stands = s.stands := (congrArg State.stands huf :)
      have htrans : u.transitions = s.transitions := (congrArg State.transitions huf :)
      have hlogs : u.logs = s.logs := (congrArg State.logs huf :)
      refine ⟨?_, fun q => ?_, fun k => ?_, ?_, fun q hq _ hcl => ?_, ?_, fun g hg => ?_⟩
      · exact (congrArg (fun x : State => { x with
          points := s.points, stands := s.stands, faults := s.faults, transitions := s.transitions, logs := s.logs
          port := s.port }) hf :).trans (congrArg (fun x : State => { x with
          points := s.points, stands := s.stands, faults := s.faults, transitions := s.transitions, logs := s.logs
          port := s.port }) huf :)
      · rw [hpts, points_set_at]
        by_cases hq : q = p
        · rw [if_pos hq, if_pos ⟨by rw [hq]; exact List.mem_singleton_self p, by rw [hq]; exact hon⟩, hq]
        · rw [if_neg hq, if_neg fun hx => hq (List.mem_singleton.1 hx.1)]
      · rw [hst k, hstands]
        by_cases hk : bitePoint k = p
        · rw [if_pos hk, if_pos ⟨by rw [hk]; exact List.mem_singleton_self p, by rw [hk]; exact hon⟩]
        · rw [if_neg hk, if_neg fun hx => hk (List.mem_singleton.1 hx.1)]
      · exact huends.trans (Ends.of_faults hufaults _)
      · rw [hufaults, List.mem_singleton.1 hq]
        exact hugone (by rw [← List.mem_singleton.1 hq]; exact hcl)
      · rw [htr, htrans]
      · rw [hlg g hg, hlogs]
    rw [hu] at hall
    exact hall
  next h =>
    have hoff : ¬ s.standsOn n p = true := fun hx => h (standsOn_iff.1 hx)
    refine ⟨rfl, fun q => (if_neg fun hx => hoff ?_).symm, fun k => (if_neg fun hx => hoff ?_).symm, Ends.refl _ s,
      fun q hq hon => absurd ?_ hoff, rfl, fun _ _ => rfl⟩
    · rw [← List.mem_singleton.1 hx.1]
      exact hx.2
    · rw [← List.mem_singleton.1 hx.1]
      exact hx.2
    · rw [← List.mem_singleton.1 hq]
      exact hon

theorem MovedOff.cons {n : SegNo} {p : PointNo} {ps : List PointNo} {s t u : State} (hp : p ∉ ps) (h : MovedOff n [p] s t)
    (h' : MovedOff n ps t u) : MovedOff n (p :: ps) s u := by
  have hsame : ∀ q : PointNo, q ≠ p → t.points[q] = s.points[q] := fun q hq => by
    rw [h.points q, if_neg fun hx => hq (List.mem_singleton.1 hx.1)]
  have hon : ∀ q : PointNo, q ≠ p → t.standsOn n q = s.standsOn n q := fun q hq => by
    unfold State.standsOn
    rw [hsame q hq]
  have hne : ∀ q ∈ ps, q ≠ p := fun q hq he => hp (he ▸ hq)
  refine ⟨?_, fun q => ?_, fun k => ?_, h.ends.trans h'.ends, fun q hq hst hcl => ?_, h'.transitions.trans h.transitions,
    fun g hg => (h'.logs g hg).trans (h.logs g hg)⟩
  · exact (congrArg (fun x : State => { x with
      points := s.points, stands := s.stands, faults := s.faults, transitions := s.transitions, logs := s.logs
      port := s.port }) h'.frame :).trans h.frame
  · rw [h'.points q]
    by_cases hq : q = p
    · rw [if_neg fun hx => hp (by rw [← hq]; exact hx.1), h.points q, hq]
      simp
    · rw [hon q hq, hsame q hq]
      simp [hq]
  · rw [h'.stands k]
    by_cases hk : bitePoint k = p
    · rw [if_neg fun hx => hp (by rw [← hk]; exact hx.1), h.stands k, hk]
      simp
    · have hkeep : t.stands[k] = s.stands[k] := by rw [h.stands k, if_neg fun hx => hk (List.mem_singleton.1 hx.1)]
      rw [hon _ hk, hkeep]
      simp [hk]
  · rcases List.mem_cons.1 hq with hqp | hqps
    · intro hx
      exact h.gone q (List.mem_singleton.2 hqp) hst hcl (h'.ends.fewer _ _ hx)
    · exact h'.gone q hqps (by rw [hon q (hne q hqps)]; exact hst) (by rw [hsame q (hne q hqps)]; exact hcl)

theorem moveOffs_moved (n : SegNo) : ∀ (ps : List PointNo) (s : State), ps.Nodup →
    MovedOff n ps s (ps.foldl (fun s p => moveOff n p s) s)
  | [], s, _ => MovedOff.refl n s
  | p :: ps, s, hnodup => by
    obtain ⟨hp, hps⟩ := List.nodup_cons.1 hnodup
    exact (moveOff_moved n p s).cons hp (moveOffs_moved n ps (moveOff n p s) hps)

end Sys2Proof.Machine

/-! SUPPORT. The forced release of the oldest segment (R62, R63, R90, R160, R166, R167). -/

namespace Sys2Proof.Machine

/-- What a forced release of segment g writes once the points have moved off it; `acc` is the coil's report with the segment
accounted. -/
structure ForcedOut (g : Segment) (pre post : List CoilReport) (acc : CoilReport) (s t : State) : Prop where
  frame : s.unexit t = s
  kept : t.points = s.points ∧ t.stands = s.stands
  ring : t.ring = s.ring.drop 1
  table : t.table = tableDropped g.tag s.table
  runs : t.runState = s.runState.filter fun q => q.coil ≠ g.coil
  defect : t.logs[LogNo.defect] = s.logs[LogNo.defect].afterRun (s.runState.filter fun q => q.coil = g.coil) s.logTime
  ends : Ends [Kind.offGaugeRun] s t
  pending : acc.accounted ≠ acc.created ∨ s.coilCounter = g.coil → t.reports = pre ++ acc :: post
  complete : acc.accounted = acc.created → s.coilCounter ≠ g.coil → t.reports = pre ++ post ∧
    t.logs[LogNo.coil] = s.logs[LogNo.coil].append 16 s.logTime (.coil (acc.closed s.line.segLen .complete))
  completed : ∀ y : Transition, s.transitions.find? (·.weld == g.number) = some y →
    (∀ z ∈ t.transitions, z.weld ≠ g.number) ∧
    t.logs[LogNo.schedule].entries.getLast?.map (·.content) = some (.completed y .forced)

theorem releaseSegment_forced (g : Segment) (s : State) : releaseSegment g .forced none s =
    completeTransition g.number .forced (dropRef g.tag (judgeCompletion g.coil
      (modifyReport g.coil (fun r => r.account g .forced none) (endRunOf g.coil { s with ring := s.ring.drop 1 })))) := rfl

/-- A run that has ended leaves none of its coil to end. -/
theorem filter_filter_run (r : Option RunState) (c : CoilNo) : ((r.filter fun q => q.coil ≠ c).filter fun q => q.coil ≠ c) =
    (r.filter fun q => q.coil ≠ c) ∧ ((r.filter fun q => q.coil ≠ c).filter fun q => q.coil = c) = none := by
  cases r with
  | none => exact ⟨rfl, rfl⟩
  | some q => by_cases h : q.coil = c <;> simp [Option.filter_some, h]

theorem append_last (g : Log) (n : Nat) (t : Millis) (c : LogContent) :
    (g.append n t c).entries.getLast?.map (·.content) = some c := by
  simp [Log.append]

/-- R59, R62, R90: the oldest segment is released FORCED. -/
theorem releaseSegment_forcedOut {g : Segment} {pre post : List CoilReport} {r : CoilReport} {s : State}
    (hr : s.reports = pre ++ r :: post) (hcoil : r.coil = g.coil) (hno : ∀ y ∈ pre ++ post, y.coil ≠ g.coil) :
    ForcedOut g pre post (r.account g .forced none) s (releaseSegment g .forced none s) := by
  rw [releaseSegment_forced]
  have hrun := endRunOf_ends g.coil { s with ring := s.ring.drop 1 }
  generalize endRunOf g.coil { s with ring := s.ring.drop 1 } = u at hrun
  have hur : u.reports = pre ++ r :: post := (congrArg State.reports hrun.frame :).trans hr
  have hv := modifyReport_at (f := fun r => r.account g .forced none) hur hcoil hno
  have hvf : { modifyReport g.coil (fun r => r.account g .forced none) u with reports := u.reports } = u := rfl
  generalize modifyReport g.coil (fun r => r.account g .forced none) u = v at hv hvf
  have hj := judgeCompletion_accounted hv (show (r.account g .forced none).coil = g.coil from hcoil) hno
  generalize r.account g .forced none = acc at hv hj
  generalize judgeCompletion g.coil v = j at hj
  obtain ⟨hcf, hclogs, -⟩ := completeTransition_frame g.number .forced (dropRef g.tag j)
  have hcomp : ∀ y : Transition, j.transitions.find? (·.weld == g.number) = some y →
      (∀ z ∈ (completeTransition g.number .forced (dropRef g.tag j)).transitions, z.weld ≠ g.number) ∧
      (completeTransition g.number .forced (dropRef g.tag j)).logs[LogNo.schedule].entries.getLast?.map (·.content) =
        some (.completed y .forced) := fun y hy => by
    rw [completeTransition_some (s := dropRef g.tag j) hy]
    refine ⟨fun z hz => by simpa using (List.mem_filter.1 hz).2, ?_⟩
    show ((j.logs.set LogNo.schedule _)[LogNo.schedule]).entries.getLast?.map _ = _
    rw [logs_set_same]
    exact append_last _ _ _ _
  generalize completeTransition g.number .forced (dropRef g.tag j) = t at hcf hclogs hcomp
  have hjf : s.unexit j = s := (congrArg s.unexit hj.frame :).trans
      ((congrArg s.unexit hvf :).trans (congrArg s.unexit hrun.frame :))
  have hvrun : v.runState = s.runState.filter fun q => q.coil ≠ g.coil := (congrArg State.runState hvf :).trans hrun.run
  have hvlogs : v.logs = u.logs := (congrArg State.logs hvf :)
  have hvtime : v.logTime = s.logTime := (congrArg State.logTime hvf :).trans (congrArg State.logTime hrun.frame :)
  have hvline : v.line = s.line := (congrArg State.line hvf :).trans (congrArg State.line hrun.frame :)
  have hvcount : v.coilCounter = s.coilCounter :=
    (congrArg State.coilCounter hvf :).trans (congrArg State.coilCounter hrun.frame :)
  have hvdefect : v.logs[LogNo.defect] = s.logs[LogNo.defect].afterRun (s.runState.filter fun q => q.coil = g.coil) s.logTime := by
    rw [hvlogs]
    exact hrun.defect
  have hjtrans : j.transitions = s.transitions := (congrArg State.transitions hj.frame :).trans
    ((congrArg State.transitions hvf :).trans (congrArg State.transitions hrun.frame :))
  obtain ⟨hff, hfn⟩ := filter_filter_run s.runState g.coil
  have hjruns : j.runState = (s.runState.filter fun q => q.coil ≠ g.coil) ∧
      j.logs[LogNo.defect] = s.logs[LogNo.defect].afterRun (s.runState.filter fun q => q.coil = g.coil) s.logTime := by
    by_cases h : acc.accounted ≠ acc.created ∨ v.coilCounter = g.coil
    · obtain ⟨-, hr, hl, -⟩ := hj.pending h
      exact ⟨hr.trans hvrun, by rw [hl]; exact hvdefect⟩
    · obtain ⟨h1, h2⟩ := not_or.1 h
      obtain ⟨-, -, -, hr, hl⟩ := hj.complete (not_ne_iff.1 h1) h2
      rw [hvrun] at hr hl
      rw [hff] at hr
      rw [hfn] at hl
      exact ⟨hr, hl.trans hvdefect⟩
  refine ⟨(congrArg s.unexit hcf :).trans hjf, ⟨?_, ?_⟩, ?_, ?_, (congrArg State.runState hcf :).trans hjruns.1,
    (hclogs _ (by decide)).trans hjruns.2, ?_, fun h => ?_, fun h1 h2 => ?_, fun y hy => hcomp y (by rw [hjtrans]; exact hy)⟩
  · exact (congrArg State.points hcf :).trans ((congrArg State.points hj.frame :).trans
      ((congrArg State.points hvf :).trans (congrArg State.points hrun.frame :)))
  · exact (congrArg State.stands hcf :).trans ((congrArg State.stands hj.frame :).trans
      ((congrArg State.stands hvf :).trans (congrArg State.stands hrun.frame :)))
  · exact (congrArg State.ring hcf :).trans ((congrArg State.ring hj.frame :).trans
      ((congrArg State.ring hvf :).trans (congrArg State.ring hrun.frame :)))
  · refine (congrArg State.table hcf :).trans (congrArg (tableDropped g.tag) ?_)
    exact (congrArg State.table hj.frame :).trans ((congrArg State.table hvf :).trans (congrArg State.table hrun.frame :))
  · have hvfaults : v.faults = u.faults := (congrArg State.faults hvf :)
    have htfaults : t.faults = j.faults := (congrArg State.faults hcf :)
    exact Ends.trans (t := { s with ring := s.ring.drop 1 }) (Ends.of_faults (by rfl) _)
      (hrun.ends.trans ((Ends.of_faults hvfaults _).trans (hj.ends.trans (Ends.of_faults htfaults _))))
  · exact (congrArg State.reports hcf :).trans (hj.pending (by rw [hvcount]; exact h)).1
  · obtain ⟨hreports, hclosed, -⟩ := hj.complete h1 (by rw [hvcount]; exact h2)
    refine ⟨(congrArg State.reports hcf :).trans hreports, (hclogs _ (by decide)).trans (hclosed.trans ?_)⟩
    rw [hvline, hvtime, hvlogs]
    exact congrArg (fun l : Log => l.append 16 s.logTime _) (hrun.logs _ (by decide))

end Sys2Proof.Machine

/-! SUPPORT. X0 over the end of the open segment at a full ring (R47, R57, R62). -/

namespace Sys2Proof.Machine

/-! ### The forced release whole (R62, R63) -/

/-- What a forced release of the oldest segment writes. -/
structure ForceReleased (g : Segment) (rest : List Segment) (pre post : List CoilReport) (acc : CoilReport) (s t : State) :
    Prop where
  frame : s.unexit t = s
  ring : t.ring = rest
  points : ∀ p : PointNo, t.points[p] = if s.standsOn g.number p = true then s.points[p].movedOff g.number else s.points[p]
  stands : ∀ k : Stand, t.stands[k] =
    if s.standsOn g.number (bitePoint k) = true then s.stands[k].arrived (g.number + 1) else s.stands[k]
  gone : ∀ p : PointNo, s.standsOn g.number p = true → s.points[p].clamped = true →
    p.val ∉ t.faults[Kind.trackOverrun].active
  full : 0 ∈ t.faults[Kind.trackFull].active
  latched : t.faults[Kind.trackFull].latched =
    (s.faults[Kind.trackFull].latched || !decide (0 ∈ s.faults[Kind.trackFull].active))
  table : t.table = tableDropped g.tag s.table
  runs : t.runState = s.runState.filter fun q => q.coil ≠ g.coil
  defect : t.logs[LogNo.defect] = s.logs[LogNo.defect].afterRun (s.runState.filter fun q => q.coil = g.coil) s.logTime
  pending : acc.accounted ≠ acc.created ∨ s.coilCounter = g.coil → t.reports = pre ++ acc :: post
  complete : acc.accounted = acc.created → s.coilCounter ≠ g.coil → t.reports = pre ++ post ∧
    t.logs[LogNo.coil] = s.logs[LogNo.coil].append 16 s.logTime (.coil (acc.closed s.line.segLen .complete))
  completed : ∀ y : Transition, s.transitions.find? (·.weld == g.number) = some y →
    (∀ z ∈ t.transitions, z.weld ≠ g.number) ∧
    t.logs[LogNo.schedule].entries.getLast?.map (·.content) = some (.completed y .forced)

theorem forceRelease_eq {s : State} {g : Segment} {rest : List Segment} (h : s.ring = g :: rest) : forceRelease s =
    raise Kind.trackFull 0 (releaseSegment g .forced none ((List.finRange 9).foldl (fun s p => moveOff g.number p s) s)) := by
  simp only [forceRelease, h]

theorem forceRelease_released {g : Segment} {rest : List Segment} {pre post : List CoilReport} {r : CoilReport} {s : State}
    (hring : s.ring = g :: rest) (hr : s.reports = pre ++ r :: post) (hcoil : r.coil = g.coil)
    (hno : ∀ y ∈ pre ++ post, y.coil ≠ g.coil) (hs : startsTrip s Kind.trackFull = false) :
    ForceReleased g rest pre post (r.account g .forced none) s (forceRelease s) := by
  rw [forceRelease_eq hring]
  have hm := moveOffs_moved g.number (List.finRange 9) s (List.nodup_finRange 9)
  generalize (List.finRange 9).foldl (fun s p => moveOff g.number p s) s = m at hm
  have hmreports : m.reports = s.reports := (congrArg State.reports hm.frame :)
  have hmring : m.ring = s.ring := (congrArg State.ring hm.frame :)
  have hmrun : m.runState = s.runState := (congrArg State.runState hm.frame :)
  have hmtime : m.logTime = s.logTime := (congrArg State.logTime hm.frame :)
  have hmcount : m.coilCounter = s.coilCounter := (congrArg State.coilCounter hm.frame :)
  have hmline : m.line = s.line := (congrArg State.line hm.frame :)
  have hmtable : m.table = s.table := (congrArg State.table hm.frame :)
  have hmcoil : m.logs[LogNo.coil] = s.logs[LogNo.coil] := hm.logs _ (by decide)
  have hmdefect : m.logs[LogNo.defect] = s.logs[LogNo.defect] := hm.logs _ (by decide)
  have hf := releaseSegment_forcedOut (hmreports.trans hr) hcoil hno
  generalize r.account g .forced none = acc at hf
  generalize releaseSegment g .forced none m = f at hf
  have hff : s.unexit f = s := (congrArg s.unexit hf.frame :).trans (congrArg s.unexit hm.frame :)
  have hfs : startsTrip f Kind.trackFull = false := (startsTrip_congr (s := s) (congrArg State.policy hff :)
    (congrArg State.trip hff :) (congrArg State.mode hff :) _).trans hs
  have ht := raise_quiet (k := Kind.trackFull) 0 (by decide) hfs
  generalize raise Kind.trackFull 0 f = t at ht
  have htpoints : t.points = m.points := (congrArg State.points ht.recorded :).trans hf.kept.1
  have htstands : t.stands = m.stands := (congrArg State.stands ht.recorded :).trans hf.kept.2
  have hall : ∀ p : PointNo, p ∈ List.finRange 9 := List.mem_finRange
  have hrow : f.faults[Kind.trackFull] = s.faults[Kind.trackFull] :=
    (hf.ends.others _ (by decide)).trans (hm.ends.others _ (by decide))
  refine ⟨(congrArg s.unexit ht.recorded :).trans hff, ?_, fun p => ?_, fun k => ?_, fun p hon hcl => ?_, ht.on, ?_, ?_, ?_, ?_,
    fun h => ?_, fun h1 h2 => ?_, fun y hy => ?_⟩
  · refine (congrArg State.ring ht.recorded :).trans (hf.ring.trans ?_)
    rw [hmring, hring]
    rfl
  · rw [htpoints, hm.points p]
    exact if_congr (and_iff_right (hall p)) rfl rfl
  · rw [htstands, hm.stands k]
    exact if_congr (and_iff_right (hall _)) rfl rfl
  · rw [ht.others _ (by decide), hf.ends.others _ (by decide)]
    exact hm.gone p (hall p) hon hcl
  · rw [ht.latched, hrow]
    simp
  · exact (congrArg State.table ht.recorded :).trans (hf.table.trans (by rw [hmtable]))
  · exact (congrArg State.runState ht.recorded :).trans (hf.runs.trans (by rw [hmrun]))
  · exact (ht.logs _ (by decide)).trans (hf.defect.trans (by rw [hmdefect, hmrun, hmtime]))
  · exact (congrArg State.reports ht.recorded :).trans (hf.pending (by rw [hmcount]; exact h))
  · obtain ⟨hreports, hlog⟩ := hf.complete h1 (by rw [hmcount]; exact h2)
    exact ⟨(congrArg State.reports ht.recorded :).trans hreports,
      (ht.logs _ (by decide)).trans (hlog.trans (by rw [hmcoil, hmtime, hmline]))⟩
  · obtain ⟨htrans, hlog⟩ := hf.completed y (by rw [hm.transitions]; exact hy)
    have htt : t.transitions = f.transitions := (congrArg State.transitions ht.recorded :)
    rw [htt, ht.logs _ (by decide)]
    exact ⟨htrans, hlog⟩

/-! ### The next segment (R47) -/

/-- R81: the entry schedule stays in force when a reference is dropped. -/
theorem entry_dropped {t : Nat} {s : State} {x : InForce} (h : s.entrySchedule = some x) :
    (tableDropped t s.table).find? (·.isEntry) = some (if x.sched.tag = t then { x with refs := x.refs - 1 } else x) := by
  have hpred : ((fun y : InForce => decide ((y.isEntry || decide (0 < y.refs)) = true ∧ y.isEntry = true)) ∘
      fun y : InForce => if y.sched.tag = t then { y with refs := y.refs - 1 } else y) = fun y => y.isEntry := by
    funext y
    simp only [Function.comp_apply]
    split <;> cases y.isEntry <;> simp
  unfold tableDropped
  rw [List.find?_filter, List.find?_map, hpred, show s.table.find? (fun y => y.isEntry) = some x from h]
  rfl

theorem newSegment_dropped (x : InForce) (t : Nat) (n : SegNo) (c : CoilNo) :
    newSegment (if x.sched.tag = t then { x with refs := x.refs - 1 } else x) n c = newSegment x n c := by
  split <;> rfl

/-! ### X0 over the end of the open segment (R57) -/

theorem passage_x0_eq (s : State) : passage PointNo.x0 s = arrive PointNo.x0 (s.points[PointNo.x0].cursor + 1)
    (unclamp 1 s.points[PointNo.x0].cursor ((passX0 s.points[PointNo.x0].cursor s).setPoint PointNo.x0
      { (passX0 s.points[PointNo.x0].cursor s).points[PointNo.x0] with
        cursor := s.points[PointNo.x0].cursor + 1, travelled := s.points[PointNo.x0].travelled - s.full, sum := 0, count :=
            0 })) := by
  have hbite : biteOf PointNo.x0 = none := by decide
  have hdown : downstream PointNo.x0 = some 1 := by decide
  simp only [passage, passageActions, hbite, hdown, if_true]

/-- A full ring whose oldest segment is g and whose open segment is w, on which X0 stands. -/
structure FullRing (g w : Segment) (mid : List Segment) (x : InForce) (pre post : List CoilReport) (r : CoilReport) (s : State) :
    Prop where
  ring : s.ring = g :: (mid ++ [w])
  size : s.ring.length = 256
  cursor : s.points[PointNo.x0].cursor = w.number
  between : ∀ y ∈ mid, y.number ≠ g.number ∧ y.number ≠ w.number ∧ y.number ≠ w.number + 1
  apart : g.number ≠ w.number
  fresh : g.number ≠ w.number + 1
  sched : s.entrySchedule = some x
  calm : startsTrip s Kind.trackFull = false
  reports : s.reports = pre ++ r :: post
  coil : r.coil = g.coil
  others : ∀ y ∈ pre ++ post, y.coil ≠ g.coil

/-- What a passage of X0 at a full ring writes beside what the forced release has written, `u` being the state after that. -/
structure FullPassed (g w : Segment) (mid : List Segment) (x : InForce) (s u t : State) : Prop where
  frame : { t with points := u.points, faults := u.faults, ring := u.ring, table := u.table, reports := u.reports } = u
  ring : t.ring = mid ++ [{ w with entry := meanOf s.points[PointNo.x0] }, newSegment x (w.number + 1) s.coilCounter]
  point : t.points[PointNo.x0] = { u.points[PointNo.x0] with
    cursor := w.number + 1, travelled := s.points[PointNo.x0].travelled - s.full, sum := 0, count := 0 }
  points : ∀ p : PointNo, p ≠ PointNo.x0 → t.points[p] = if p.val = 1 then u.points[p].freed w.number else u.points[p]
  ends : Ends [Kind.trackOverrun] u t
  table : t.table = u.table.map fun y => if y.sched.tag = x.sched.tag then { y with refs := y.refs + 1 } else y
  reports : t.reports = u.reports.map fun y => if y.coil = s.coilCounter then { y with created := y.created + 1 } else y

theorem passage_full {g w : Segment} {mid : List Segment} {x : InForce} {pre post : List CoilReport} {r : CoilReport} {s : State}
    (h : FullRing g w mid x pre post r s) : ∃ u,
      ForceReleased g (mid ++ [{ w with entry := meanOf s.points[PointNo.x0] }]) pre post (r.account g .forced none)
        (s.setSegment w.number fun y => { y with entry := meanOf s.points[PointNo.x0] }) u ∧
      FullPassed g w mid x s u (passage PointNo.x0 s) := by
  let m := meanOf s.points[PointNo.x0]
  let s1 := s.setSegment w.number fun y => { y with entry := m }
  have hring1 : s1.ring = g :: (mid ++ [{ w with entry := m }]) :=
    setSegment_last (pre := g :: mid) h.ring (fun y hy => by
      rcases List.mem_cons.1 hy with rfl | hy
      · exact h.apart
      · exact (h.between y hy).2.1) _
  have hf := forceRelease_released hring1 h.reports h.coil h.others h.calm
  refine ⟨forceRelease s1, hf, ?_⟩
  have hsize : 256 ≤ s1.ring.length := by rw [hring1, ← h.size, h.ring]; simp
  have hopen : openNext (w.number + 1) s1 = addSegment (w.number + 1) (forceRelease s1) :=
    congrArg (addSegment (w.number + 1)) (if_pos hsize)
  have hpass : passX0 w.number s = addSegment (w.number + 1) (forceRelease s1) := hopen
  rw [passage_x0_eq, h.cursor, hpass]
  generalize forceRelease s1 = u at hf
  have hentry : u.entrySchedule = some (if x.sched.tag = g.tag then { x with refs := x.refs - 1 } else x) := by
    unfold State.entrySchedule
    rw [hf.table]
    exact entry_dropped (s := s1) h.sched
  have htag : (if x.sched.tag = g.tag then { x with refs := x.refs - 1 } else x).sched.tag = x.sched.tag := by split <;> rfl
  have hcount : u.coilCounter = s.coilCounter := (congrArg State.coilCounter hf.frame :)
  rw [addSegment_eq hentry, newSegment_dropped, htag]
  let v : State := { u with
    ring := u.ring ++ [newSegment x (w.number + 1) u.coilCounter]
    table := u.table.map fun y => if y.sched.tag = x.sched.tag then { y with refs := y.refs + 1 } else y
    reports := u.reports.map fun y => if y.coil = u.coilCounter then { y with created := y.created + 1 } else y }
  let z := v.setPoint PointNo.x0 { u.points[PointNo.x0] with
    cursor := w.number + 1, travelled := s.points[PointNo.x0].travelled - s.full, sum := 0, count := 0 }
  show FullPassed g w mid x s u (arrive PointNo.x0 (w.number + 1) (unclamp 1 w.number z))
  have hframe := unclamp_frame 1 w.number z
  obtain ⟨hpoints, hends, -⟩ := unclamp_spec 1 w.number z
  have hring : (unclamp 1 w.number z).ring =
      mid ++ [{ w with entry := m }, newSegment x (w.number + 1) s.coilCounter] := by
    refine (congrArg State.ring hframe :).trans ?_
    show u.ring ++ _ = _
    rw [hf.ring, List.append_assoc, hcount]
    rfl
  have harr : arrive PointNo.x0 (w.number + 1) (unclamp 1 w.number z) = unclamp 1 w.number z := by
    refine arrive_x0 fun y hy => ?_
    have hmem := List.mem_of_find?_eq_some hy
    have hnum := segment_number hy
    rw [hring] at hmem
    simp only [List.mem_append, List.mem_cons, List.not_mem_nil, or_false] at hmem
    rcases hmem with hy' | rfl | rfl
    · exact absurd hnum (h.between y hy').2.2
    · exact absurd (show w.number = w.number + 1 from hnum) (by simp)
    · rfl
  rw [harr]
  have hz : ∀ p : PointNo, p ≠ PointNo.x0 → z.points[p] = u.points[p] := fun p hp => setPoint_other v _ hp
  refine ⟨?_, hring, ?_, fun p hp => ?_, (Ends.of_faults (by rfl) _).trans hends, (congrArg State.table hframe :),
    (congrArg State.reports hframe :).trans (by rw [← hcount]; rfl)⟩
  · exact (congrArg (fun y : State => { y with
      points := u.points, faults := u.faults, ring := u.ring, table := u.table, reports := u.reports }) hframe :)
  · rw [hpoints, points_set_at, if_neg (by decide)]
    exact setPoint_same v _ _
  · rw [hpoints, points_set_at]
    by_cases hp1 : p = 1
    · rw [if_pos hp1, if_pos (by rw [hp1]; rfl), hp1, hz 1 (by decide)]
    · rw [if_neg hp1, if_neg (show ¬ p.val = 1 from fun hx => hp1 (Fin.ext hx)), hz p hp]

end Sys2Proof.Machine

/-! SUPPORT. The ENTRY_LENGTH increment that carries X0 over the end of the open segment at a full ring. -/

namespace Sys2Proof.Machine

/-- A point advanced by an increment, its passages not yet judged. -/
def State.lengthened (s : State) (inc : Int) : State :=
  s.setPoint PointNo.x0 { s.points[PointNo.x0] with travelled := s.points[PointNo.x0].travelled + inc.toNat * 1024 }

/-- R53, R55: an increment that carries X0 over the end of its segment, once. -/
theorem lengthSample_passes {inc : Int} {s : State} (hst : s.points[PointNo.x0].started = true) (hf : s.frozen = false)
    (hover : s.full ≤ s.points[PointNo.x0].travelled + inc.toNat * 1024)
    (hnext : (passage PointNo.x0 (s.lengthened inc)).points[PointNo.x0].travelled < (passage PointNo.x0 (s.lengthened inc)).full) :
    lengthSample inc s.time s = (fun r : State => r.setPoint PointNo.x0 { r.points[PointNo.x0] with advanced := some s.time })
      (passage PointNo.x0 (s.lengthened inc)) := by
  refine (if_pos ⟨hst, by simp [hf]⟩).trans ?_
  refine congrArg (fun r : State => r.setPoint PointNo.x0 { r.points[PointNo.x0] with advanced := some s.time }) ?_
  refine passages_once (s := s.lengthened inc) ?_ hf rfl hnext
  rw [State.lengthened, setPoint_same]
  exact hover

/-- The state b in which X0 passes at an increment, the state u after the forced release, and the state q after the passage. -/
structure FullSample (s : State) (l : LinkNo) (f : SensorFields) (o : ReaderOrder) (inc : Int) (g w : Segment)
    (mid : List Segment) (x : InForce) (pre post : List CoilReport) (acc : CoilReport) (b u q : State) : Prop where
  frame : { b with points := s.points, links := s.links, channels := s.channels } = s.stepStart
  own : b.points[PointNo.x0] = { s.points[PointNo.x0] with travelled := s.points[PointNo.x0].travelled + inc.toNat * 1024 }
  others : ∀ p : PointNo, p ≠ PointNo.x0 → b.points[p] = s.points[p]
  released : ForceReleased g (mid ++ [{ w with entry := meanOf s.points[PointNo.x0] }]) pre post acc
    (b.setSegment w.number fun y => { y with entry := meanOf s.points[PointNo.x0] }) u
  passed : FullPassed g w mid x b u q
  exec : exec (.sensorFrame l (sensorFrameBytes f) o) s =
    .next (q.setPoint PointNo.x0 { q.points[PointNo.x0] with advanced := some s.time })

/-- An accepted increment of a usable ENTRY_LENGTH channel reaches Tracking (R37, R53). -/
theorem lengthFrame_exec {l : LinkNo} {f : SensorFields} {o : ReaderOrder} {s : State} {e : EntryNo} {c : ChannelConfig}
    {r0 : Nat} {inc : Int} (hm : s.links[l].mode = .up) (hrx : s.links[l].rx = []) (hhead : f.headFault = false)
    (he : s.entryAt l f.slot = some e) (hc : s.channels[e].config = some c) (hi : c.item = .entryLength)
    (hst : s.channels[e].state = .valid ∨ s.channels[e].state = .stale) (href : s.channels[e].lengthRef = some r0)
    (hinc : inc = lengthIncrement c (fieldBits f.raw c.start c.length) r0) (h0 : 0 ≤ inc) (h1 : inc ≤ 1000000) :
    ∃ b : State, { b with links := s.links, channels := s.channels } = s.stepStart ∧
      exec (.sensorFrame l (sensorFrameBytes f) o) s = .next (lengthSample inc b.time b) := by
  have hin : inRange .entryLength inc = true := decide_eq_true ⟨h0, h1⟩
  have hn : ¬ (s.channels[e].state.isInvalid = true ∨ s.channels[e].state = .noData) := by
    rintro (hx | hx)
    · exact absurd ((usable_not_lost hst).2.symm.trans hx) (by decide)
    · rcases hst with h | h <;> exact absurd (h.symm.trans hx) (by decide)
  have hexec := frame_routed (f := f) (o := o) hm hrx
  rw [routeFrame_length (s := s.counted l f) he hc hhead hi, takeLength_next (s := s.counted l f) href hinc, if_pos hin,
    accepted_length (s := s.counted l f) hi] at hexec
  refine ⟨(s.counted l f).setChannel e { s.channels[e] with
    state := .valid, held := some (inc, s.time), consecutive := 0, lengthRef := some (fieldBits f.raw c.start c.length) }, rfl, ?_⟩
  exact hexec.trans (congrArg Host.Outcome.next (congrArg (fun u : State => lengthSample inc u.time u) (if_neg hn)))

/-- R62: an increment that carries X0 over the end of the open segment at a full ring. -/
theorem lengthSample_full {l : LinkNo} {f : SensorFields} {o : ReaderOrder} {s b : State} {inc : Int} {g w : Segment}
    {mid : List Segment} {x : InForce} {pre post : List CoilReport} {r : CoilReport}
    (hframe0 : { b with links := s.links, channels := s.channels } = s.stepStart)
    (hexec : exec (.sensorFrame l (sensorFrameBytes f) o) s = .next (lengthSample inc b.time b))
        (h : FullRing g w mid x pre post r s)
    (hx0 : s.points[PointNo.x0].started = true) (ht : s.trip = .normal)
    (hover : s.line.segLen * 1024 ≤ s.points[PointNo.x0].travelled + inc.toNat * 1024)
    (honce : s.points[PointNo.x0].travelled + inc.toNat * 1024 < 2 * (s.line.segLen * 1024)) :
    ∃ b u q, FullSample s l f o inc g w mid x pre post (r.account g .forced none) b u q := by
  have hbpoints : b.points = s.points := (congrArg State.points hframe0 :)
  have hfull : b.full = s.line.segLen * 1024 :=
    congrArg (fun y : LineParams => y.segLen * 1024) (congrArg State.line hframe0 :)
  have hbtrip : b.trip = s.trip := (congrArg State.trip hframe0 :)
  have hx0pt : (b.lengthened inc).points[PointNo.x0] =
      { s.points[PointNo.x0] with travelled := s.points[PointNo.x0].travelled + inc.toNat * 1024 } := by
    rw [State.lengthened, setPoint_same, hbpoints]
  have hother : ∀ p : PointNo, p ≠ PointNo.x0 → (b.lengthened inc).points[p] = s.points[p] := fun p hp => by
    rw [State.lengthened, setPoint_other b _ hp, hbpoints]
  have hframe : { b.lengthened inc with points := s.points, links := s.links, channels := s.channels } = s.stepStart :=
    (congrArg (fun y : State => { y with points := s.points }) hframe0 :)
  have hlfull : (b.lengthened inc).full = s.line.segLen * 1024 := hfull
  have hpassing := lengthSample_passes (s := b) (inc := inc) (by rw [hbpoints]; exact hx0) (frozen_false (hbtrip.trans ht))
    (by rw [hfull, hbpoints]; exact hover)
  generalize b.lengthened inc = b1 at hpassing hx0pt hother hframe hlfull
  have hmean : meanOf b1.points[PointNo.x0] = meanOf s.points[PointNo.x0] := (congrArg meanOf hx0pt).trans rfl
  have htable : b1.table = s.table := (congrArg State.table hframe :)
  have hring1 : b1.ring = s.ring := (congrArg State.ring hframe :)
  have hfr : FullRing g w mid x pre post r b1 := ⟨hring1.trans h.ring, by rw [hring1]; exact h.size,
    (congrArg Point.cursor hx0pt).trans h.cursor, h.between, h.apart, h.fresh, by
      unfold State.entrySchedule
      rw [htable]
      exact h.sched, (startsTrip_congr (s := s) (congrArg State.policy hframe :) (congrArg State.trip hframe :)
    (congrArg State.mode hframe :) _).trans h.calm, (congrArg State.reports hframe :).trans h.reports, h.coil, h.others⟩
  obtain ⟨u, hu, hp⟩ := passage_full hfr
  rw [hmean] at hu
  have hline : (passage PointNo.x0 b1).line = s.line := (congrArg State.line hp.frame :).trans
    ((congrArg State.line hu.frame :).trans (congrArg State.line hframe :))
  rw [show b.time = s.time from (congrArg State.time hframe0 :)] at hpassing hexec
  rw [hpassing (by
    rw [show (passage PointNo.x0 b1).full = s.line.segLen * 1024 from congrArg (fun y : LineParams => y.segLen * 1024) hline,
      hp.point, hx0pt, hlfull]
    show s.points[PointNo.x0].travelled + inc.toNat * 1024 - s.line.segLen * 1024 < s.line.segLen * 1024
    omega)] at hexec
  exact ⟨b1, u, passage PointNo.x0 b1, hframe, hx0pt, hother, hu, hp, hexec⟩

/-- Settles O46: a segment opened at a full ring. -/
theorem forcedRelease : Obligations.ForcedRelease := by
  intro l f o s e c field r0 inc g w mid x pre post r acc hm hrx hhead hx0 ht he hc hi hst href hfield hinc h0 h1 hshort hover honce
    hring hsize hcur hmid hgw hwn hgn hx htrips hreports hcoil hothers hacc
  have hfield' : fieldBits f.raw c.start c.length = field := hfield.symm
  obtain ⟨b0, hframe0, hexec⟩ := lengthFrame_exec (o := o) hm hrx hhead he hc hi hst href (by rw [hfield', hinc]; rfl) h0 h1
  obtain ⟨b, u, q, hs⟩ := lengthSample_full hframe0 hexec ⟨hring, hsize, hcur, hmid, hgw, hgn, hx, startsTrip_of_trips htrips,
    hreports, hcoil, hothers⟩ hx0 ht hover honce
  have hacc' : r.account g .forced none = acc := by
    rw [hacc]
    cases hgm : g.manual <;> cases hgt : g.tripMark <;> simp [CoilReport.account, hgm, hgt]
  rw [hacc'] at hs
  obtain ⟨hframe, hown, hother, hu, hp, hexec⟩ := hs
  have hline : b.line = s.line := (congrArg State.line hframe :)
  have hfull : b.full = s.line.segLen * 1024 := congrArg (fun y : LineParams => y.segLen * 1024) hline
  have hcount : b.coilCounter = s.coilCounter := (congrArg State.coilCounter hframe :)
  have htime : b.logTime = s.logTime := (congrArg State.logTime hframe :)
  have hlogs : b.logs = s.logs := (congrArg State.logs hframe :)
  have hstands : b.stands = s.stands := (congrArg State.stands hframe :)
  have hfaults : b.faults = s.faults := (congrArg State.faults hframe :)
  have htable : b.table = s.table := (congrArg State.table hframe :)
  have hrun : b.runState = s.runState := (congrArg State.runState hframe :)
  have htrans : b.transitions = s.transitions := (congrArg State.transitions hframe :)
  have hmean : meanOf b.points[PointNo.x0] = meanOf s.points[PointNo.x0] := (congrArg meanOf hown).trans rfl
  have hon : ∀ p : PointNo, p ≠ PointNo.x0 → b.standsOn g.number p = s.standsOn g.number p := fun p hp => by
    unfold State.standsOn
    rw [hother p hp]
  have hqstands : q.stands = u.stands := (congrArg State.stands hp.frame :)
  have hqlogs : q.logs = u.logs := (congrArg State.logs hp.frame :)
  have hupoint : ∀ p : PointNo, p ≠ PointNo.x0 →
      u.points[p] = if s.standsOn g.number p = true then s.points[p].movedOff g.number else s.points[p] := fun p hp => by
    rw [hu.points p, ← hon p hp, ← hother p hp]
    rfl
  have hustand : ∀ k : Stand, u.stands[k] =
      if s.standsOn g.number (bitePoint k) = true then s.stands[k].arrived (g.number + 1) else s.stands[k] := fun k => by
    rw [hu.stands k, ← hon _ (bitePoint_ne_x0 k), ← hstands]
    rfl
  have hqpoint : ∀ p : PointNo, p ≠ PointNo.x0 →
      (q.setPoint PointNo.x0 { q.points[PointNo.x0] with advanced := some s.time }).points[p] =
        if p.val = 1 then u.points[p].freed w.number else u.points[p] := fun p hne => by
    rw [setPoint_other q _ hne, hp.points p hne]
  have hoff : ∀ p : PointNo, (s.points[p].started = false ∨ s.points[p].cursor ≠ g.number) → ¬ s.standsOn g.number p = true := by
    intro p h hx
    obtain ⟨h1, h2⟩ := standsOn_iff.1 hx
    rcases h with h | h
    · exact absurd (h.symm.trans h1) (by decide)
    · exact h h2
  have hrow : q.faults[Kind.trackFull] = u.faults[Kind.trackFull] := hp.ends.others _ (by decide)
  refine ⟨_, hexec, ?_, ?_, ?_, fun p hne hst hcur => ⟨?_, fun hcl hx => ?_⟩, fun p hne hoffp => ?_, fun k hst hcur => ?_,
    fun k hoffk => ?_, ?_, ?_, ?_, ?_, ?_, fun hcoil' => ?_, fun hcoil' more hmore => ⟨fun hpend => ?_, fun hdone => ⟨?_, ?_⟩⟩,
    fun y hy => ?_⟩
  · refine hp.ring.trans ?_
    rw [hmean, hcount]
    rfl
  · show (q.setPoint PointNo.x0 _).points[PointNo.x0].cursor = _
    rw [setPoint_same, hp.point]
  · show (q.setPoint PointNo.x0 _).points[PointNo.x0].travelled = _
    rw [setPoint_same, hp.point]
    show b.points[PointNo.x0].travelled - b.full = _
    rw [hown, hfull]
  · rw [hqpoint p hne, hupoint p hne, if_pos (standsOn_iff.2 ⟨hst, hcur⟩)]
    split <;> rfl
  · refine hu.gone p ?_ ?_ (hp.ends.fewer _ _ hx)
    · exact (hon p hne).trans (standsOn_iff.2 ⟨hst, hcur⟩)
    · exact (congrArg Point.clamped (hother p hne)).trans hcl
  · rw [hqpoint p hne, hupoint p hne, if_neg (hoff p hoffp)]
    split
    next h1 =>
      rw [beq_iff_eq.2 h1, Bool.true_and]
      rfl
    next h1 =>
      rw [beq_eq_false_iff_ne.2 h1, Bool.false_and, Bool.false_and, Bool.not_false, Bool.and_true]
  · show q.stands[k] = _
    rw [hqstands, hustand k, if_pos (standsOn_iff.2 ⟨hst, hcur⟩)]
    rfl
  · show q.stands[k] = _
    rw [hqstands, hustand k, if_neg (hoff _ hoffk)]
  · show 0 ∈ q.faults[Kind.trackFull].active
    rw [hrow]
    exact hu.full
  · show q.faults[Kind.trackFull].latched = _
    rw [hrow, hu.latched, ← hfaults]
    rfl
  · refine hp.table.trans ?_
    rw [hu.table, ← htable]
    rfl
  · refine (congrArg State.runState hp.frame :).trans (hu.runs.trans ?_)
    rw [← hrun]
    rfl
  · show q.logs[LogNo.defect] = _
    rw [hqlogs, hu.defect, ← hlogs, ← hrun, ← htime]
    rfl
  · refine hp.reports.trans ?_
    rw [hu.pending (.inr (hcount.trans hcoil')), hcount, hcoil']
    exact modifyReport_at (f := fun y => { y with created := y.created + 1 }) (s := { s with reports := pre ++ acc :: post }) rfl
      (by rw [hacc]; exact hcoil) hothers
  · refine hp.reports.trans ?_
    rw [hu.pending (.inl hpend), hcount, hmore, List.map_append, List.map_cons,
      if_neg fun h => hcoil' (h.symm.trans (by rw [hacc]; exact hcoil))]
  · refine hp.reports.trans ?_
    rw [(hu.complete hdone fun h => hcoil' (hcount.symm.trans h)).1, hcount, hmore, List.map_append]
  · show q.logs[LogNo.coil] = _
    rw [hqlogs, (hu.complete hdone fun h => hcoil' (hcount.symm.trans h)).2, ← hlogs, ← htime, ← hline]
    rfl
  · obtain ⟨h1, h2⟩ := hu.completed y (by
      show b.transitions.find? _ = _
      rw [htrans]
      exact hy)
    refine ⟨fun z hz => h1 z ?_, ?_⟩
    · exact (show q.transitions = u.transitions from (congrArg State.transitions hp.frame :)) ▸ hz
    · show q.logs[LogNo.schedule].entries.getLast?.map _ = _
      rw [hqlogs]
      exact h2

end Sys2Proof.Machine

/-! SUPPORT. What no reader of a sample changes: the links, the channels and the loss conditions (R39, R43). -/

namespace Sys2Proof.Machine

/-! ### The relation -/

/-- The kinds of the loss conditions (R43). -/
def isLossKind (d : Kind) : Bool := decide (5 ≤ d.val ∧ d.val ≤ 11)

/-- In going from s to t no link, no channel and no loss condition has changed, and no time has passed. -/
structure Aside (s t : State) : Prop where
  links : t.links = s.links
  channels : t.channels = s.channels
  time : t.time = s.time
  losses : ∀ d : Kind, isLossKind d = true → ∀ loc : Nat, loc ∈ t.faults[d].active ↔ loc ∈ s.faults[d].active

theorem Aside.refl (s : State) : Aside s s := ⟨rfl, rfl, rfl, fun _ _ _ => Iff.rfl⟩

theorem Aside.trans {s t u : State} (h : Aside s t) (h' : Aside t u) : Aside s u :=
  ⟨h'.links.trans h.links, h'.channels.trans h.channels, h'.time.trans h.time,
      fun d hd loc => (h'.losses d hd loc).trans (h.losses d hd loc)⟩

/-- Conditions of other kinds may end. -/
theorem Aside.of_ends {ks : List Kind} {s t : State} (hl : t.links = s.links) (hc : t.channels = s.channels)
    (ht : t.time = s.time) (h : Ends ks s t)
    (hks : ∀ d ∈ ks, isLossKind d = false) : Aside s t :=
  ⟨hl, hc, ht, fun d hd loc => h.active_of (fun hin => absurd ((hks d hin).symm.trans hd) (by decide)) loc⟩

theorem Aside.of_same {s t : State} (hl : t.links = s.links) (hc : t.channels = s.channels) (ht : t.time = s.time)
    (hf : t.faults = s.faults) : Aside s t := ⟨hl, hc, ht, fun d _ loc => by rw [hf]⟩

theorem Aside.ite {p : Prop} [Decidable p] {s t u : State} (ht : p → Aside s t) (hu : ¬ p → Aside s u) :
    Aside s (if p then t else u) := by
  split
  next h => exact ht h
  next h => exact hu h

theorem foldl_aside {α : Type} {f : State → α → State} (hf : ∀ s a, Aside s (f s a)) :
    ∀ (l : List α) (s : State), Aside s (l.foldl f s)
  | [], s => Aside.refl s
  | a :: l, s => (hf s a).trans (foldl_aside hf l (f s a))

/-! ### Single steps -/

theorem inactive_aside {k : Kind} (hk : isLossKind k = false) (loc : Nat) (s : State) : Aside s (s.inactive k loc) :=
  Aside.of_ends rfl rfl rfl (inactive_ends s k loc) fun d hd => by rw [List.mem_singleton.1 hd]; exact hk

theorem raiseAll_aside {cs : List (Kind × Nat)} (hcs : ∀ c ∈ cs, isLossKind c.1 = false) (s : State) : Aside s (raiseAll cs s) := by
  have hun := raiseAll_untake cs s s
  have hno : ∀ d : Kind, isLossKind d = true → d ∉ tripEndedKinds := by decide
  refine ⟨(congrArg State.links hun :), (congrArg State.channels hun :), (congrArg State.time hun :), fun d hd loc => ?_⟩
  rw [raiseAll_mem cs s (hno d hd) loc]
  exact or_iff_left fun hin => absurd ((hcs _ hin).symm.trans hd) (by decide)

theorem raise_aside {k : Kind} (hk : isLossKind k = false) (loc : Nat) (s : State) : Aside s (raise k loc s) :=
  raiseAll_aside (fun c hc => by rw [List.mem_singleton.1 hc]; exact hk) s

theorem arrive_aside (p : PointNo) (n : SegNo) (s : State) : Aside s (arrive p n s) := by
  have h := arrive_frame p n s
  exact Aside.of_same (congrArg State.links h :) (congrArg State.channels h :) (congrArg State.time h :) (congrArg State.faults h :)

theorem unclamp_aside (p : PointNo) (n : SegNo) (s : State) : Aside s (unclamp p n s) := by
  have h := unclamp_frame p n s
  exact Aside.of_ends (congrArg State.links h :) (congrArg State.channels h :) (congrArg State.time h :)
      (unclamp_spec p n s).2.1 (by decide)

theorem endRun_aside (s : State) : Aside s (endRun s) := by
  obtain ⟨h, -, hends, -⟩ := endRun_spec s
  exact Aside.of_ends (congrArg State.links h :) (congrArg State.channels h :) (congrArg State.time h :) hends (by decide)

theorem endRunOf_aside (c : CoilNo) (s : State) : Aside s (endRunOf c s) := by
  obtain ⟨h, -, hends⟩ := endRunOf_frame c s
  exact Aside.of_ends (congrArg State.links h :) (congrArg State.channels h :) (congrArg State.time h :) hends (by decide)

theorem judgeCompletion_aside (c : CoilNo) (s : State) : Aside s (judgeCompletion c s) := by
  obtain ⟨h, hends, -⟩ := judgeCompletion_frame c s
  exact Aside.of_ends (congrArg State.links h :) (congrArg State.channels h :) (congrArg State.time h :) hends (by decide)

theorem completeTransition_aside (n : SegNo) (c : CompletionCause) (s : State) : Aside s (completeTransition n c s) := by
  have h := (completeTransition_frame n c s).1
  exact Aside.of_same (congrArg State.links h :) (congrArg State.channels h :) (congrArg State.time h :) (congrArg State.faults h :)

theorem monitorTrim_aside (k : Stand) (g : Segment) (m : Option (Int × Nat)) (s : State) : Aside s (monitorTrim k g m s) := by
  have h := monitorTrim_frame k g m s
  exact Aside.of_same (congrArg State.links h :) (congrArg State.channels h :) (congrArg State.time h :) (congrArg State.faults h :)

theorem setPoint_aside (s : State) (p : PointNo) (x : Point) : Aside s (s.setPoint p x) := Aside.of_same rfl rfl rfl rfl

theorem setSegment_aside (s : State) (n : SegNo) (f : Segment → Segment) : Aside s (s.setSegment n f) :=
    Aside.of_same rfl rfl rfl rfl

/-! ### Releases and openings (R59, R62) -/

theorem releaseSegment_aside (g : Segment) (c : ReleaseCause) (v : Option Verdict) (s : State) :
    Aside s (releaseSegment g c v s) := by
  unfold releaseSegment
  extract_lets s1 s2 s3 s4 s5
  have h1 : Aside s s1 := Aside.of_same rfl rfl rfl rfl
  have h2 : Aside s s2 := Aside.ite (fun _ => h1) fun _ => h1.trans (endRunOf_aside _ _)
  clear_value s2
  have h3 : Aside s s3 := h2.trans (Aside.of_same rfl rfl rfl rfl)
  clear_value s3
  have h4 : Aside s s4 := Aside.ite (fun _ => h3) fun _ => h3.trans (judgeCompletion_aside _ _)
  clear_value s4
  have h5 : Aside s s5 := h4.trans (Aside.of_same rfl rfl rfl rfl)
  exact Aside.ite (fun _ => h5.trans (completeTransition_aside _ _ _)) fun _ => h5

theorem moveOffs_aside (n : SegNo) (s : State) : Aside s ((List.finRange 9).foldl (fun s p => moveOff n p s) s) := by
  have h := moveOffs_moved n (List.finRange 9) s (List.nodup_finRange 9)
  generalize (List.finRange 9).foldl (fun s p => moveOff n p s) s = t at h
  exact Aside.of_ends (congrArg State.links h.frame :) (congrArg State.channels h.frame :)
      (congrArg State.time h.frame :) h.ends (by decide)

theorem forceRelease_aside (s : State) : Aside s (forceRelease s) := by
  cases hr : s.ring with
  | nil =>
    have heq : forceRelease s = s := by simp only [forceRelease, hr]
    rw [heq]
    exact Aside.refl s
  | cons g rest =>
    rw [forceRelease_eq hr]
    exact ((moveOffs_aside g.number s).trans (releaseSegment_aside _ _ _ _)).trans (raise_aside (by decide) _ _)

theorem addSegment_aside (n : SegNo) (s : State) : Aside s (addSegment n s) := by
  cases he : s.entrySchedule with
  | none =>
    have heq : addSegment n s = s := by simp only [addSegment, he]
    rw [heq]
    exact Aside.refl s
  | some e =>
    rw [addSegment_eq he]
    exact Aside.of_same rfl rfl rfl rfl

theorem openNext_aside (n : SegNo) (s : State) : Aside s (openNext n s) :=
  (Aside.ite (fun _ => forceRelease_aside s) fun _ => Aside.refl s).trans (addSegment_aside n _)

/-! ### Passages (R55 to R61) -/

theorem joinRun_aside (coil : CoilNo) (n : SegNo) (dev : Int) (mark : MarkMode) (s : State) :
    Aside s (joinRun coil n dev mark s) := by
  have hrun : ∀ r, Aside s { s with runState := r } := fun r => Aside.of_same rfl rfl rfl rfl
  exact Aside.ite (fun _ => (hrun _).trans (raise_aside (k := Kind.offGaugeRun) (by decide) _ _)) fun _ => hrun _

theorem applyVerdict_aside (g : Segment) (v : Option Verdict) (s : State) : Aside s (applyVerdict g v s) := by
  unfold applyVerdict
  split
  next => exact Aside.ite (fun _ => (setSegment_aside s _ _).trans (joinRun_aside _ _ _ _ _)) fun _ => endRun_aside s
  next => exact endRun_aside s

theorem passX0_aside (n : SegNo) (s : State) : Aside s (passX0 n s) := (setSegment_aside s _ _).trans (openNext_aside _ _)

theorem passBite_aside (k : Stand) (n : SegNo) (s : State) : Aside s (passBite k n s) := Aside.of_same rfl rfl rfl rfl

theorem passX1_aside (n : SegNo) (s : State) : Aside s (passX1 n s) := by
  unfold passX1
  extract_lets pt m s1
  have h1 : Aside s s1 := setSegment_aside s n _
  split
  next => exact h1.trans (monitorTrim_aside _ _ _ _)
  next => exact h1

theorem passX6_aside (n : SegNo) (s : State) : Aside s (passX6 n s) := by
  unfold passX6
  extract_lets pt m s1
  have h1 : Aside s s1 := setSegment_aside s n _
  clear_value s1
  split
  next => exact h1
  next g _ =>
    extract_lets s2 v s3
    have h3 : Aside s s3 := (h1.trans (monitorTrim_aside _ _ _ _)).trans (applyVerdict_aside _ _ _)
    clear_value s3
    split
    next => exact h3
    next => exact (h3.trans (releaseSegment_aside _ _ _ _)).trans (inactive_aside (by decide) _ _)

theorem passageActions_aside (p : PointNo) (n : SegNo) (s : State) : Aside s (passageActions p n s) := by
  unfold passageActions
  split
  next => exact passBite_aside _ _ _
  next =>
    exact Aside.ite (fun _ => passX0_aside n s) fun _ => Aside.ite (fun _ => passX1_aside n s) fun _ => passX6_aside n s

theorem passage_aside (p : PointNo) (s : State) : Aside s (passage p s) := by
  unfold passage
  extract_lets pt n excess s1 pt' s2 s3
  have h2 : Aside s s2 := (passageActions_aside p n s).trans (setPoint_aside _ _ _)
  have h3 : Aside s s3 := by
    dsimp only [s3]
    split
    next => exact h2.trans (unclamp_aside _ _ _)
    next => exact h2
  exact h3.trans (arrive_aside _ _ _)

theorem clampPoint_aside (p : PointNo) (s : State) : Aside s (clampPoint p s) :=
  Aside.ite (fun _ => setPoint_aside s _ _) fun _ => (setPoint_aside s _ _).trans (raise_aside (by decide) _ _)

theorem passages_aside (p : PointNo) : ∀ (fuel : Nat) (s : State), Aside s (passages fuel p s)
  | 0, s => Aside.refl s
  | fuel + 1, s => by
    rw [passages]
    exact Aside.ite (fun _ => Aside.refl s) fun _ => Aside.ite (fun _ => setPoint_aside s _ _) fun _ =>
      Aside.ite (fun _ => clampPoint_aside p s) fun _ => (passage_aside p s).trans (passages_aside p fuel (passage p s))

theorem advanceBy_aside (p : PointNo) (d : Nat) (s : State) : Aside s (advanceBy p d s) :=
  (setPoint_aside s _ _).trans (passages_aside p _ _)

theorem speedAdvance_aside (p : PointNo) (t : Micros) (s : State) : Aside s (speedAdvance p t s) := by
  unfold speedAdvance
  extract_lets pt k u
  have hu : Aside s u := by
    dsimp only [u]
    split
    next => exact advanceBy_aside _ _ _
    next => exact Aside.refl s
  exact hu.trans (setPoint_aside _ _ _)

theorem advanceTurn_aside (t : Micros) (s : State) (p : PointNo) : Aside s (advanceTurn t s p) :=
  Aside.ite (fun _ => speedAdvance_aside p t s) fun _ => Aside.refl s

end Sys2Proof.Machine

/-! SUPPORT. The readers of samples change no channel and no loss condition (R39): starting events, speeds, forces, gap positions,
tensions, and what the readers of a channel regain. -/

namespace Sys2Proof.Machine

/-! ### Starting events (R49, R50) -/

theorem clearEarly_aside (q : PointNo) (s : State) : Aside s (clearEarly q s) := by
  obtain ⟨h, -, hends, -⟩ := clearEarly_spec q s
  exact Aside.of_ends (congrArg State.links h :) (congrArg State.channels h :) (congrArg State.time h :) hends (by decide)

theorem startPoint_aside (p : PointNo) (t : Micros) (s : State) : Aside s (startPoint p t s) := by
  unfold startPoint
  split
  next => exact Aside.refl s
  next n _ =>
    extract_lets pt s1 s2 s3
    have h1 : Aside s s1 := setPoint_aside s _ _
    have h2 : Aside s s2 := by
      dsimp only [s2]
      split
      next => exact h1.trans (clearEarly_aside _ _)
      next => exact h1
    clear_value s2
    have h3 : Aside s s3 := h2.trans (arrive_aside _ _ _)
    clear_value s3
    split
    next => exact h3.trans (Aside.of_same rfl rfl rfl rfl)
    next => exact h3

theorem earlyStart_aside (p : PointNo) (s : State) : Aside s (earlyStart p s) :=
  Aside.ite (fun _ => Aside.refl s) fun _ => (setPoint_aside s _ _).trans (raise_aside (k := Kind.trackOverrun) (by decide) _ _)

theorem startingEvent_aside (p : PointNo) (t : Micros) (s : State) : Aside s (startingEvent p t s) := by
  refine Aside.ite (fun _ => ?_) fun _ => Aside.refl s
  split
  next => exact Aside.ite (fun _ => startPoint_aside p t s) fun _ => earlyStart_aside p s
  next => exact Aside.refl s

/-! ### The readers of each role (R39) -/

theorem gaugeReading_aside (p : PointNo) (v : Int) (s : State) : Aside s (gaugeReading p v s) :=
  Aside.ite (fun _ => setPoint_aside s _ _) fun _ => Aside.refl s

theorem rollSpeed_aside (k : Stand) (v : Int) (strip : Bool) (o : ReaderOrder) (s : State) :
    Aside s (deliver (.rollSpeed k) v strip o s) := by
  rw [deliver_speed]
  exact (foldl_aside (advanceTurn_aside s.time) _ s).trans (Aside.of_same rfl rfl rfl rfl)

theorem trackForceSample_aside (k : Stand) (v : Int) (s : State) : Aside s (trackForceSample k v s) := by
  unfold trackForceSample
  split
  next => exact Aside.ite (fun _ => startingEvent_aside _ _ s) fun _ => Aside.refl s
  next => exact Aside.refl s

theorem judgeForceLimits_aside (k : Stand) (v : Int) (s : State) : Aside s (judgeForceLimits k v s) := by
  cases hp : s.stands[k].params with
  | none =>
    have heq : judgeForceLimits k v s = s := by simp only [judgeForceLimits, hp]
    rw [heq]
    exact Aside.refl s
  | some p =>
    rw [judgeForceLimits_eq hp]
    obtain ⟨hf, hends, -⟩ := limitsEnded_spec p v k s
    have hended : Aside s (limitsEnded p v k s) :=
      Aside.of_ends (congrArg State.links hf :) (congrArg State.channels hf :) (congrArg State.time hf :) hends (by decide)
    refine hended.trans (raiseAll_aside (fun c hc => ?_) _)
    rcases mem_limitEvents.1 (show (c.1, c.2) ∈ limitEvents p v k from hc) with ⟨h, -⟩ | ⟨h, -⟩ <;> rw [h] <;> decide

theorem forceSample_aside (k : Stand) (before : Bool) (v : Int) (s : State) :
    Aside s (takeSample k before (gapForceSample k v) s) := by
  have h := forceSample_taken k before v s
  exact Aside.of_ends (congrArg State.links h.frame :) (congrArg State.channels h.frame :)
      (congrArg State.time h.frame :) h.ends (by decide)

theorem deliverForce_aside (k : Stand) (v : Int) (o : ForceOrder) (before : Bool) (s : State) :
    Aside s (deliverForce k v o before s) := by
  have hg := forceSample_aside k before v
  have ht := trackForceSample_aside k v
  have hp := judgeForceLimits_aside k v
  cases o with
  | gtp => exact ((hg _).trans (ht _)).trans (hp _)
  | gpt => exact ((hg _).trans (hp _)).trans (ht _)
  | tgp => exact ((ht _).trans (hg _)).trans (hp _)
  | tpg => exact ((ht _).trans (hp _)).trans (hg _)
  | pgt => exact ((hp _).trans (hg _)).trans (ht _)
  | ptg => exact ((hp _).trans (ht _)).trans (hg _)

theorem judgeGapSample_aside (k : Stand) (v : Int) (s : State) : Aside s (judgeGapSample k v s) := by
  cases hp : s.stands[k].params with
  | none =>
    have heq : judgeGapSample k v s = s := by simp only [judgeGapSample, hp]
    rw [heq]
    exact Aside.refl s
  | some p =>
    have h := judgeGapSample_judged v hp
    exact Aside.of_ends (congrArg State.links h.frame :) (congrArg State.channels h.frame :)
        (congrArg State.time h.frame :) h.ends (by decide)

theorem takeGapPos_aside (k : Stand) (before : Bool) (s : State) : Aside s (takeSample k before (gapPosSample k) s) := by
  have h := takeGapPos_taken k before s
  exact Aside.of_ends (congrArg State.links h.frame :) (congrArg State.channels h.frame :)
      (congrArg State.time h.frame :) h.ends (by decide)

theorem judgeTension_aside (j : Interstand) (v : Int) (s : State) : Aside s (judgeTension j v s) := by
  rcases lt_or_ge v (s.line.breakThreshold : Int) with h | h
  · rw [judgeTension_below h]
    exact Aside.of_same rfl rfl rfl rfl
  · rw [judgeTension_above h]
    exact Aside.trans (t := s.setBreak j .stopped) (Aside.of_same rfl rfl rfl rfl) (inactive_aside (by decide) _ _)

/-- R39: a sample of any role but ENTRY_LENGTH delivered to its readers. -/
theorem deliver_aside {i : Item} (hi : i ≠ .entryLength) (v : Int) (strip : Bool) (o : ReaderOrder) (s : State) :
    Aside s (deliver i v strip o s) := by
  cases i with
  | entryThick => exact Aside.ite (fun _ => gaugeReading_aside _ v s) fun _ => Aside.refl s
  | stand1Thick => exact Aside.ite (fun _ => gaugeReading_aside _ v s) fun _ => Aside.refl s
  | exitThick => exact Aside.ite (fun _ => gaugeReading_aside _ v s) fun _ => Aside.refl s
  | entryLength => exact absurd rfl hi
  | rollSpeed k => exact rollSpeed_aside k v strip o s
  | force k => exact deliverForce_aside k v o.force o.beforeReport s
  | gapPos k =>
    exact Aside.ite (fun _ => (judgeGapSample_aside k v s).trans (takeGapPos_aside k _ _)) fun _ =>
      (takeGapPos_aside k _ s).trans (judgeGapSample_aside k v _)
  | tension j => exact judgeTension_aside j v s

/-- R100, R102: what the readers of a role regain. -/
theorem readersRegain_aside {i : Item} (hi : i ≠ .entryLength) (s : State) : Aside s (readersRegain i s) := by
  cases i with
  | entryLength => exact absurd rfl hi
  | gapPos k => exact Aside.of_same rfl rfl rfl rfl
  | _ => exact Aside.refl s

end Sys2Proof.Machine

/-! SUPPORT. The judgement of a sample in UP (R34 to R39, R41 to R43): accepted, rejected, or a head fault. -/

namespace Sys2Proof.Machine

/-! ### The mode across a starting event -/

/-- R16: no take leads into CONFIG. -/
theorem outsideConfig_careless : Careless fun s => s.mode ≠ .config where
  steady := {
    other := fun e h => by rwa [core_mode e]
    fault := fun _ _ _ _ _ h => h
    safe := fun _ h => h
    log := fun _ _ h => h
    notice := fun _ h => h
    segments := fun _ _ h => h
    point := fun _ _ _ h => h
    unstart := fun h => h
    records := fun _ _ h => h
    changes := fun _ _ h => h
    entries := fun _ _ _ h => h }
  anyFault := fun _ _ h => h
  anyTrip := fun _ _ h => h
  tripped := fun _ => by simp

theorem outsideConfig_tracks : Tracks fun s => s.mode ≠ .config where
  toRaises := outsideConfig_careless.raises
  start := fun _ _ h => h
  opens := fun n h => openNext_any outsideConfig_careless.raises (fun _ h => h) n h
  report := fun _ _ h => h
  change := fun _ _ h => h
  take := fun _ _ _ _ _ h => h

theorem startingEvent_config (p : PointNo) (t : Micros) (s : State) :
    (startingEvent p t s).mode ≠ .config ↔ s.mode ≠ .config := by
  refine ⟨fun h hm => h ?_, fun h => startingEvent_keeps outsideConfig_tracks.fields p t h⟩
  rw [startingEvent_off (.inl (by simp [State.tracking, hm]))]
  exact hm

/-! ### The strip-present flag (R42) -/

/-- In going from s to t the channel of entry e has become x, no link and no other channel has changed, and the loss conditions are
those of s, CONFIG being neither entered nor left. -/
structure ChannelSet (e : EntryNo) (x : Channel) (s t : State) : Prop where
  links : t.links = s.links
  channels : t.channels = s.channels.set e x
  time : t.time = s.time
  config : t.mode ≠ .config ↔ s.mode ≠ .config
  losses : ∀ d : Kind, isLossKind d = true → ∀ loc : Nat, loc ∈ t.faults[d].active ↔ loc ∈ s.faults[d].active

theorem ChannelSet.at {e : EntryNo} {x : Channel} {s t : State} (h : ChannelSet e x s t) : t.channels[e] = x := by
  rw [h.channels]
  simp

theorem ChannelSet.of_aside {e : EntryNo} {x : Channel} {s t : State} (h : Aside (s.setChannel e x) t)
    (hm : t.mode ≠ .config ↔ s.mode ≠ .config) : ChannelSet e x s t := ⟨h.links, h.channels, h.time, hm, h.losses⟩

theorem ChannelSet.again {e : EntryNo} {x y : Channel} {s t : State} (h : ChannelSet e x s t) : ChannelSet e y s
    (t.setChannel e y) := by
  refine ⟨h.links, ?_, h.time, h.config, h.losses⟩
  show t.channels.set e y = _
  rw [h.channels]
  simp

/-- R31, R42: the flag that a channel has once a frame with strip-present flag `strip` has been taken. -/
def Channel.flagged (ch : Channel) (i : Item) (strip : Bool) : Channel :=
  { ch with strip := if i = .entryThick ∨ i = .stand1Thick ∨ i = .exitThick then some strip else ch.strip }

theorem takeStrip_set (e : EntryNo) (i : Item) (strip : Bool) (s : State) :
    ChannelSet e (s.channels[e].flagged i strip) s (takeStrip e i strip s) := by
  cases hg : gaugePoint i with
  | none =>
    have hno : ¬ (i = .entryThick ∨ i = .stand1Thick ∨ i = .exitThick) := by
      rintro (rfl | rfl | rfl) <;> exact absurd hg (by simp [gaugePoint])
    rw [takeStrip_plain hg, Channel.flagged, if_neg hno]
    exact ⟨rfl, (Vector.set_getElem_self _).symm, rfl, Iff.rfl, fun _ _ _ => Iff.rfl⟩
  | some p =>
    have hyes : i = .entryThick ∨ i = .stand1Thick ∨ i = .exitThick := by
      rcases (gaugePoint_cases hg).2 with ⟨h, -⟩ | ⟨h, -⟩ | ⟨h, -⟩
      · exact .inl h
      · exact .inr (.inl h)
      · exact .inr (.inr h)
    rw [takeStrip_gauge hg, Channel.flagged, if_pos hyes]
    dsimp only
    split
    next => exact ChannelSet.of_aside (startingEvent_aside _ _ _) (startingEvent_config _ _ _)
    next => exact ChannelSet.of_aside (Aside.refl _) Iff.rfl

/-! ### Accepted values (R39) -/

/-- R39: an accepted sample makes its entry VALID and ends the loss condition of an entry that was INVALID. -/
theorem acceptSample_judged {e : EntryNo} {c : ChannelConfig} {v : Int} {s : State} (hi : c.item ≠ .entryLength) :
    (acceptSample e c v s).links = s.links ∧
    (acceptSample e c v s).channels = s.channels.set e (s.channels[e].accepted v s.time) ∧
    ∀ d : Kind, isLossKind d = true → ∀ loc : Nat, loc ∈ (acceptSample e c v s).faults[d].active ↔
      loc ∈ s.faults[d].active ∧ ¬ (s.channels[e].state.isInvalid = true ∧ lossOf c.item = some (d, loc)) := by
  unfold acceptSample
  extract_lets ch s1 s2
  have h1 : s2.links = s.links ∧ s2.channels = s.channels.set e (s.channels[e].accepted v s.time) ∧
      ∀ d : Kind, isLossKind d = true → ∀ loc : Nat, loc ∈ s2.faults[d].active ↔
        loc ∈ s.faults[d].active ∧ ¬ (s.channels[e].state.isInvalid = true ∧ lossOf c.item = some (d, loc)) := by
    dsimp only [s2]
    cases hinv : ch.state.isInvalid with
    | false =>
      rw [if_neg (by decide)]
      exact ⟨rfl, rfl, fun d _ loc => (and_iff_left fun h => absurd h.1 (by decide)).symm⟩
    | true =>
      rw [if_pos rfl]
      cases hl : lossOf c.item with
      | none => exact ⟨rfl, rfl, fun d _ loc => (and_iff_left fun h => absurd h.2 (by simp)).symm⟩
      | some kl =>
        refine ⟨rfl, rfl, fun d _ loc => ?_⟩
        show loc ∈ (s1.inactive kl.1 kl.2).faults[d].active ↔ _
        rw [mem_inactive]
        refine and_congr Iff.rfl (not_congr ?_)
        rw [Option.some_inj]
        constructor
        · rintro ⟨rfl, rfl⟩
          exact ⟨rfl, rfl⟩
        · rintro ⟨-, rfl⟩
          exact ⟨rfl, rfl⟩
  have hr : Aside s2 (if ch.state.isInvalid = true ∨ ch.state = .noData then readersRegain c.item s2 else s2) :=
    Aside.ite (fun _ => readersRegain_aside hi s2) fun _ => Aside.refl s2
  exact ⟨hr.links.trans h1.1, hr.channels.trans h1.2.1, fun d hd loc => (hr.losses d hd loc).trans (h1.2.2 d hd loc)⟩

/-! ### Rejected values (R38) -/

/-- A channel with one more reject. -/
def Channel.rejected (ch : Channel) : Channel :=
  { ch with rejects := satAdd ch.rejects 1 Config.top16, consecutive := min (ch.consecutive + 1) 3 }

/-- R38, R41: a reject that is not the third in a row, or of an entry that is INVALID already. -/
theorem rejectSample_counts {e : EntryNo} {s : State} (h : s.channels[e].consecutive < 2 ∨ s.channels[e].state.isInvalid = true) :
    rejectSample e s = s.setChannel e s.channels[e].rejected := by
  refine if_neg fun hx => ?_
  obtain ⟨h1, h2⟩ := hx
  rcases h with h | h
  · omega
  · exact h2 h

theorem isLossKind_iff {d : Kind} : isLossKind d = true ↔ 5 ≤ d.val ∧ d.val ≤ 11 := decide_eq_true_iff

/-- The losses of an event that follows a strip-present flag. -/
theorem ChannelSet.rises {e : EntryNo} {x : Channel} {s m t : State} {lost : Item → Bool} (h : ChannelSet e x s m)
    (ht : LossesRise m t lost) : LossesRise s t lost := fun d h1 h2 loc => by
  rw [ht d h1 h2 loc, h.losses d (isLossKind_iff.2 ⟨h1, h2⟩) loc, h.config]

/-- R38, R41: the third reject in a row of an entry that was not INVALID. -/
theorem rejectSample_loses {e : EntryNo} {c : ChannelConfig} {s : State} (hc : s.channels[e].config = some c)
    (hu : s.channels[e].state ≠ .unbound) (hi : s.channels[e].state.isInvalid = false) (hcons : 2 ≤ s.channels[e].consecutive) :
    (rejectSample e s).links = s.links ∧
    (rejectSample e s).channels = s.channels.set e (s.channels[e].thirdReject.lostBy .range) ∧
    LossesRise s (rejectSample e s) (fun i => i == c.item) := by
  rw [rejectSample_third hcons hi]
  have hat : (s.setChannel e s.channels[e].thirdReject).channels[e] = s.channels[e].thirdReject := setChannel_same s e _
  obtain ⟨hch, hl, hrise⟩ := loseChannel_rise (e := e) (c := .range) (cfg := c) (s := s.setChannel e s.channels[e].thirdReject)
    (by rw [hat]; exact hc) (by rw [hat]; exact hu)
  rw [hat] at hch hrise
  have hthird : s.channels[e].thirdReject.state.isInvalid = false := hi
  rw [hthird] at hrise
  refine ⟨hl, hch.trans ?_, fun d h1 h2 loc => ?_⟩
  · show (s.channels.set e _).set e _ = _
    simp
  · simpa using hrise d h1 h2 loc

/-- What a good frame on a link in UP does for an entry of a role but ENTRY_LENGTH. -/
structure FrameJudged (l : LinkNo) (f : SensorFields) (s : State) (e : EntryNo) (c : ChannelConfig) (v : Int) (t : State) :
    Prop where
  links : t.links = s.links.set l (countGood f.seq { s.links[l] with timer := some s.time, crcRun := 0 })
  accepted : f.headFault = false → (roleRange c.item).1 ≤ v ∧ v ≤ (roleRange c.item).2 →
    t.channels = s.channels.set e ((s.channels[e].flagged c.item f.strip).accepted v s.time) ∧
    ∀ d : Kind, isLossKind d = true → ∀ loc : Nat, loc ∈ t.faults[d].active ↔
      loc ∈ s.faults[d].active ∧ ¬ (s.channels[e].state.isInvalid = true ∧ lossOf c.item = some (d, loc))
  counted : f.headFault = false → ¬ ((roleRange c.item).1 ≤ v ∧ v ≤ (roleRange c.item).2) →
    s.channels[e].consecutive < 2 ∨ s.channels[e].state.isInvalid = true →
    t.channels = s.channels.set e (s.channels[e].flagged c.item f.strip).rejected ∧ LossesRise s t fun _ => false
  lost : f.headFault = false → ¬ ((roleRange c.item).1 ≤ v ∧ v ≤ (roleRange c.item).2) →
    2 ≤ s.channels[e].consecutive → s.channels[e].state.isInvalid = false →
    t.channels = s.channels.set e ((s.channels[e].flagged c.item f.strip).thirdReject.lostBy .range) ∧
    LossesRise s t fun i => i == c.item
  headFault : f.headFault = true → t.channels = s.channels.set e (s.channels[e].lostBy .headFault) ∧
    LossesRise s t fun i => !s.channels[e].state.isInvalid && i == c.item

/-- R36 to R39: the value of a frame without head fault, the strip-present flag having been taken. -/
theorem takeValue_judged {l : LinkNo} {f : SensorFields} {o : ReaderOrder} {s u : State} {e : EntryNo} {c : ChannelConfig} {v : Int}
    (hhead : f.headFault = false) (hc : s.channels[e].config = some c) (hi : c.item ≠ .entryLength)
    (hv : v = roundDiv (fieldValue f.raw c.start c.length c.signed * c.gain) 65536 + c.offset)
        (hbound : s.channels[e].state ≠ .unbound)
    (hu : ChannelSet e (s.channels[e].flagged c.item f.strip) (s.counted l f) u) :
    FrameJudged l f s e c v (takeValue e c f o u) := by
  have hat : u.channels[e] = s.channels[e].flagged c.item f.strip := hu.at
  have htime : u.time = s.time := hu.time
  have hset : ∀ x y : Channel, (s.channels.set e x).set e y = s.channels.set e y := fun x y => by simp
  have hchannels : u.channels = s.channels.set e (s.channels[e].flagged c.item f.strip) := hu.channels
  have hno : ∀ p : Prop, f.headFault = true → p := fun p h => absurd (hhead.symm.trans h) (by decide)
  by_cases hin : (roleRange c.item).1 ≤ v ∧ v ≤ (roleRange c.item).2
  · rw [takeValue_in hv hin]
    obtain ⟨hl, hch, hloss⟩ := acceptSample_judged (e := e) (v := v) (s := u) hi
    have hd := deliver_aside hi v f.strip o (acceptSample e c v u)
    refine ⟨hd.links.trans (hl.trans hu.links), fun _ _ => ⟨?_, fun d hk loc => ?_⟩, fun _ h => absurd hin h,
        fun _ h => absurd hin h,
      hno _⟩
    · rw [hd.channels, hch, hat, htime, hchannels, hset]
    · rw [hd.losses d hk loc, hloss d hk loc, hu.losses d hk loc, hat]
      rfl
  · have hout : v < (roleRange c.item).1 ∨ (roleRange c.item).2 < v := by omega
    rw [takeValue_out hv hout]
    by_cases hfew : s.channels[e].consecutive < 2 ∨ s.channels[e].state.isInvalid = true
    · have heq : rejectSample e u = u.setChannel e (s.channels[e].flagged c.item f.strip).rejected := by
        rw [rejectSample_counts (by rw [hat]; exact hfew), hat]
      rw [heq]
      have hagain := hu.again (y := (s.channels[e].flagged c.item f.strip).rejected)
      refine ⟨hagain.links, fun _ h => absurd h hin, fun _ _ _ => ⟨hagain.channels, fun d h1 h2 loc => ?_⟩,
          fun _ _ h1 h2 => ?_, hno _⟩
      · rw [hagain.losses d (isLossKind_iff.2 ⟨h1, h2⟩) loc]
        exact (or_iff_left fun h => by simpa using h.2).symm
      · rcases hfew with h | h
        · omega
        · exact absurd (h2.symm.trans h) (by decide)
    · obtain ⟨hcons, hinv⟩ := not_or.1 hfew
      obtain ⟨hl, hch, hrise⟩ := rejectSample_loses (e := e) (c := c) (s := u) (by rw [hat]; exact hc) (by rw [hat]; exact hbound)
        (by rw [hat]; exact Bool.eq_false_iff.2 hinv) (by rw [hat]; exact not_lt.1 hcons)
      refine ⟨hl.trans hu.links, fun _ h => absurd h hin, fun _ _ h => absurd h hfew, fun _ _ _ _ => ⟨?_, hu.rises hrise⟩, hno _⟩
      rw [hch, hat, hchannels, hset]

/-- R34: a good frame taken in UP by the entry bound to its link and slot. -/
theorem routeFrame_judged {l : LinkNo} {f : SensorFields} {o : ReaderOrder} {s : State} {e : EntryNo} {c : ChannelConfig} {v : Int}
    (he : s.entryAt l f.slot = some e) (hc : s.channels[e].config = some c) (hi : c.item ≠ .entryLength)
    (hv : v = roundDiv (fieldValue f.raw c.start c.length c.signed * c.gain) 65536 + c.offset)
    (hbound : s.channels[e].state ≠ .unbound) : FrameJudged l f s e c v (routeFrame l f o (s.counted l f)) := by
  cases hhead : f.headFault with
  | true =>
    rw [routeFrame_head (s := s.counted l f) he hc hhead]
    obtain ⟨hch, hl, hrise⟩ := loseChannel_rise (c := .headFault) (s := s.counted l f) hc hbound
    have hno : ∀ p : Prop, f.headFault = false → p := fun p h => absurd (hhead.symm.trans h) (by decide)
    exact ⟨hl, hno _, hno _, hno _, fun _ => ⟨hch, hrise⟩⟩
  | false =>
    rw [routeFrame_value (s := s.counted l f) he hc hhead hi]
    exact takeValue_judged hhead hc hi hv hbound (takeStrip_set e c.item f.strip (s.counted l f))

/-- Settles O39: the samples of every role but ENTRY_LENGTH. -/
theorem samplesJudged : Obligations.SamplesJudged := by
  intro l f o s hm hrx
  have hexec := frame_routed (f := f) (o := o) hm hrx
  refine ⟨fun he => ⟨_, hexec, ?_⟩, fun e c v strip within fresh he hc hi hv hstrip hwithin hfresh hu => ⟨_, hexec, ?_⟩⟩
  · rw [routeFrame_none (s := s.counted l f) he]
    have hl : (s.counted l f).links[l] = countGood f.seq { s.links[l] with timer := some s.time, crcRun := 0 } := by
      show (s.links.set l _)[l] = _
      simp
    rw [hl]
    exact ⟨rfl, rfl, rfl, rfl⟩
  · have hj := routeFrame_judged (o := o) he hc hi hv hu
    have hflag : s.channels[e].flagged c.item f.strip = { s.channels[e] with strip := strip } := by rw [hstrip]; rfl
    have hin : within = true ↔ (roleRange c.item).1 ≤ v ∧ v ≤ (roleRange c.item).2 := by rw [hwithin]; exact decide_eq_true_iff
    have hinv : fresh = false ↔ s.channels[e].state.isInvalid = true := by rw [hfresh]; simp
    have hout : within = false → ¬ ((roleRange c.item).1 ≤ v ∧ v ≤ (roleRange c.item).2) := fun h hx =>
      absurd (h.symm.trans (hin.2 hx)) (by decide)
    generalize routeFrame l f o (s.counted l f) = t at hj
    refine ⟨hj.links, fun hhead hw => ?_, fun hhead hw hfew => ?_, fun hhead hw hcons hf => ?_, fun hhead => ?_⟩
    · obtain ⟨hch, hloss⟩ := hj.accepted hhead (hin.1 hw)
      refine ⟨by rw [hch, hflag]; rfl, fun d h1 h2 loc => ?_⟩
      rw [hloss d (isLossKind_iff.2 ⟨h1, h2⟩) loc, hinv]
    · obtain ⟨hch, hrise⟩ := hj.counted hhead (hout hw) (by rw [← hinv]; exact hfew)
      exact ⟨by rw [hch, hflag]; rfl, hrise⟩
    · obtain ⟨hch, hrise⟩ := hj.lost hhead (hout hw) hcons (by
        rw [Bool.eq_false_iff]
        exact fun h => absurd (hf.symm.trans (hinv.2 h)) (by decide))
      exact ⟨by rw [hch, hflag]; rfl, hrise⟩
    · obtain ⟨hch, hrise⟩ := hj.headFault hhead
      rw [hfresh]
      exact ⟨hch, hrise⟩

end Sys2Proof.Machine
